-- ==== Sys2Proof/Word.lean ====
section
/-! DEFINITION. The word types of the Raldami Veirras 8160 and its 8-bit status codes. -/

namespace Sys2Proof

/-- A byte. -/
abbrev Byte := BitVec 8
/-- A 16-bit half word. -/
abbrev W16 := BitVec 16
/-- A 32-bit word, the width of one vector lane. -/
abbrev W32 := BitVec 32
/-- A 64-bit word, the width of a CSR (R10), a scalar register (R219) and an accumulator container (R39). -/
abbrev W64 := BitVec 64

/-! Status codes (R570). Codes 0x00 to 0x0F report completion without error. -/
namespace Code

/-- Done as requested (R570). -/
abbrev ok : Byte := 0x00
/-- Nothing to do (R566). -/
abbrev okEmpty : Byte := 0x01
/-- Update skipped on a non-finite gradient (R263). -/
abbrev okSkipped : Byte := 0x02
/-- Done, with concealment or a detached receiver (R570). -/
abbrev okDegraded : Byte := 0x03
/-- Unknown opcode, or sequence mismatch. -/
abbrev badCmd : Byte := 0x10
/-- A field is reserved, out of range, inconsistent or wrong for the state. -/
abbrev badParam : Byte := 0x11
/-- The unit named is absent in this variant (R6). -/
abbrev unsupported : Byte := 0x12
/-- No right to the access, resource or command. -/
abbrev perm : Byte := 0x20
/-- Translation failed, or the address is unpopulated (R25). -/
abbrev xlate : Byte := 0x21
/-- A quota, pool or table is full. -/
abbrev quota : Byte := 0x22
/-- Source and destination overlap beyond what is handled. -/
abbrev overlap : Byte := 0x23
/-- Uncorrectable or poisoned data. -/
abbrev eccUncorr : Byte := 0x30
/-- Array fault, poisoned row or width mismatch. -/
abbrev arrayFault : Byte := 0x31
/-- Table load aimed at the active bank. -/
abbrev tableBusy : Byte := 0x32
/-- No beat completed within WATCHDOG. -/
abbrev deadlock : Byte := 0x33
/-- Critical temperature or thermal safe state. -/
abbrev thermal : Byte := 0x40
/-- No usable route or link. -/
abbrev link : Byte := 0x41
/-- Too few pieces to decode. -/
abbrev peerLost : Byte := 0x42
/-- Multicast receiver detached. -/
abbrev detached : Byte := 0x43
/-- Sequential counter disagrees with data position. -/
abbrev restoreMismatch : Byte := 0x50
/-- Signature, CRC or comparison failed. -/
abbrev verify : Byte := 0x51
/-- Ended by fence, abort, teardown, RECLAIM, RAISE, lockstep or safe state. -/
abbrev aborted : Byte := 0x60
/-- A time limit expired. -/
abbrev timeout : Byte := 0x61

end Code

end Sys2Proof
end

