-- ==== Sys2Proof/Syntax.lean ====
section
/-! DEFINITION. The commands of the block: one constructor of `Instr` per row of spec/opcode_table.json, with the
operands that say which unit the step belongs to and what the step is given from outside (a value written, a flit
received, a temperature read, a fault that strikes). Everything else a step needs stands in the state. -/

namespace Sys2Proof

/-- Who makes a CSR access (R27, R447, R529). -/
inductive Agent where
  /-- A Casori pair (firmware), number 0 or 1 (R450). -/
  | firmware (pair : Nat)
  /-- The PF of a port through BAR4 (R447). -/
  | bar4 (port : Nat)
  /-- A function through the context page of BAR0 (R475, R541). -/
  | ctxPage (ctx : Nat)
  /-- The debug port (R513, R563). -/
  | debugPort
  deriving DecidableEq, Repr

/-- What the moving feeder had to issue in the interval that ends (R93). -/
structure FeederWork where
  /-- A moving vector was waiting in the interval's last cycle. -/
  last : Bool
  /-- A moving vector was waiting in some cycle of the interval. -/
  any : Bool
  deriving DecidableEq, Repr

/-- Who asks the ledger for units (R483). -/
inductive Requester where
  | core (c : Nat)
  | ingest (k : Nat)
  | link (l : Nat)
  deriving DecidableEq, Repr

/-- On whose behalf an HBM request is made (R324, R325). -/
inductive HbmSource where
  | ctx (n : Nat)
  | firmware
  | repairCopier
  deriving DecidableEq, Repr

/-- What has befallen a sector of HBM before a read of it (R328, R329) (log 15): nothing, an error that on-die ECC
corrects and reports, a single-bit error, or an error that CHECK cannot correct, a write at a wrong offset among them. -/
inductive SectorStrike where
  | clean
  | onDie
  | single
  | uncorrectable
  deriving DecidableEq, Repr

/-- A read of a sector: on whose behalf, and what has befallen the sector. -/
structure SectorRead where
  src : HbmSource
  strike : SectorStrike
  deriving DecidableEq, Repr

/-- What makes a pseudo-channel due for training (R338). -/
inductive RetrainTrigger where
  | periodic
  | temperature
  | errors
  deriving DecidableEq, Repr

/-- What link ECC found on an LPDDR access (R351). -/
inductive LppLink where
  | clean
  | corrected
  | failed
  deriving DecidableEq, Repr

/-- A flit (R356), with the CRC-32C it carries. -/
structure Flit where
  ftype : Nat
  vl : Nat
  som : Bool
  eom : Bool
  hops : Nat
  seq : Nat
  ack : Nat
  crvl : Nat
  crcnt : Nat
  plen : Nat
  dst : Nat
  src : Nat
  /-- The 240 payload bytes, flit bytes 12 to 251. -/
  payload : List Byte
  crc : W32
  deriving DecidableEq, Repr

/-- What answers a page request (R444). -/
inductive AtsResponse where
  | granted (bus : Nat)
  | refused
  deriving DecidableEq, Repr

/-- The clock domains (R477). -/
inductive ClockDomain where
  | arith (die : Nat)
  | fabric
  | hbm (stack : Nat)
  | phy (stack : Nat)
  | link (lm : Nat)
  | pcie (port : Nat)
  | ingest (cluster : Nat)
  | casori
  | lpp
  | security
  | debug
  | timebase
  deriving DecidableEq, Repr

/-- The strap pins latched on the rising edge of PORST_N (R559, R560). -/
structure Straps where
  lprank : Bool
  lpden : Nat
  smbaddr : Nat
  dbgscan : Bool
  deriving DecidableEq, Repr

/-- What the host leaves in the configuration of a port's functions as they come up (R441, R442, R445): Memory Space Enable,
log2 of the size of BAR2, and the pages of host memory, by bus page, whose requests end in Unsupported Request or Completer
Abort (R444). -/
structure FnCfg where
  mse : Bool
  bar2 : Nat
  dead : List Nat
  deriving DecidableEq, Repr

/-- A port whose link is up again, with the PF's configuration. -/
structure PortUp where
  port : Nat
  cfg : FnCfg
  deriving DecidableEq, Repr

/-- NumVFs as the PF driver enables them, with the VFs' configuration. -/
structure VfEnable where
  num : Nat
  cfg : FnCfg
  deriving DecidableEq, Repr

/-- What the boot ROM meets in step 1 (R497, R499). -/
structure RomEnv where
  /-- The ROM's self-test passes. -/
  romOk : Bool
  /-- The PLLs of SYSREF, PREF0 and PREF1 lock and LPP training succeeds. -/
  lockOk : Bool
  /-- Ports whose PCIe link trained, with the PF's configuration. -/
  link0 : Option FnCfg
  link1 : Option FnCfg
  deriving DecidableEq, Repr

/-- How the copy of a pushed image ends (R497 step 3, R499). -/
inductive LoadEnd where
  | loaded
  | hostFault
  | lppError
  deriving DecidableEq, Repr

/-- A tamper sensor (R510); DEBUG token failures trip by themselves. -/
inductive TamperSensor where
  | supply
  | clock
  | temperature
  | shield
  deriving DecidableEq, Repr

/-- An access made through the debug port (R513, R563). -/
inductive DebugAccess where
  | readCsr (off : Nat)
  | readMem (addr len : Nat)
  | writeMem (addr : Nat) (bytes : List Byte)
  /-- Halts the control core of a core. -/
  | haltCore (c : Nat)
  /-- Halts a Casori pair. -/
  | haltCasori (pair : Nat)
  deriving DecidableEq, Repr

/-- The commands: one constructor per row of spec/opcode_table.json, in the table's order. -/
inductive Instr where
  /-- CSR_WRITE (R11). A write to a CSR that has no behaviour of its own sets or discards its fields under their access codes, locks and reserved-bit rules. -/
  | csrWrite (ag : Agent) (off : Nat) (width : Nat) (val : W64)
  /-- LDST (R71). An array LDST command starts and loads rows of a stationary set, direct or transposed, from the working store. -/
  | ldst (c : Nat) (a : Nat) (q : Nat)
  /-- PASS (R73). An array PASS command starts and streams moving vectors through a stationary set into accumulator rows. -/
  | pass (c : Nat) (a : Nat) (q : Nat) (fault : Option Nat)
  /-- DRAIN (R75). An array DRAIN command starts and converts accumulator rows once to the working store or the paired vector engine. -/
  | drain (c : Nat) (a : Nat) (q : Nat)
  /-- ZERO (R76). An array ZERO command writes zero containers to accumulator rows and clears their poison. -/
  | zero (c : Nat) (a : Nat) (q : Nat)
  /-- MODE (R76). Once both queues are idle, an array MODE command selects whole or split mode and invalidates the stationary sets. -/
  | modeCmd (c : Nat) (a : Nat) (q : Nat)
  /-- AACK (R76). An array AACK command lifts the fence of a half. -/
  | aack (c : Nat) (a : Nat) (q : Nat)
  /-- ARRAY_COMMAND_COMPLETE (R68). A running array command completes, and its status is reported in queue order to the issuing stream. -/
  | arrayCommandComplete (c : Nat) (a : Nat) (q : Nat)
  /-- COLMASK_APPLY (R91). A pending column-mask write is applied once the array is idle, changing ARRAY_COLS and invalidating the stationary sets. -/
  | colmaskApply (c : Nat) (a : Nat)
  /-- RAMP_INTERVAL_END (R93). At the end of a STEP interval the activity level rises, falls or is kept. -/
  | rampIntervalEnd (c : Nat) (a : Nat) (h : Nat) (work : FeederWork)
  /-- VNOP (R126). A vector no-operation issues. -/
  | vnop (c : Nat) (t : Nat)
  /-- VSETVL (R100). VL is set to min of the scalar operand and 1,024. -/
  | vsetvl (c : Nat) (t : Nat)
  /-- VMOV (R126). A register is copied with its bits unchanged. -/
  | vmov (c : Nat) (t : Nat)
  /-- VBCAST (R126). A scalar is broadcast into every lane. -/
  | vbcast (c : Nat) (t : Nat)
  /-- VIOTA (R126). Each lane receives its own index as UINT32. -/
  | viota (c : Nat) (t : Nat)
  /-- VSEL (R126). Each lane selects from two sources under a select predicate, with its bits unchanged. -/
  | vsel (c : Nat) (t : Nat)
  /-- VADD (R110). Element-wise addition under the rounding mode, or INT32 addition that wraps or clamps. -/
  | vadd (c : Nat) (t : Nat) (mm : Option Nat)
  /-- VSUB (R110). Element-wise subtraction. -/
  | vsub (c : Nat) (t : Nat) (mm : Option Nat)
  /-- VMUL (R110). Element-wise multiplication. -/
  | vmul (c : Nat) (t : Nat) (mm : Option Nat)
  /-- VFMA (R110). Fused multiply-add with one rounding. -/
  | vfma (c : Nat) (t : Nat) (mm : Option Nat)
  /-- VFMS (R110). Fused multiply-subtract with one rounding. -/
  | vfms (c : Nat) (t : Nat) (mm : Option Nat)
  /-- VNFMA (R110). Negated fused multiply-add with one rounding. -/
  | vnfma (c : Nat) (t : Nat) (mm : Option Nat)
  /-- VMAX (R110). Element-wise maximum, NaN winning and -0 ordered below +0. -/
  | vmax (c : Nat) (t : Nat) (mm : Option Nat)
  /-- VMIN (R110). Element-wise minimum. -/
  | vmin (c : Nat) (t : Nat) (mm : Option Nat)
  /-- VABS (R110). Clears the sign bit only. -/
  | vabs (c : Nat) (t : Nat)
  /-- VNEG (R110). Flips the sign bit only. -/
  | vneg (c : Nat) (t : Nat)
  /-- VCMP (R112). Writes a predicate from a comparison condition. -/
  | vcmp (c : Nat) (t : Nat)
  /-- VSCALE (R110). Computes a × 2^b with one rounding. -/
  | vscale (c : Nat) (t : Nat) (mm : Option Nat)
  /-- VAND (R126). Bitwise and. -/
  | vand (c : Nat) (t : Nat)
  /-- VOR (R126). Bitwise or. -/
  | vor (c : Nat) (t : Nat)
  /-- VXOR (R126). Bitwise exclusive-or. -/
  | vxor (c : Nat) (t : Nat)
  /-- VSHL (R111). Shifts left by the low 5 bits of B. -/
  | vshl (c : Nat) (t : Nat)
  /-- VSHR (R111). Logical right shift. -/
  | vshr (c : Nat) (t : Nat)
  /-- VSRA (R111). Arithmetic right shift. -/
  | vsra (c : Nat) (t : Nat)
  /-- VCVT (R113). Converts elements between types, packing densely when the packing changes. -/
  | vcvt (c : Nat) (t : Nat) (mm : Option Nat)
  /-- VCVTMX (R114). Converts FP32 lanes to MX blocks and their scale bytes. -/
  | vcvtmx (c : Nat) (t : Nat) (mm : Option Nat)
  /-- PAND (R126). Predicate and. -/
  | pand (c : Nat) (t : Nat)
  /-- POR (R126). Predicate or. -/
  | por (c : Nat) (t : Nat)
  /-- PXOR (R126). Predicate exclusive-or. -/
  | pxor (c : Nat) (t : Nat)
  /-- PANDN (R126). Predicate and-not. -/
  | pandn (c : Nat) (t : Nat)
  /-- PFROMV (R126). Predicate from the nonzero lanes of a register. -/
  | pfromv (c : Nat) (t : Nat)
  /-- VFROMP (R126). Register of 0 or 1 from a predicate. -/
  | vfromp (c : Nat) (t : Nat)
  /-- VPERM (R115). Permutes lanes by index, writing zero and PERM_OOR for indices out of range. -/
  | vperm (c : Nat) (t : Nat)
  /-- VPERMR (R115). Permutes lanes within rows of the tile view. -/
  | vpermr (c : Nat) (t : Nat)
  /-- VLD (R117). Loads active lanes from the working store. -/
  | vld (c : Nat) (t : Nat)
  /-- VST (R117). Stores active lanes to the working store. -/
  | vst (c : Nat) (t : Nat)
  /-- VGATHER (R116). Gathers 4 B lanes by index from the working store. -/
  | vgather (c : Nat) (t : Nat)
  /-- VSCATTER (R116). Scatters lanes by index to the working store, the highest lane winning. -/
  | vscatter (c : Nat) (t : Nat)
  /-- VRED (R118). Reduces all active elements into lane 0 and optionally a summary register. -/
  | vred (c : Nat) (t : Nat) (mm : Option Nat)
  /-- VREDR (R118). Reduces each row of the tile view into one lane. -/
  | vredr (c : Nat) (t : Nat) (mm : Option Nat)
  /-- VRNG (R125). Writes Philox random words or uniform FP32 values. -/
  | vrng (c : Nat) (t : Nat)
  /-- VDROP (R125). Writes a keyed dropout mask. -/
  | vdrop (c : Nat) (t : Nat)
  /-- VDROPP (R125). Writes a keyed dropout keep predicate. -/
  | vdropp (c : Nat) (t : Nat)
  /-- VSF (R141). Evaluates a function slot on the fast path. -/
  | vsf (c : Nat) (t : Nat) (mm : Option Nat)
  /-- VSFR (R144). Evaluates a function slot on the refined micro-program path. -/
  | vsfr (c : Nat) (t : Nat) (mm : Option Nat)
  /-- VSFSEL (R149). After earlier loads complete, sets BANKSEL for later instructions. -/
  | vsfsel (c : Nat) (t : Nat)
  /-- VSFLD (R147). Checks a slot image and reports its status in a summary register. -/
  | vsfld (c : Nat) (t : Nat)
  /-- SFU_SLOT_WRITE (R148). Once the inactive bank is idle, a checked image is written whole into its slot. -/
  | sfuSlotWrite (c : Nat) (e : Nat)
  /-- SFU_TABLE_SCRUB (R517). In idle table-port cycles, a table word is scrubbed and corrected in place. -/
  | sfuTableScrub (c : Nat) (e : Nat) (bank : Nat) (slot : Nat) (word : Nat)
  /-- VRSTAT (R157). Writes the mean and variance, or inverse deviation, of each row. -/
  | vrstat (c : Nat) (t : Nat) (mm : Option Nat)
  /-- VRSACC (R157). Combines each row's statistics partial into its state slot. -/
  | vrsacc (c : Nat) (t : Nat) (mm : Option Nat)
  /-- VRSOUT (R157). Writes the statistics held in state slots. -/
  | vrsout (c : Nat) (t : Nat) (mm : Option Nat)
  /-- VRSCLR (R157). Empties state slots. -/
  | vrsclr (c : Nat) (t : Nat)
  /-- VSMXACC (R158). Accumulates the online softmax maximum and sum per slot. -/
  | vsmxacc (c : Nat) (t : Nat) (mm : Option Nat)
  /-- VSMXOUT (R157). Writes the running maximum and reciprocal sum per slot. -/
  | vsmxout (c : Nat) (t : Nat) (mm : Option Nat)
  /-- VSCAN (R159). Prefix sum within rows, each result rounded once. -/
  | vscan (c : Nat) (t : Nat) (mm : Option Nat)
  /-- VLSCAN (R160). Linear recurrence within rows in a fixed tree order. -/
  | vlscan (c : Nat) (t : Nat) (mm : Option Nat)
  /-- SE_LOAD (R170). A LOAD reaching the head of the SE queue is checked against its descriptor. -/
  | seLoad (c : Nat)
  /-- SE_STORE (R170). A STORE reaching the head of the SE queue is checked against its descriptor. -/
  | seStore (c : Nat)
  /-- SE_POST (R171). A POST reaches the head of the SE queue and waits for earlier transfers. -/
  | sePost (c : Nat)
  /-- POST_COMPLETE (R171). Once earlier transfers have ended, a POST posts its token with OK or completes with E_ABORTED. -/
  | postComplete (c : Nat)
  /-- TRANSFER_OPEN (R173). The head transfer takes a stream slot and its whole window once both are free and no conflict holds it. -/
  | transferOpen (c : Nat)
  /-- TRANSFER_LANDED (R171). A transfer's bytes are visible, its slot and window are released, and any post is made. -/
  | transferLanded (c : Nat) (id : Nat)
  /-- TRANSFER_ERROR (R170). An error found while data moves stops a transfer, which completes with that status. -/
  | transferError (c : Nat) (id : Nat) (moved : Nat)
  /-- DB_WRITE (R177). A double-buffer register write is held pending until the next beat start, or applied at once when no program runs. -/
  | dbWrite (c : Nat) (n : Nat) (val : W64)
  /-- COMPUTE_SET_RETIRED (R179). The last member of a beat's compute set retires, and the beat's ledger grant is released. -/
  | computeSetRetired (c : Nat)
  /-- LEDGER_REQUEST_SEND (R181). When conditions 1 to 4 of the beat start first hold, the core sends its ledger request. -/
  | ledgerRequestSend (c : Nat)
  /-- LEDGER_GRANT (R484). A request that fits the book is granted 24 cycles after the cycle in which it fits. -/
  | ledgerGrant (who : Requester)
  /-- BEAT_START (R180). A beat starts, applying pending writes, toggling pairs, decrementing waited counters, counting the beat and releasing the streams. -/
  | beatStart (c : Nat)
  /-- WATCHDOG_EXPIRY (R185). The progress watchdog reaches its limit, and the core halts. -/
  | watchdogExpiry (c : Nat)
  /-- COPY (R214). A copy command starts at the head of the copy queue, is checked, and copies a box with a dimension permutation. -/
  | copy (c : Nat)
  /-- COPY_COMPLETE (R215). A copy completes, reports to its stream and posts once every destination byte has landed. -/
  | copyComplete (c : Nat)
  /-- CORE_LAUNCH (R227). Once no program runs, a core checks, clears, loads and starts a launched program. -/
  | coreLaunch (c : Nat)
  /-- ADD (R230). Scalar add. -/
  | add (c : Nat) (t : Nat)
  /-- SUB (R230). Scalar subtract. -/
  | sub (c : Nat) (t : Nat)
  /-- MUL (R230). Scalar multiply keeping the low 64 bits. -/
  | mul (c : Nat) (t : Nat)
  /-- AND (R230). Scalar and. -/
  | and (c : Nat) (t : Nat)
  /-- OR (R230). Scalar or. -/
  | or (c : Nat) (t : Nat)
  /-- XOR (R230). Scalar exclusive-or. -/
  | xor (c : Nat) (t : Nat)
  /-- SHL (R230). Scalar shift left. -/
  | shl (c : Nat) (t : Nat)
  /-- SHR (R230). Scalar logical shift right. -/
  | shr (c : Nat) (t : Nat)
  /-- SRA (R230). Scalar arithmetic shift right. -/
  | sra (c : Nat) (t : Nat)
  /-- SLT (R230). Signed set-less-than. -/
  | slt (c : Nat) (t : Nat)
  /-- SLTU (R230). Unsigned set-less-than. -/
  | sltu (c : Nat) (t : Nat)
  /-- MIN (R230). Signed scalar minimum. -/
  | min (c : Nat) (t : Nat)
  /-- MAX (R230). Signed scalar maximum. -/
  | max (c : Nat) (t : Nat)
  /-- ADDI (R230). Add a sign-extended immediate. -/
  | addi (c : Nat) (t : Nat)
  /-- ANDI (R230). And with a zero-extended immediate. -/
  | andi (c : Nat) (t : Nat)
  /-- ORI (R230). Or with a zero-extended immediate. -/
  | ori (c : Nat) (t : Nat)
  /-- XORI (R230). Exclusive-or with a zero-extended immediate. -/
  | xori (c : Nat) (t : Nat)
  /-- SHLI (R230). Shift left by an immediate. -/
  | shli (c : Nat) (t : Nat)
  /-- SHRI (R230). Logical shift right by an immediate. -/
  | shri (c : Nat) (t : Nat)
  /-- SRAI (R230). Arithmetic shift right by an immediate. -/
  | srai (c : Nat) (t : Nat)
  /-- LI (R230). Loads a sign-extended immediate. -/
  | li (c : Nat) (t : Nat)
  /-- LIH (R230). Loads an immediate into the upper half. -/
  | lih (c : Nat) (t : Nat)
  /-- FADD (R230). Scalar FP32 add. -/
  | fadd (c : Nat) (t : Nat)
  /-- FSUB (R230). Scalar FP32 subtract. -/
  | fsub (c : Nat) (t : Nat)
  /-- FMUL (R230). Scalar FP32 multiply. -/
  | fmul (c : Nat) (t : Nat)
  /-- FFMA (R230). Scalar FP32 fused multiply-add. -/
  | ffma (c : Nat) (t : Nat)
  /-- FCVTIF (R230). Converts INT32 to FP32. -/
  | fcvtif (c : Nat) (t : Nat)
  /-- FCVTFI (R230). Converts FP32 to a clamped INT32. -/
  | fcvtfi (c : Nat) (t : Nat)
  /-- LD (R230). Loads 8 B from the working store. -/
  | ld (c : Nat) (t : Nat)
  /-- LDW (R230). Loads 4 B from the working store, zero-extended. -/
  | ldw (c : Nat) (t : Nat)
  /-- ST (R230). Stores 8 B to the working store. -/
  | st (c : Nat) (t : Nat)
  /-- STW (R230). Stores 4 B to the working store. -/
  | stw (c : Nat) (t : Nat)
  /-- CSRR (R230). Reads a CSR of the core's own block. -/
  | csrr (c : Nat) (t : Nat)
  /-- CSRW (R234). After earlier work of the stream has issued or started, writes a CSR of the core's own block. -/
  | csrw (c : Nat) (t : Nat)
  /-- MRD (R238). Reads a summary register after its earlier writes. -/
  | mrd (c : Nat) (t : Nat)
  /-- MSR (R238). Reads MSTAT after every earlier summary write. -/
  | msr (c : Nat) (t : Nat)
  /-- DBF (R230). Reads the front-half offset of a double-buffer pair. -/
  | dbf (c : Nat) (t : Nat)
  /-- DBB (R230). Reads the back-half offset of a double-buffer pair. -/
  | dbb (c : Nat) (t : Nat)
  /-- BEQ (R230). Branches if equal. -/
  | beq (c : Nat) (t : Nat)
  /-- BNE (R230). Branches if not equal. -/
  | bne (c : Nat) (t : Nat)
  /-- BLT (R230). Branches if signed less than. -/
  | blt (c : Nat) (t : Nat)
  /-- BGE (R230). Branches if signed greater or equal. -/
  | bge (c : Nat) (t : Nat)
  /-- BLTU (R230). Branches if unsigned less than. -/
  | bltu (c : Nat) (t : Nat)
  /-- BGEU (R230). Branches if unsigned greater or equal. -/
  | bgeu (c : Nat) (t : Nat)
  /-- BFLT (R230). Branches on an FP32 less-than comparison. -/
  | bflt (c : Nat) (t : Nat)
  /-- BFGE (R230). Branches on an FP32 greater-or-equal comparison. -/
  | bfge (c : Nat) (t : Nat)
  /-- JAL (R230). Jumps and links. -/
  | jal (c : Nat) (t : Nat)
  /-- JR (R230). Jumps to a register target. -/
  | jr (c : Nat) (t : Nat)
  /-- VTGT (R230). Sets the stream's vector target. -/
  | vtgt (c : Nat) (t : Nat)
  /-- ACMD (R236). Issues an array command, checked against the stream's allotment. -/
  | acmd (c : Nat) (t : Nat)
  /-- SECMD (R169). Issues an SE command into the SE command queue. -/
  | secmd (c : Nat) (t : Nat)
  /-- CPCMD (R212). Issues a copy command into the copy queue. -/
  | cpcmd (c : Nat) (t : Nat)
  /-- SWAP (R178). Ends the stream's beat with a token mask and a ledger request. -/
  | swap (c : Nat) (t : Nat)
  /-- FENCE (R239). Waits until the stream's earlier work for the named units has completed. -/
  | fence (c : Nat) (t : Nat)
  /-- END (R241). Ends the stream once all its issued work completes. -/
  | endCmd (c : Nat) (t : Nat)
  /-- RAISE (R243). Raises a software exception in the stream. -/
  | raise (c : Nat) (t : Nat)
  /-- XACK (R245). Acknowledges an exception and resumes the stream. -/
  | xack (c : Nat) (t : Nat)
  /-- XRD (R230). Reads the stream's own exception record. -/
  | xrd (c : Nat) (t : Nat)
  /-- CNOP (R230). Control-core no-operation. -/
  | cnop (c : Nat) (t : Nat)
  /-- STREAM_DONE (R241). An ending stream's work has all completed, so it enters DONE, and the program may end or the next sequential stream start. -/
  | streamDone (c : Nat) (t : Nat)
  /-- STREAM_EXCEPTION (R244). An error completion or illegal instruction puts a stream in EXC, withdrawing its SWAP and entering its handler or ending the program. -/
  | streamException (c : Nat) (t : Nat)
  /-- CC_LOCKSTEP_MISMATCH (R247). A control-core lockstep mismatch ends the program with E_ABORTED and starts the core test. -/
  | ccLockstepMismatch (c : Nat) (t : Nat)
  /-- UGATE_WRITE (R263). A CSRW of UGATE from stream U starts an update gate, completing at once if COUNT is 0. -/
  | ugateWrite (c : Nat)
  /-- GATE_DECIDE (R263). Once GNF holds enough collectives of the step, the gate continues, skips or ends the update. -/
  | gateDecide (c : Nat)
  /-- CECMD_TRIGGER (R385). A CECMD trigger write acts on the engine once the stream's earlier stores have landed. -/
  | cecmdTrigger (c : Nat)
  /-- CECMD_XFER (R385). A CECMD put or get write acts on the engine once the stream's earlier stores have landed. -/
  | cecmdXfer (c : Nat)
  /-- INGEST_BATCH (R276). A batch is checked and queued to an ingest cluster. -/
  | ingestBatch (sq : Nat)
  /-- BATCH_START (R277). The batch at the head of a cluster queue asks the ledger for units and starts. -/
  | batchStart (k : Nat)
  /-- SEGMENT_START (R278). A decode request starts as a segment on a free decode core. -/
  | segmentStart (k : Nat) (d : Nat)
  /-- SEGMENT_COMPLETE (R294). A segment ends and writes its status record after its output has landed. -/
  | segmentComplete (d : Nat)
  /-- BATCH_COMPLETE (R295). A batch completes with its status, posts and releases its ledger grant. -/
  | batchComplete (b : Nat)
  /-- INGEST_ABORT (R296). A batch is aborted, stopping its segments without a post. -/
  | ingestAbort (sq : Nat)
  /-- STT_SERVE (R311). The stream table serves a running stream and issues at most one batch. -/
  | sttServe
  /-- ST_OPEN (R314). Opens a stream entry from a checked image. -/
  | stOpen (sq : Nat)
  /-- ST_START (R314). Checks the template and starts a stream. -/
  | stStart (sq : Nat)
  /-- ST_STOP (R314). Puts a stream in DRAIN. -/
  | stStop (sq : Nat)
  /-- STREAM_DRAINED (R314). A draining stream reaches OUTB = 0, becomes IDLE, and its stop completes. -/
  | streamDrained (stid : Nat)
  /-- ST_SAVE (R314). Writes a stream entry as a 64 B image. -/
  | stSave (sq : Nat)
  /-- ST_RESTORE (R315). Checks an image and replaces the entry, entering MISMATCH if the sequential counter disagrees. -/
  | stRestore (sq : Nat)
  /-- ST_RESYNC (R314). Sets SEQCTR from the data position. -/
  | stResync (sq : Nat)
  /-- ST_CLOSE (R314). Frees a stream entry. -/
  | stClose (sq : Nat)
  /-- HBM_SECTOR_READ (R329). An HBM read request returns corrected data or E_ECC_UNCORR. -/
  | hbmSectorRead (s : Nat) (off : Nat) (rd : SectorRead)
  /-- HBM_SECTOR_WRITE (R330). An HBM write request replaces or merges a sector and its check bits. -/
  | hbmSectorWrite (s : Nat) (off : Nat) (src : HbmSource) (bytes : List Byte) (start : Nat)
  /-- HBM_SHARE_WINDOW (R324). A new 1 µs window begins, and the class budgets of each stack restart. -/
  | hbmShareWindow (s : Nat)
  /-- HBM_RESERVE (R326). Reserves share units of a stack for a context. -/
  | hbmReserve (sq : Nat)
  /-- HBM_RELEASE (R326). Releases share units of a stack. -/
  | hbmRelease (sq : Nat)
  /-- HBM_SCRUB_READ (R331). Scrub reads a sector, writing back a correction or poisoning it. -/
  | hbmScrubRead (s : Nat)
  /-- HBM_REFRESH (R332). The controller refreshes a bank, delaying only that bank. -/
  | hbmRefresh (s : Nat) (pc : Nat) (bank : Nat)
  /-- HBM_TEMP_READOUT (R333). Every 10 µs the stack temperature is read, and its thermal level is updated. -/
  | hbmTempReadout (s : Nat) (reading : Option Int)
  /-- STACK_CLOSED (R335). Once accepted requests complete, a critical stack becomes CLOSED_THERMAL and self-refreshes. -/
  | stackClosed (s : Nat)
  /-- HCTL_OPEN (R336). Opens a stack at boot, or reopens a thermally closed stack when it is cool enough. -/
  | hctlOpen (s : Nat)
  /-- HCTL_CLOSE (R349). Closes a stack as at critical. -/
  | hctlClose (s : Nat)
  /-- HTHERM_WRITE (R337). A threshold write is accepted, or discarded as a whole if the ordering is not kept. -/
  | hthermWrite (s : Nat) (val : W64)
  /-- RETRAIN_START (R338). A periodic, temperature or error trigger starts a pseudo-channel training attempt. -/
  | retrainStart (s : Nat) (pc : Nat) (trig : RetrainTrigger)
  /-- RETRAIN_ATTEMPT_END (R339). A training attempt ends, draining the queue or applying lane repair and retrying. -/
  | retrainAttemptEnd (s : Nat) (ok : Bool)
  /-- HREPAIR_START (R342). Firmware starts the repair of a pseudo-channel into the spare band. -/
  | hrepairStart (s : Nat) (val : W64)
  /-- REPAIR_COPY_GRANULE (R343). The repair copier moves one granule to its spare target, poisoning any it cannot read. -/
  | repairCopyGranule (s : Nat)
  /-- LPP_ACCESS (R351). An access to LPDDR recovery memory leaves self-refresh if needed and completes or fails its link ECC. -/
  | lppAccess (addr : Nat) (len : Nat) (link : LppLink)
  /-- LPP_SELF_REFRESH_ENTRY (R351). After 1 ms without a request the LPP channel enters self-refresh. -/
  | lppSelfRefreshEntry
  /-- DATA_FLIT (R362). A received DATA flit is accepted in sequence, or discarded with a NAK, and is consumed or forwarded. -/
  | dataFlit (l : Nat) (f : Flit) (fec : Bool)
  /-- IDLE_FLIT (R357). A received IDLE flit updates the ACK and credit count. -/
  | idleFlit (l : Nat) (f : Flit) (fec : Bool)
  /-- FLIT_TRANSMIT (R360). A DATA flit is sent once a credit and a replay-buffer entry are available. -/
  | flitTransmit (l : Nat)
  /-- NAK (R363). A received NAK makes the transmitter replay from the named sequence. -/
  | nak (l : Nat) (f : Flit) (fec : Bool)
  /-- NAK_HOLDOFF_EXPIRY (R363). 2 µs after a NAK without the expected sequence, a new NAK may be sent. -/
  | nakHoldoffExpiry (l : Nat)
  /-- REPLAY_TIMEOUT (R363). No ACK progress for 10 µs starts a replay from the oldest unacknowledged flit. -/
  | replayTimeout (l : Nat)
  /-- PARAM (R365). A PARAM flit received during training or recovery records the peer's device, link and credits. -/
  | param (l : Nat) (f : Flit) (fec : Bool)
  /-- RECOVER (R366). A received RECOVER puts the link in RECOVERY. -/
  | recover (l : Nat) (f : Flit) (fec : Bool)
  /-- LINK_LOCK_LOSS (R366). Loss of codeword lock puts an active link in RECOVERY. -/
  | linkLockLoss (l : Nat)
  /-- LINK_ENABLE (R365). Setting ENABLE starts link training with a ledger request. -/
  | linkEnable (l : Nat)
  /-- LINK_DISABLE (R375). Clearing ENABLE takes the link to OFF as a failure. -/
  | linkDisable (l : Nat)
  /-- LINK_RETRAIN (R366). Writing RETRAIN puts an active link in RECOVERY. -/
  | linkRetrain (l : Nat)
  /-- LINK_TRAINING_COMPLETE (R365). Training completes, and the link becomes ACTIVE and releases its bring-up grant. -/
  | linkTrainingComplete (l : Nat)
  /-- LINK_TRAINING_TIMEOUT (R365). Training not finished within 500 ms fails the link. -/
  | linkTrainingTimeout (l : Nat)
  /-- LINK_RECOVERY_COMPLETE (R366). Recovery finishes with the same peer, and the link returns to ACTIVE. -/
  | linkRecoveryComplete (l : Nat)
  /-- LINK_RECOVERY_TIMEOUT (R366). Recovery not finished within 10 ms fails the link. -/
  | linkRecoveryTimeout (l : Nat)
  /-- RTDATA_WRITE (R378). Writes a routing entry into both copies and advances RTIDX. -/
  | rtdataWrite (val : W64)
  /-- BOND_WRITE (R371). Configures a bond, or records an event if it is invalid. -/
  | bondWrite (k : Nat) (val : W64)
  /-- TSREQ_TIMER (R372). Every 10 µs a follower sends TSREQ on its source link. -/
  | tsreqTimer
  /-- TSREQ (R372). A received timebase request is answered with TSRSP. -/
  | tsreq (l : Nat) (f : Flit) (fec : Bool)
  /-- TSRSP (R372). A timebase response sets the offset, stepping or slewing TBTIME. -/
  | tsrsp (l : Nat) (f : Flit) (fec : Bool)
  /-- PUT (R388). An incoming PUT message is translated in the mapped context and written. -/
  | put (e : Nat)
  /-- PUT_LANDED_AT_TARGET (R388). Once a put's bytes have landed at the target, it sends ACK and makes its post. -/
  | putLandedAtTarget (e : Nat) (id : Nat)
  /-- GETREQ (R389). An incoming get request returns its bytes as GETRSP messages. -/
  | getreq (e : Nat)
  /-- GETRSP (R389). A get response is written at LVA and may complete the get. -/
  | getrsp (e : Nat)
  /-- ACK (R390). A put ACK completes the put at the origin, with W4 and the local post. -/
  | ack (e : Nat)
  /-- NOROUTE (R390). A NOROUTE message ends the origin's operation with E_LINK. -/
  | noroute (e : Nat)
  /-- XFER_TIMEOUT (R390). A put or get without completion within TMO completes with E_TIMEOUT. -/
  | xferTimeout (e : Nat) (tag : Nat)
  /-- INSTANCE_START (R402). Once enough triggers have arrived and room exists, a collective instance translates its ranges and starts. -/
  | instanceStart (e : Nat) (h : Nat)
  /-- COLLECTIVE_STEP (R396). A plan step runs its chunks as its inputs and skids allow. -/
  | collectiveStep (e : Nat) (h : Nat) (step : Nat)
  /-- CHUNK (R402). A received CHUNK message is matched to its step or held in the early buffer. -/
  | chunk (e : Nat)
  /-- FLAG (R403). A received FLAG message is merged into the instance's flag record. -/
  | flag (e : Nat)
  /-- SLOWN (R404). A received SLOWN suspends timeout counting for the instance. -/
  | slown (e : Nat)
  /-- SLOWN_TIMER (R404). Every 10 µs while a touched stack is warm or hot, SLOWN is sent on each INLINK. -/
  | slownTimer (e : Nat) (h : Nat)
  /-- STRAGGLE_TIMEOUT (R407). A skid full for STRAGGLE µs detaches its receiver. -/
  | straggleTimeout (e : Nat) (h : Nat) (l : Nat)
  /-- DETACH (R407). A received DETACH stops data steps, detaches the subtree and completes with E_DETACHED. -/
  | detach (e : Nat)
  /-- INSTANCE_TIMEOUT (R408). No progress for TMO µs ends an instance with E_TIMEOUT and originates an abort. -/
  | instanceTimeout (e : Nat) (h : Nat)
  /-- ABORT (R409). A received ABORT ends its instance, or is held for one not yet started. -/
  | abortMsg (e : Nat)
  /-- INSTANCE_COMPLETE (R405). An instance completes, writing its record and updating GNF and its post. -/
  | instanceComplete (e : Nat) (h : Nat)
  /-- PLAN_LOAD (R392). Checks a plan image and copies it into plan memory, returning a handle. -/
  | planLoad (sq : Nat)
  /-- PLAN_UNLOAD (R392). Unloads an idle plan. -/
  | planUnload (sq : Nat)
  /-- CE_TRIGGER (R401). Delivers a trigger with a step tag to a loaded plan. -/
  | ceTrigger (sq : Nat)
  /-- CE_XFER (R387). Checks a put or get descriptor from a host and issues it. -/
  | ceXfer (sq : Nat)
  /-- CE_ABORT (R408). A host aborts a collective instance. -/
  | ceAbort (sq : Nat)
  /-- EV_DECODE (R434). Checks a decode descriptor and starts an erasure decode. -/
  | evDecode (sq : Nat)
  /-- EV_DECODE_COMPLETE (R434). A decode finishes writing its pieces, verifies their CRCs and completes. -/
  | evDecodeComplete
  /-- EV_CHECK (R438). Compares two ranges byte for byte. -/
  | evCheck (sq : Nat)
  /-- NOP (R464). A host no-operation packet completes. -/
  | nop (sq : Nat)
  /-- DMA (R465). A DMA packet is checked and starts copying between host and device memory. -/
  | dma (sq : Nat)
  /-- DMA_COMPLETE (R465). A DMA lands its last byte, makes its post and completes. -/
  | dmaComplete (pid : Nat) (hostFail : Option Nat)
  /-- LAUNCH (R466). A launch packet is checked and starts a program on every named core. -/
  | launch (sq : Nat)
  /-- TOKEN_POST (R467). Posts a core's token counter COUNT times. -/
  | tokenPost (sq : Nat)
  /-- QWAIT (R467). Waits until a sequence of another SQ has replied. -/
  | qwait (sq : Nat)
  /-- Q_CREATE (R455). Takes a pool SQ or CQ for the context. -/
  | qCreate (sq : Nat)
  /-- Q_DELETE (R456). Deletes a pool queue held by the context. -/
  | qDelete (sq : Nat)
  /-- Q_RESET (R456). Resets an SQ out of ERROR to an expected sequence. -/
  | qReset (sq : Nat)
  /-- CTX_SETROOT (R452). Sets a context's root translation table. -/
  | ctxSetroot (sq : Nat)
  /-- XLATE_INVAL (R468). Drops cached translations of a context. -/
  | xlateInval (sq : Nat)
  /-- CTX_TEARDOWN (R453). Tears down a context and all its work. -/
  | ctxTeardown (sq : Nat)
  /-- PROG_ABORT (R246). Aborts the programs on the named cores with E_ABORTED. -/
  | progAbort (sq : Nat)
  /-- SF_LOAD (R147). Firmware loads an SFU slot on a host's behalf. -/
  | sfLoad (sq : Nat)
  /-- QUOTA_SET (R469). Sets a context limit of one kind. -/
  | quotaSet (sq : Nat)
  /-- RECLAIM (R471). Forces a context to release resources of one kind, aborting their work. -/
  | reclaim (sq : Nat)
  /-- CTX_CORES (R452). Sets a context's core mask. -/
  | ctxCores (sq : Nat)
  /-- CTX_JOB (R452). Sets a context's job number in both collective engines. -/
  | ctxJob (sq : Nat)
  /-- LEDGER_SET (R490). Sets the package or die limit, or starts the park or unpark of a die. -/
  | ledgerSet (sq : Nat)
  /-- DIE_PARK_COMPLETE (R490). Once no program runs on the die, its cores power down and the park completes. -/
  | dieParkComplete (d : Nat)
  /-- DIE_UNPARK_COMPLETE (R481). A die returns to RUN, and the unpark completes. -/
  | dieUnparkComplete (d : Nat)
  /-- TLY_GRANT (R540). Assigns or revokes tally counter groups, monitors, the dump and DEVICE for a context. -/
  | tlyGrant (sq : Nat)
  /-- STEWARD_RENEW (R449). Restarts the steward lease. -/
  | stewardRenew (sq : Nat)
  /-- STEWARD_CLAIM (R449). The other PF claims the steward role. -/
  | stewardClaim (sq : Nat)
  /-- STEWARD_HANDOFF (R449). Passes the steward role to the other PF. -/
  | stewardHandoff (sq : Nat)
  /-- STEWARD_LEASE_EXPIRY (R449). The steward lease expires without renewal. -/
  | stewardLeaseExpiry
  /-- ATTEST (R509). Writes a signed attestation report. -/
  | attest (sq : Nat)
  /-- KEY_PUSH (R506). Loads, enrols or provisions the device identity. -/
  | keyPush (sq : Nat)
  /-- DEBUG_UNLOCK (R513). Issues a debug challenge or verifies a debug token. -/
  | debugUnlock (sq : Nat)
  /-- SQ_TAIL_DOORBELL (R461). Makes new submission entries available. -/
  | sqTailDoorbell (ctx : Nat) (q : Nat) (val : W64)
  /-- CQ_HEAD_DOORBELL (R461). Frees completion entries. -/
  | cqHeadDoorbell (ctx : Nat) (q : Nat) (val : W64)
  /-- STATUS_REPLY_WRITE (R460). Once the CQ has room, a status reply is written and its vector raised. -/
  | statusReplyWrite (cq : Nat)
  /-- ADMIN_QUEUE_ENABLE (R475). Setting AEN starts the admin queues afresh. -/
  | adminQueueEnable (ctx : Nat) (val : W64)
  /-- ADMIN_QUEUE_DISABLE (R475). Clearing AEN stops the admin queues without writing replies. -/
  | adminQueueDisable (ctx : Nat) (val : W64)
  /-- BAR2_READ (R446). A host read through BAR2 is translated and returns data or all ones. -/
  | bar2Read (ctx : Nat) (addr : Nat) (len : Nat)
  /-- BAR2_WRITE (R446). A host write through BAR2 is translated and written, or discarded. -/
  | bar2Write (ctx : Nat) (addr : Nat) (bytes : List Byte)
  /-- ATS_INVALIDATION (R444). A host ATS invalidation drops cached host translations. -/
  | atsInvalidation (ctx : Nat) (page : Nat) (count : Nat)
  /-- PAGE_REQUEST_RESPONSE (R444). A PRI response resumes or fails an operation waiting on an ATS miss. -/
  | pageRequestResponse (ctx : Nat) (page : Nat) (resp : AtsResponse)
  /-- PAGE_REQUEST_TIMEOUT (R444). A page request without a response within 10 ms ends the operation with E_XLATE. -/
  | pageRequestTimeout (ctx : Nat) (page : Nat)
  /-- PORT_LINK_DOWN (R451). A link down or PERST on a port tears down all its contexts. -/
  | portLinkDown (port : Nat)
  /-- HOT_RESET (R451). A hot reset of a port tears down all its contexts. -/
  | hotReset (port : Nat)
  /-- FLR_PF (R451). A Function Level Reset of a PF tears down its port's contexts. -/
  | flrPf (port : Nat)
  /-- FLR_VF (R451). A Function Level Reset of a VF tears down that context. -/
  | flrVf (ctx : Nat)
  /-- VF_ENABLE_CLEAR (R451). Clearing VF Enable tears down the port's contexts. -/
  | vfEnableClear (port : Nat)
  /-- VE_RATE_WINDOW_END (R486). At the end of an aligned 64-cycle window a vector engine releases or keeps its above-half-rate booking. -/
  | veRateWindowEnd (c : Nat) (e : Nat) (issued : Nat)
  /-- PLL_LOCK_LOSS (R479). A PLL loses lock, stopping its domain and entering the safe state. -/
  | pllLockLoss (dom : ClockDomain)
  /-- SUPPLY_MONITOR_TRIP (R517). A rail outside ±10 % for more than 1 µs trips its monitor and enters the safe state. -/
  | supplyMonitorTrip (rail : Nat) (millivolts : Nat) (sec : Bool)
  /-- DIE_TEMP_SAMPLE (R492). Every 10 µs firmware samples a die's sensors and updates its thermal level. -/
  | dieTempSample (k : Nat) (readings : List (Option Int))
  /-- DTHERM_WRITE (R494). A die threshold write is accepted, or discarded as a whole if the ordering is not kept. -/
  | dthermWrite (val : W64)
  /-- POWER_RAILS_FALL (R480). The main rails fall, and the package enters OFF, losing all state. -/
  | powerRailsFall
  /-- COLD_RESET (R496). PORST_N asserted returns every unit to its reset values. -/
  | coldReset (straps : Straps)
  /-- WARM_RESET (R496). WRST_N asserted resets the part, keeping LPDDR in self-refresh. -/
  | warmReset
  /-- ROM_INIT (R497). On reset release the boot ROM checks itself, locks PLLs, reads the PUF and trains the LPP and PCIe links. -/
  | romInit (env : RomEnv)
  /-- ROM_INIT_COMPLETE (R497). Step 1 ends, and the mailbox enters WAIT. -/
  | romInitComplete
  /-- ROM_INIT_TIMEOUT (R499). Step 1 not finished within 80 ms halts the part. -/
  | romInitTimeout
  /-- MB_PUSH (R500). PUSH copies a firmware image from host memory into the firmware region. -/
  | mbPush (port : Nat)
  /-- MB_RELOAD (R500). RELOAD verifies the kept image again. -/
  | mbReload (port : Nat)
  /-- MB_ABORT (R500). ABORT ends loading or verifying into RECOVERY. -/
  | mbAbort (port : Nat)
  /-- IMAGE_LOAD_COMPLETE (R497). The image copy ends, and verification starts. -/
  | imageLoadComplete (env : LoadEnd)
  /-- IMAGE_VERIFY_COMPLETE (R502). Both signatures are evaluated, and the image is started or the part enters RECOVERY. -/
  | imageVerifyComplete (lppError : Bool)
  /-- FIRMWARE_READY (R497). Firmware reports ready, the package enters ON and the steward is chosen. -/
  | firmwareReady
  /-- FW_INIT_TIMEOUT (R499). FW_INIT beyond 10 s returns to RECOVERY with E_TIMEOUT. -/
  | fwInitTimeout
  /-- FW_INIT_FAILURE (R499). Firmware reports a failure during FW_INIT, returning to RECOVERY. -/
  | fwInitFailure (code : Byte)
  /-- TAMPER_TRIP (R510). A tamper sensor trips and raises the tamper level with its effects. -/
  | tamperTrip (sensor : TamperSensor)
  /-- SELF_TEST_DUE (R519). An array self-test falls due and runs at once or at the next command boundary. -/
  | selfTestDue (c : Nat) (a : Nat) (h : Nat)
  /-- SELF_TEST_SUSPEND (R519). With no boundary within 3 µs, the running command is suspended for the test. -/
  | selfTestSuspend (c : Nat) (a : Nat) (h : Nat)
  /-- SELF_TEST_RESULT (R520). A self-test ends, and a failure fences, poisons and records SELFTEST. -/
  | selfTestResult (c : Nat) (a : Nat) (h : Nat) (res : Option Nat)
  /-- CORE_TEST_COMPLETE (R521). A core's built-in test ends, returning it to service or taking it out of service. -/
  | coreTestComplete (c : Nat) (pass : Bool)
  /-- CASORI_LOCKSTEP_MISMATCH (R517). A Casori lockstep mismatch enters the safe state with cause fault. -/
  | casoriLockstepMismatch (pair : Nat)
  /-- CASORI_WATCHDOG_EXPIRY (R517). The Casori watchdog expires and enters the safe state. -/
  | casoriWatchdogExpiry (pair : Nat)
  /-- TLYSEL_WRITE (R533). Selects a counter's event, or is discarded for an invalid selection. -/
  | tlyselWrite (ag : Agent) (k : Nat) (val : W64)
  /-- TLY_SNAP (R535). Latches every counter into its shadow. -/
  | tlySnap (ag : Agent)
  /-- BWCFG_WRITE (R537). Configures and restarts a bandwidth monitor. -/
  | bwcfgWrite (ag : Agent) (m : Nat) (val : W64)
  /-- BW_WINDOW_END (R537). At a window boundary a monitor stores the window's bytes and updates its peak. -/
  | bwWindowEnd (m : Nat)
  /-- TLY_DUMP_LATCH (R538). At every PERIOD the counters are latched, and a dump record is written or LOST counts. -/
  | tlyDumpLatch
  /-- DUMP_RECORD_LANDED (R539). Once the record body has landed, its header bytes are written. -/
  | dumpRecordLanded
  /-- CV_GO (R548). Starts a CVU APPEND, CHECK or STRIP operation after its checks. -/
  | cvGo (ag : Agent) (k : Nat) (val : W64)
  /-- CV_ABORT (R546). Ends a running CVU operation with E_ABORTED. -/
  | cvAbort (ag : Agent) (k : Nat) (val : W64)
  /-- CV_INIT (R546). Loads the initial value and the prefix for FEED. -/
  | cvInit (ag : Agent) (k : Nat) (val : W64)
  /-- CV_FEED (R549). Adds fed bytes to the running check value. -/
  | cvFeed (ag : Agent) (k : Nat) (off : Nat) (width : Nat) (val : W64)
  /-- CV_COMPLETE (R547). A CVU operation completes, writing CVRES and CVSTS and raising its vector. -/
  | cvComplete (k : Nat) (hostFail : Option Nat)
  /-- SMB_PHASE (R562). SMBus command 0x01 returns the boot phase. -/
  | smbPhase
  /-- SMB_SAFE (R562). SMBus command 0x02 returns the safe-state status. -/
  | smbSafe
  /-- SMB_PART (R562). SMBus command 0x08 returns the part number. -/
  | smbPart
  /-- SMB_STEPPING (R562). SMBus command 0x09 returns the major stepping. -/
  | smbStepping
  /-- SMB_DIE_TEMP (R562). SMBus commands 0x10 to 0x15 return a die's temperature and level. -/
  | smbDieTemp (k : Nat)
  /-- SMB_STACK_TEMP (R562). SMBus commands 0x20 to 0x27 return a stack's temperature and level. -/
  | smbStackTemp (k : Nat)
  /-- SMB_LEDGER_USED (R562). SMBus command 0x30 returns the units granted plus BASE. -/
  | smbLedgerUsed
  /-- SMB_LEDGER_LIMIT (R562). SMBus command 0x31 returns the ledger limit. -/
  | smbLedgerLimit
  /-- SMB_WRITE (R562). An SMBus write transaction is NACKed. -/
  | smbWrite (cmd : Byte) (data : List Byte)
  /-- BYPASS (R563). The JTAG BYPASS instruction selects the bypass register. -/
  | bypass
  /-- IDCODE (R563). The JTAG IDCODE instruction returns the identity code. -/
  | idcode
  /-- SAMPLE_PRELOAD (R563). The JTAG SAMPLE/PRELOAD instruction samples the boundary. -/
  | samplePreload (pins : List Bool) (preload : List Bool)
  /-- EXTEST (R563). The JTAG EXTEST instruction drives the boundary in boundary-scan mode. -/
  | extest
  /-- DBGACC (R563). The JTAG DBGACC instruction gives debug access at the unlocked level. -/
  | dbgacc (acc : DebugAccess)
  /-- PCIE_LINK_UP (R442). A port's PCIe link comes up again after being down, so requests reach the part and the PF exists again. -/
  | pcieLinkUp (up : PortUp)
  /-- VF_ENABLE_SET (R442). The PF driver sets VF Enable with NumVFs, and the VF contexts of the port come into existence. -/
  | vfEnableSet (port : Nat) (vfs : VfEnable)
  /-- LANE_DID_NOT_TRAIN (R354). A lane that cannot train makes the link FAILED with FREASON 4. -/
  | laneDidNotTrain (l : Nat)
  /-- IDLE_FLIT_SEND (R357). With nothing else to send, the transmitter sends an IDLE flit carrying ACK and the next credit count. -/
  | idleFlitSend (l : Nat)
  /-- UNLISTED_CC_OPCODE (R231). A CC word with an opcode in 0x80-0xFF not listed in R230 is illegal with E_BADCMD and raises an exception. -/
  | unlistedCcOpcode (c : Nat) (t : Nat)
  /-- UNLISTED_VECTOR_OPCODE (R103). A vector word whose OP is not listed in R126 is illegal with E_BADCMD and recorded in VFLT. -/
  | unlistedVectorOpcode (c : Nat) (t : Nat)
  /-- UNLISTED_ARRAY_OPCODE (R69). An array command with an unlisted opcode completes with E_BADCMD and writes nothing. -/
  | unlistedArrayOpcode (c : Nat) (a : Nat) (q : Nat)
  /-- UNLISTED_SE_OPCODE (R170). An SE command whose OP is not 0x1-0x3 completes with E_BADCMD at the head of the queue. -/
  | unlistedSeOpcode (c : Nat)
  /-- UNLISTED_PACKET_OPCODE (R458). A command packet whose opcode is not in R464 completes with E_BADCMD. -/
  | unlistedPacketOpcode (sq : Nat)
  /-- CECMD_RESERVED_KIND (R385). A CECMD write with a reserved KIND or nonzero reserved field has no effect and is recorded in CEFLT. -/
  | cecmdReservedKind (c : Nat)
  /-- RESERVED_KIND_MESSAGE (R382). A received message with a reserved KIND is discarded and counted in CEDROP. -/
  | reservedKindMessage (e : Nat)
  /-- CTRL_FLIT_OTHER_KIND (R359). A CTRL flit of an undefined kind is discarded and counted as a framing error. -/
  | ctrlFlitOtherKind (l : Nat) (f : Flit) (fec : Bool)
  /-- MBCMD_DISCARDED (R500). A mailbox command of another OP, or one not allowed in the current phase, is discarded and sets IGN. -/
  | mbcmdDiscarded (port : Nat) (op : Nat)
  deriving DecidableEq, Repr

end Sys2Proof
end

