-- ==== Sys2Proof/Machine/Flags.lean ====
section
/-! DEFINITION. The sticky arithmetic flags of one byte of ASTAT (R59) and how flag bytes combine (R60). -/

namespace Sys2Proof.Machine

/-- PERM_OOR, bit 7: a permutation index was at or beyond VL (R59, R115). -/
abbrev flagPermOor : Byte := 0x80
/-- EMPTY, bit 6: a reduction had no active input (R59, R120). -/
abbrev flagEmpty : Byte := 0x40
/-- SAT, bit 5: a value was clamped (R59). -/
abbrev flagSat : Byte := 0x20
/-- INX, bit 4: a rounded result differs from the exact one (R59). -/
abbrev flagInx : Byte := 0x10
/-- UNF, bit 3: inexact, and the exact value was below the smallest normal (R59). -/
abbrev flagUnf : Byte := 0x08
/-- OVF, bit 2: a result overflowed its target (R59). -/
abbrev flagOvf : Byte := 0x04
/-- DZ, bit 1: division by zero or a function at its pole (R59). -/
abbrev flagDz : Byte := 0x02
/-- INV, bit 0: an invalid operation (R59). -/
abbrev flagInv : Byte := 0x01

/-- The flag `f` if `b`, else none. -/
def flagIf (b : Bool) (f : Byte) : Byte := if b then f else 0

/-- The flags of a list of results: sticky flags only accumulate, in no order (R60). -/
def flagsOr (l : List Byte) : Byte := l.foldl (· ||| ·) 0

/-- The bits an array byte of ASTAT has: bits 7, 6 and 1 are reserved there (R59). -/
def arrayFlagMask : Byte := 0x3D

end Sys2Proof.Machine
end

