-- ==== Sys2Proof/Machine/Fp.lean ====
section
/-! DEFINITION. Exact dyadic numbers, the formats of R35, decoding, the one rounding of R48 to R54, and the column
sum of R41 to R43. Every arithmetic result of the part is an exact value of this file rounded once. -/

namespace Sys2Proof.Machine

/-- An exact number: its sign, and the magnitude m · 2^e. A zero has m = 0 and keeps its sign. -/
structure Dy where
  neg : Bool
  m : Nat
  e : Int
  deriving DecidableEq, Repr

/-- A value of a format, as arithmetic sees it. -/
inductive FVal where
  /-- A NaN; `sig` when it is a signalling one (R56). -/
  | nan (sig : Bool)
  | inf (neg : Bool)
  | num (d : Dy)
  deriving DecidableEq, Repr

/-- How a format encodes what is not finite (R35). -/
inductive Specials where
  /-- As IEEE 754: exponent all ones is Inf or NaN. -/
  | ieee
  /-- E4M3: only S.1111.111 is NaN, there is no Inf. -/
  | e4m3
  /-- The FP6 and FP4 element formats: every encoding is finite. -/
  | none
  deriving DecidableEq, Repr

/-- A format of R35: exponent and fraction widths, bias, and its special encodings. -/
structure Fmt where
  ew : Nat
  fw : Nat
  bias : Nat
  sp : Specials
  deriving DecidableEq, Repr

def fmtFP32 : Fmt := ⟨8, 23, 127, .ieee⟩
def fmtFP16 : Fmt := ⟨5, 10, 15, .ieee⟩
def fmtBF16 : Fmt := ⟨8, 7, 127, .ieee⟩
def fmtE4M3 : Fmt := ⟨4, 3, 7, .e4m3⟩
def fmtE5M2 : Fmt := ⟨5, 2, 15, .ieee⟩
def fmtE3M2 : Fmt := ⟨3, 2, 3, .none⟩
def fmtE2M3 : Fmt := ⟨2, 3, 1, .none⟩
def fmtE2M1 : Fmt := ⟨2, 1, 1, .none⟩
/-- W48 in its 56 bits; the container holds them in bits [63:8] (R39). -/
def fmtW48 : Fmt := ⟨8, 47, 127, .ieee⟩

/-- The exponent of the smallest normal. -/
def Fmt.emin (f : Fmt) : Int := 1 - (f.bias : Int)

/-- The largest finite magnitude, as its encoding without the sign (R35). -/
def Fmt.maxFinite (f : Fmt) : Nat :=
  match f.sp with
  | .ieee => (2 ^ f.ew - 1) * 2 ^ f.fw - 1
  | .e4m3 => 2 ^ (f.ew + f.fw) - 2
  | .none => 2 ^ (f.ew + f.fw) - 1

/-- The encoding of +Inf without the sign. -/
def Fmt.infBits (f : Fmt) : Nat := (2 ^ f.ew - 1) * 2 ^ f.fw

/-- The canonical NaN of the format (R55); 0 in a format that has none. -/
def Fmt.nanBits (f : Fmt) : Nat :=
  match f.sp with
  | .ieee => f.infBits + 2 ^ (f.fw - 1)
  | .e4m3 => 2 ^ (f.ew + f.fw) - 1
  | .none => 0

/-- Puts the sign above an encoding without one. -/
def Fmt.withSign (f : Fmt) (neg : Bool) (b : Nat) : Nat := if neg then b + 2 ^ (f.ew + f.fw) else b

/-- What an encoding stands for (R35). -/
def Fmt.decode (f : Fmt) (bits : Nat) : FVal :=
  let neg := bits / 2 ^ (f.ew + f.fw) % 2 == 1
  let ex := bits / 2 ^ f.fw % 2 ^ f.ew
  let fr := bits % 2 ^ f.fw
  let fin : FVal :=
    if ex = 0 then .num ⟨neg, fr, f.emin - f.fw⟩
    else .num ⟨neg, fr + 2 ^ f.fw, (ex : Int) - f.bias - f.fw⟩
  match f.sp with
  | .ieee => if ex = 2 ^ f.ew - 1 then (if fr = 0 then .inf neg else .nan (fr < 2 ^ (f.fw - 1))) else fin
  | .e4m3 => if ex = 2 ^ f.ew - 1 ∧ fr = 2 ^ f.fw - 1 then .nan false else fin
  | .none => fin

/-! ### Exact arithmetic -/

/-- The exact value as an integer multiple of 2^e, for e not above its exponent. -/
def Dy.atExp (d : Dy) (e : Int) : Int :=
  let k := (d.m <<< (d.e - e).toNat : Nat)
  if d.neg then - (k : Int) else k

/-- An integer multiple of 2^e as an exact number; `z` is the sign of a zero. -/
def dyOfInt (i : Int) (e : Int) (z : Bool) : Dy := ⟨if i = 0 then z else decide (i < 0), i.natAbs, e⟩

/-- The number 0 with a sign. -/
def dyZero (neg : Bool) : Dy := ⟨neg, 0, 0⟩

/-- An integer. -/
def dyInt (i : Int) : Dy := dyOfInt i 0 false

/-- The exact sum; where it is zero and the operands' signs differ, or are not both zeros of that sign, the sign is
`z` (R49). -/
def Dy.add (a b : Dy) (z : Bool) : Dy :=
  let e := min a.e b.e
  let zs := if a.m = 0 ∧ b.m = 0 ∧ a.neg = b.neg then a.neg else z
  dyOfInt (a.atExp e + b.atExp e) e zs

/-- The exact product. -/
def Dy.mul (a b : Dy) : Dy := ⟨a.neg != b.neg, a.m * b.m, a.e + b.e⟩

/-- The negative. -/
def Dy.negate (a : Dy) : Dy := { a with neg := !a.neg }

/-- a · 2^k. -/
def Dy.scale (a : Dy) (k : Int) : Dy := { a with e := a.e + k }

/-- How two numbers compare; −0 and +0 are equal. -/
def Dy.cmp (a b : Dy) : Ordering :=
  let e := min a.e b.e
  compare (a.atExp e) (b.atExp e)

/-- floor(log2 |d|) of a nonzero number. -/
def Dy.log2 (d : Dy) : Int := (Nat.log2 d.m : Int) + d.e

/-- |num / den| as a dyadic that rounds as the quotient does to any format of at most `bits` significant bits: a
truncated quotient with at least `bits` + 2 bits, and one sticky bit below it. -/
def dyQuot (neg : Bool) (num den : Nat) (e : Int) (bits : Nat) : Dy :=
  let k := bits + 3 + Nat.log2 den
  let n := num <<< k
  ⟨neg, 2 * (n / den) + (if n % den = 0 then 0 else 1), e - (k : Int) - 1⟩

/-! ### Rounding (R48 to R50) -/

/-- The rounding modes of R48; SR carries its 16-bit draw (R51). -/
inductive RMode where
  | rne | rz | rd | ru | rna
  | sr (u : Nat)
  deriving DecidableEq, Repr

/-- Whether the truncated magnitude t goes up to t + 1: r / 2^sh is what was cut off. -/
def roundsUp (rm : RMode) (neg : Bool) (t r sh : Nat) : Bool :=
  match rm with
  | .rne => decide (2 * r > 2 ^ sh) || (decide (2 * r = 2 ^ sh) && t % 2 == 1)
  | .rz => false
  | .rd => neg && decide (r ≠ 0)
  | .ru => !neg && decide (r ≠ 0)
  | .rna => decide (r ≠ 0) && decide (2 * r ≥ 2 ^ sh)
  | .sr u => decide (r ≠ 0) && decide (u ≥ 65536 - r * 65536 / 2 ^ sh)

/-- A magnitude rounded to a multiple of 2^q: the multiple, and whether it is inexact. -/
def roundAt (rm : RMode) (d : Dy) (q : Int) : Nat × Bool :=
  if q ≤ d.e then (d.m <<< (d.e - q).toNat, false)
  else
    let sh := (q - d.e).toNat
    let t := d.m >>> sh
    let r := d.m % 2 ^ sh
    (if roundsUp rm d.neg t r sh then t + 1 else t, decide (r ≠ 0))

/-- The exponent of the last place a nonzero number keeps in a format. -/
def Fmt.quantum (f : Fmt) (d : Dy) : Int := max d.log2 f.emin - f.fw

/-- The encoding, without sign, of t · 2^q as `roundAt` gives it; it exceeds `maxFinite` when the value does. -/
def Fmt.pack (f : Fmt) (t : Nat) (q : Int) : Nat :=
  if t < 2 ^ f.fw then t
  else ((q - (f.emin - f.fw)).toNat + 1) * 2 ^ f.fw + (t - 2 ^ f.fw)

/-- What a conversion answers: the encoding and the flags it raises. -/
structure Rounded where
  bits : Nat
  flags : Byte
  deriving DecidableEq, Repr

/-- The result of a finite overflow (R52): OVF and INX always. -/
def Fmt.overflow (f : Fmt) (rm : RMode) (sat neg : Bool) : Rounded :=
  let mx := f.withSign neg f.maxFinite
  let inf := f.withSign neg f.infBits
  let fl := flagOvf ||| flagInx
  match f.sp with
  | .none => ⟨mx, fl ||| flagSat⟩
  | .e4m3 => if sat then ⟨mx, fl ||| flagSat⟩ else ⟨f.nanBits, fl ||| flagInv⟩
  | .ieee =>
    if sat then ⟨mx, fl ||| flagSat⟩
    else match rm with
      | .rz => ⟨mx, fl⟩
      | .ru => ⟨if neg then mx else inf, fl⟩
      | .rd => ⟨if neg then inf else mx, fl⟩
      | _ => ⟨inf, fl⟩

/-- A finite number rounded once to a format (R48 to R52, R59). -/
def Fmt.roundNum (f : Fmt) (rm : RMode) (sat : Bool) (d : Dy) : Rounded :=
  if d.m = 0 then ⟨f.withSign d.neg 0, 0⟩
  else
    let q := f.quantum d
    let (t, inx) := roundAt rm d q
    let p := f.pack t q
    if p > f.maxFinite then f.overflow rm sat d.neg
    else ⟨f.withSign d.neg p, flagIf inx flagInx ||| flagIf (inx && decide (d.log2 < f.emin)) flagUnf⟩

/-- A value converted to a format (R52, R55, R56, R59). A signalling NaN sets INV in a widening conversion too: the model's
choice between R52 and R56 (log 113). -/
def Fmt.convert (f : Fmt) (rm : RMode) (sat : Bool) (x : FVal) : Rounded :=
  match x with
  | .nan sig => ⟨f.nanBits, flagIf (sig || (f.sp = .e4m3 && !sat)) flagInv⟩
  | .inf neg =>
    match f.sp with
    | .ieee => ⟨f.withSign neg f.infBits, 0⟩
    | .e4m3 => if sat then ⟨f.withSign neg f.maxFinite, flagSat⟩ else ⟨f.nanBits, flagInv⟩
    | .none => ⟨f.withSign neg f.maxFinite, flagSat⟩
  | .num d => f.roundNum rm sat d

/-- A value converted to a two's-complement integer of w bits (R53). -/
def toInteger (w : Nat) (rm : RMode) (x : FVal) : Int × Byte :=
  let lo : Int := - (2 ^ (w - 1) : Nat)
  let hi : Int := (2 ^ (w - 1) : Nat) - 1
  match x with
  | .nan _ => (0, flagInv)
  | .inf neg => (if neg then lo else hi, flagInv)
  | .num d =>
    let (t, inx) := roundAt rm d 0
    let v : Int := if d.neg then - (t : Int) else t
    if v < lo then (lo, flagSat ||| flagInx)
    else if v > hi then (hi, flagSat ||| flagInx)
    else (v, flagIf inx flagInx)

/-- floor of a number. -/
def Dy.floor (d : Dy) : Int := let r := roundAt .rd d 0; if d.neg then - (r.1 : Int) else r.1

/-- a − b, and |a|. -/
def Dy.sub (a b : Dy) : Dy := a.add b.negate false
def Dy.abs (a : Dy) : Dy := { a with neg := false }

/-- The larger and the smaller of two numbers. -/
def Dy.max (a b : Dy) : Dy := if a.cmp b = .lt then b else a
def Dy.min (a b : Dy) : Dy := if b.cmp a = .lt then b else a

/-! ### Operations on values; each answers the exact value and whether it is invalid -/

/-- Whether a value is a NaN. -/
def FVal.isNan : FVal → Bool
  | .nan _ => true
  | _ => false

/-- Whether a value is a signalling NaN. -/
def FVal.isSnan : FVal → Bool
  | .nan s => s
  | _ => false

/-- Whether a value is an infinity. -/
def FVal.isInf : FVal → Bool
  | .inf _ => true
  | _ => false

/-- Whether a value is finite. -/
def FVal.isFinite : FVal → Bool
  | .num _ => true
  | _ => false

/-- Whether a value is a zero. -/
def FVal.isZero : FVal → Bool
  | .num d => d.m == 0
  | _ => false

/-- The sign of a value that is no NaN. -/
def FVal.neg : FVal → Bool
  | .nan _ => false
  | .inf n => n
  | .num d => d.neg

/-- The value with its sign flipped. -/
def FVal.negate : FVal → FVal
  | .nan s => .nan s
  | .inf n => .inf (!n)
  | .num d => .num d.negate

/-- The exact product (R42, R56). The Bool says the operation is invalid. -/
def fmul (a b : FVal) : FVal × Bool :=
  match a, b with
  | .nan s, x => (.nan false, s || x.isSnan)
  | x, .nan s => (.nan false, s || x.isSnan)
  | .inf n, x => if x.isZero then (.nan false, true) else (.inf (n != x.neg), false)
  | x, .inf n => if x.isZero then (.nan false, true) else (.inf (n != x.neg), false)
  | .num p, .num q => (.num (p.mul q), false)

/-- The exact sum; `z` is the sign of an exact cancellation (R49, R56). -/
def fadd (z : Bool) (a b : FVal) : FVal × Bool :=
  match a, b with
  | .nan s, x => (.nan false, s || x.isSnan)
  | x, .nan s => (.nan false, s || x.isSnan)
  | .inf n, .inf k => if n = k then (.inf n, false) else (.nan false, true)
  | .inf n, .num _ => (.inf n, false)
  | .num _, .inf n => (.inf n, false)
  | .num p, .num q => (.num (p.add q z), false)

/-- The exact a · b + c (R56, R57). -/
def ffma (z : Bool) (a b c : FVal) : FVal × Bool :=
  let p := fmul a b
  let s := fadd z p.1 c
  (s.1, p.2 || s.2)

/-- The sign of an exact cancellation under a mode (R49). -/
def RMode.zeroSign : RMode → Bool
  | .rd => true
  | _ => false

/-- Rounds an operation's exact answer once, saturating if `sat` (R52, R57). -/
def Fmt.finishSat (f : Fmt) (rm : RMode) (sat : Bool) (r : FVal × Bool) : Rounded :=
  let x := f.convert rm sat r.1
  ⟨x.bits, x.flags ||| flagIf r.2 flagInv⟩

/-- Rounds an operation's exact answer once (R57). -/
def Fmt.finish (f : Fmt) (rm : RMode) (r : FVal × Bool) : Rounded := f.finishSat rm false r

/-! ### Column sums (R41 to R46) -/

/-- The state of an exact sum as its terms come in. -/
structure SumAcc where
  nan : Bool
  /-- A NaN term that is no quiet operand NaN. -/
  inv : Bool
  pinf : Bool
  ninf : Bool
  d : Dy
  /-- Every term so far is −0. -/
  allNegZero : Bool
  /-- No term so far. -/
  empty : Bool
  deriving DecidableEq, Repr

def SumAcc.start : SumAcc := ⟨false, false, false, false, dyZero false, true, true⟩

/-- Adds one term, an exact value and whether forming it was invalid. -/
def SumAcc.term (a : SumAcc) (t : FVal × Bool) : SumAcc :=
  let a := { a with empty := false, inv := a.inv || t.2 }
  match t.1 with
  | .nan s => { a with nan := true, inv := a.inv || s }
  | .inf false => { a with pinf := true, allNegZero := false }
  | .inf true => { a with ninf := true, allNegZero := false }
  | .num d => { a with d := a.d.add d false, allNegZero := a.allNegZero && d.neg && d.m == 0 }

/-- The sum the rows of R42 give; no term at all gives +0. -/
def SumAcc.value (a : SumAcc) : FVal × Bool :=
  if a.nan then (.nan false, a.inv)
  else if a.pinf && a.ninf then (.nan false, true)
  else if a.pinf then (.inf false, a.inv)
  else if a.ninf then (.inf true, a.inv)
  else if a.d.m = 0 then (.num (dyZero (a.allNegZero && !a.empty)), a.inv)
  else (.num a.d, a.inv)

/-- The same sum with the sign of an exact zero that a reduction gives under RD: +0 only if every term is +0 (R119). -/
def SumAcc.valueRd (a : SumAcc) (allPosZero : Bool) : FVal × Bool :=
  match a.value with
  | (.num d, i) => if d.m = 0 then (.num (dyZero (!allPosZero)), i) else (.num d, i)
  | r => r

/-- The exact sum of a list of terms (R42). -/
def exactSum (l : List (FVal × Bool)) : FVal × Bool := (l.foldl SumAcc.term SumAcc.start).value

/-- A W48 container's value (R39). -/
def w48Value (c : W64) : FVal := fmtW48.decode (c.toNat / 256)

/-- The W48 container of an encoding (R39). -/
def w48Container (bits : Nat) : W64 := BitVec.ofNat 64 (bits * 256)

/-- The INT48 a container holds (R39, R40). -/
def int48Value (c : W64) : Int := (c.extractLsb' 16 48).toInt

/-- The container of an INT48 (R39, R40). -/
def int48Container (i : Int) : W64 := BitVec.ofInt 48 i ++ (0 : W16)

/-- A floating-point column: the exact sum of the products, and of the old container if the pass accumulates,
rounded once to W48 (R41, R42). -/
def columnSum (old : Option W64) (products : List (FVal × Bool)) : W64 × Byte :=
  let terms := match old with
    | some c => (w48Value c, false) :: products
    | none => products
  let r := fmtW48.finish .rne (exactSum terms)
  (w48Container r.bits, r.flags)

/-- An INT8 column with the clamp of R43. -/
def columnSumInt (old : Option W64) (products : List Int) : W64 × Byte :=
  let s := products.foldl (· + ·) (match old with | some c => int48Value c | none => 0)
  let lo : Int := - (2 ^ 47 : Nat)
  let hi : Int := (2 ^ 47 : Nat) - 1
  if s < lo then (int48Container lo, flagOvf ||| flagSat)
  else if s > hi then (int48Container hi, flagOvf ||| flagSat)
  else (int48Container s, 0)

/-- The high BF16 part of an FP32 operand (R45, R46). -/
def fp32Hi (x : FVal) : FVal :=
  match x with
  | .nan s => .nan s
  | .inf n => .inf n
  | .num d => fmtBF16.decode (fmtBF16.roundNum .rne true d).bits

/-- The low BF16 part of an FP32 operand (R45, R46). -/
def fp32Lo (x : FVal) : FVal :=
  match x with
  | .num d =>
    match fp32Hi x with
    | .num h => fmtBF16.decode (fmtBF16.roundNum .rne true (d.add h.negate false)).bits
    | _ => .num (dyZero false)
  | _ => .num (dyZero false)

/-- The product of one cell in pass `n` (0, 1, 2) of FP32 mode (R45, R46): passes 1 and 2 take a non-finite source
as contributing +0. -/
def fp32Product (n : Nat) (a b : FVal) : FVal × Bool :=
  if n = 2 then fmul (fp32Hi a) (fp32Hi b)
  else if a.isFinite && b.isFinite then
    if n = 0 then fmul (fp32Hi a) (fp32Lo b) else fmul (fp32Lo a) (fp32Hi b)
  else (.num (dyZero false), false)

/-- A block scale 2^(e − 127) applied to an element; e = 0xFF makes it a NaN (R36). -/
def mxElement (e : Nat) (x : FVal) : FVal :=
  if e = 255 then .nan false
  else match x with
    | .num d => .num (d.scale ((e : Int) - 127))
    | y => y

end Sys2Proof.Machine
end

