-- ==== Sys2Proof/Config.lean ====
section
/-! DEFINITION. What an implementation fixes and the spec leaves open: constants with no value in Lean, so that
nothing can be proved about the value itself. -/

namespace Sys2Proof.Config

/-- A fresh byte where the spec leaves the contents of memory undefined; applied to the counter `State.free`
(logs 10, 11). -/
opaque freeByte : Nat → Byte

/-- A fresh word where the spec leaves a value undefined; applied to the counter `State.free` (log 10). -/
opaque freeNat : Nat → Nat

/-- Whether Y0, or SLOPE, of segment i of a built-in slot is the FP32 neighbour away from zero of its exact value (R143
names no rounding) (log 8). -/
opaque segUp : (slot i : Nat) → (slope : Bool) → Bool

/-- Whether a built-in slot has a special-value entry for a zero argument (class 2: −0, 3: +0), where R143 does not say
(log 8). -/
opaque zeroEntryOn : (slot cls : Nat) → Bool

/-- The sign of the zero that GELU and SILU give for −Inf (log 8). -/
opaque negInfNeg : (slot : Nat) → Bool

/-- Which value within the refined bound the micro-program of a built-in slot gives at an argument (R143) (log 8). -/
opaque refinedPick : (slot : Nat) → W32 → Nat

/-- The segment words and constants that the micro-program of a built-in slot reads at an argument (R135) (log 8). -/
opaque programReads : (slot : Nat) → W32 → List Nat

/-- What a step gives where R146 states no result, as a double-precision encoding: the image, the argument, and the
step's number (log 8). -/
opaque stepFree : List Byte → W32 → Nat → W64

/-- What an evaluation of a loaded image gives where the rules state no result, for an image and an argument
(log 8). -/
opaque sfuUnstated : List Byte → W32 → W32

/-- Whether the RSU's exponential of an X64 argument ±m · 2^e is the X64 number above the exact value (R158)
(log 9). -/
opaque rsuExpUp : (neg : Bool) → (m : Nat) → (e : Int) → Bool

/-- Whether the RSU's 1/√ of an X64 argument m · 2^e is the X64 number above the exact value (R157) (log 9). -/
opaque rsuRsqrtUp : (m : Nat) → (e : Int) → Bool

/-- What the 32-bit count of a state slot holds when the elements counted exceed it (R156) (log 9). -/
opaque rsuCount : (count : Nat) → Nat

/-! ### Decoding of compressed pictures (R282) (log 13) -/

/-- What a decoder is given: the coding standard (CODEC of R275), NALFMT, parameter sets and the elementary stream's
bytes. -/
structure DecodeTask where
  codec : Nat
  nalfmt : Nat
  params : List Byte
  source : List Byte
  deriving DecidableEq, Repr

/-- How a coded picture holds its samples. -/
inductive PicKind where
  | progressive
  /-- An interlaced frame. -/
  | frame (topFirst : Bool)
  /-- One field. -/
  | field (bottom : Bool)
  deriving DecidableEq, Repr, Inhabited

/-- What the syntax of the standard says of one coded picture of a stream. -/
structure CodedPic where
  /-- The first byte of its access or temporal unit in the elementary stream, and the byte after its last. -/
  first : Nat
  last : Nat
  /-- H.264: an IDR access unit, and recovery_frame_cnt of its recovery point SEI. -/
  idr : Bool
  recovery : Option Nat
  /-- HEVC: nal_unit_type of its slices. -/
  nal : Nat
  /-- AV1, MPEG-2: a sequence header stands with it. -/
  seqHdr : Bool
  /-- AV1: a key frame with show_frame = 1. -/
  keyShown : Bool
  /-- MPEG-2: 1 I, 2 P, 3 B. -/
  ptype : Nat
  /-- Its place in output order, whether it is output, and the pictures it refers to, by number in decoding order. -/
  order : Nat
  shown : Bool
  refs : List Nat
  /-- The profile and level signalled, in the standard's own codes; H.264: constraint_set1_flag. -/
  profile : Nat
  level : Nat
  constrained : Bool
  depth : Nat
  /-- 0: monochrome; 1: 4:2:0. -/
  chroma : Nat
  width : Nat
  height : Nat
  /-- The cropping or conformance window: luma samples cut off at each side. -/
  left : Nat
  right : Nat
  top : Nat
  bottom : Nat
  kind : PicKind
  deriving DecidableEq, Repr, Inhabited

/-- The samples of a decoded picture, plane by plane and row by row, the 16 × 16 luma areas that are damaged, in raster
order, and why. -/
structure Samples where
  y : List Nat
  cb : List Nat
  cr : List Nat
  damaged : List Nat
  syntaxError : Bool
  refMissing : Bool
  deriving DecidableEq, Repr, Inhabited

/-- A picture of the decoder's output. -/
structure Picture where
  width : Nat
  height : Nat
  depth : Nat
  mono : Bool
  interlaced : Bool
  topFirst : Bool
  y : List Nat
  cb : List Nat
  cr : List Nat
  damaged : List Nat
  deriving DecidableEq, Repr, Inhabited

/-- What a stream signals besides; none: it carries no such element. -/
structure StreamInfo where
  /-- The largest decoded-picture buffer, in pictures. -/
  dpb : Nat
  matrix : Option Nat
  fullRange : Option Bool
  transfer : Option Nat
  /-- AV1 film grain parameters are present. -/
  grain : Bool
  /-- Chroma siting: how far source positions move from those of samples midway, across and down, in quarters of a chroma
  sample. -/
  siting : Option (Int × Int)
  deriving DecidableEq, Repr, Inhabited

/-- The coded pictures that the syntax of the standard finds in a stream, in decoding order. -/
opaque parseStream : DecodeTask → List CodedPic

/-- The decoding process of the standard: picture i, decoding having started at picture `start`. -/
opaque decodePicture : DecodeTask → (start i : Nat) → Samples

/-- What a stream signals from a start point on. -/
opaque streamInfo : DecodeTask → (start : Nat) → StreamInfo

/-- The frame that a field without a partner becomes under WEAVE: R284 speaks of pairs only. -/
opaque loneField : Picture → Picture

/-- Whether a resize position that lies between two multiples of 1/64 goes up: remainder over denominator (R288 names
no direction) (log 13). -/
opaque quantUp : (rem den : Nat) → Bool

/-- Whether a resize coefficient halfway between two multiples of 2^-14 goes up (R288) (log 13). -/
opaque coefUp : Int → Bool

/-- Which of several offsets that all cause a vector fault VFLT records (R131 says one) (log 107). -/
opaque faultPick : (offsets : List Nat) → Nat

/-- Which of n equal largest taps takes up the difference (R288) (log 13). -/
opaque tapPick : (filter phase n : Nat) → Nat

/-! ### Boot and security (R502 to R513): the functions of the standards the spec names, and what the part holds
(log 12) -/

/-- SHA-384 (FIPS 180-4) of bytes. -/
opaque sha384 : List Byte → List Byte

/-- SHA-384 of the boot ROM (R508). -/
opaque romDigest : List Byte

/-- The key-set digests 0 and 1 in the boot ROM (R502). -/
opaque keyDigest : Nat → List Byte

/-- RSASSA-PSS verification with the parameters of R502: modulus, digest, signature. -/
opaque rsaVerify : (modulus digest sig : List Byte) → Bool

/-- SLH-DSA-SHA2-192s verification (FIPS 205, pure, empty context): public key, message, signature. -/
opaque slhVerify : (pk msg sig : List Byte) → Bool

/-- The seed S that a PUF reading and helper data reconstruct, if they do (R504). -/
opaque pufSeed : (reading : Nat) → (helper : List Byte) → Option (List Byte)

/-- Fresh helper data from a PUF reading and a random draw, with the seed S (R506). -/
opaque pufEnrol : (reading draw : Nat) → List Byte × List Byte

/-- K_wrap of a seed (R505). -/
opaque kdfWrap : List Byte → List Byte

/-- The SLH-DSA secret values of a seed, and their public key (R505). -/
opaque kdfSlh : List Byte → List Byte × List Byte

/-- AES-256-GCM opening under a key: IV, tag, additional data, ciphertext; none: the tag fails. -/
opaque gcmOpen : (key iv tag aad text : List Byte) → Option (List Byte)

/-- AES-256-GCM sealing under a key: IV, additional data, plaintext; the ciphertext and the tag. -/
opaque gcmSeal : (key iv aad text : List Byte) → List Byte × List Byte

/-- The RSA-3072 key pair that a random draw makes: the modulus, and the private key in CRT form (R505). -/
opaque rsaKey : Nat → List Byte × List Byte

/-- RSASSA-PSS signature over a digest, with a random draw for the salt. -/
opaque rsaSign : (priv digest : List Byte) → (draw : Nat) → List Byte

/-- SLH-DSA signature over a message, with a random draw. -/
opaque slhSign : (sk msg : List Byte) → (draw : Nat) → List Byte

/-- Raldami's PCI-SIG Vendor ID (R441). -/
opaque vendorId : Nat

/-- The manufacturer identity in IDCODE bits [11:1] (R563). -/
opaque jedecId : Nat

end Sys2Proof.Config
end

