-- ==== Sys2Proof/Machine/Table.lean ====
section
/-! DEFINITION. Sparse tables: plain data keyed by Nat, in one canonical form (keys strictly rising, no entry equal to
what an unlisted key reads as), so that equal tables are equal lists. -/

namespace Sys2Proof.Machine

/-- A sparse table, or a memory of cells: (key, value) pairs with rising keys. -/
abbrev Table (α : Type) := List (Nat × α)

/-- The entry of key k; `d` where none is listed. -/
def look {α : Type} (d : α) (k : Nat) : Table α → α
  | [] => d
  | (a, v) :: t => if a = k then v else look d k t

/-- The table without key k. -/
def erase {α : Type} (k : Nat) : Table α → Table α
  | [] => []
  | (a, v) :: t => if a = k then erase k t else (a, v) :: erase k t

/-- The table with (k, v) put before the first higher key. -/
def insertAt {α : Type} (k : Nat) (v : α) : Table α → Table α
  | [] => [(k, v)]
  | (a, w) :: t => if k < a then (k, v) :: (a, w) :: t else (a, w) :: insertAt k v t

/-- The table in which key k reads as v; `d` is what an unlisted key reads as, and is never listed. -/
def put {α : Type} [DecidableEq α] (d : α) (k : Nat) (v : α) (t : Table α) : Table α :=
  if v = d then erase k t else insertAt k v (erase k t)

/-- The canonical form. -/
def wfTable {α : Type} [DecidableEq α] (d : α) : Table α → Bool
  | [] => true
  | [(_, v)] => decide (v ≠ d)
  | (a, v) :: (b, w) :: t => decide (v ≠ d) && decide (a < b) && wfTable d ((b, w) :: t)

/-- A set of numbers: the table of its members. -/
abbrev NatSet := Table Bool

def NatSet.has (s : NatSet) (k : Nat) : Bool := look false k s
def NatSet.add (s : NatSet) (k : Nat) : NatSet := put false k true s
def NatSet.del (s : NatSet) (k : Nat) : NatSet := put false k false s

/-- Numbers lo, lo + 1, …, lo + n − 1. -/
def upFrom (lo n : Nat) : List Nat := (List.range n).map (lo + ·)

/-- Some member of lo, …, lo + n − 1 is in the set. -/
def NatSet.meets (s : NatSet) (lo n : Nat) : Bool := s.any fun p => decide (lo ≤ p.1) && decide (p.1 < lo + n) && p.2

/-- The set without lo, …, lo + n − 1. -/
def NatSet.clearRange (s : NatSet) (lo n : Nat) : NatSet := s.filter fun p => decide (p.1 < lo) || decide (lo + n ≤ p.1)

/-- The n entries from key lo on. -/
def lookRange {α : Type} (d : α) (lo n : Nat) (t : Table α) : List α := (upFrom lo n).map fun k => look d k t

/-- Writes a list of entries from key lo on. -/
def putRange {α : Type} [DecidableEq α] (d : α) (lo : Nat) (vs : List α) (t : Table α) : Table α :=
  match vs with
  | [] => t
  | v :: vs => putRange d (lo + 1) vs (put d lo v t)

/-- Every entry changed by a function. -/
def remap {α : Type} [DecidableEq α] (d : α) (f : α → α) (t : Table α) : Table α :=
  t.foldl (fun u p => put d p.1 (f p.2) u) t

/-- Writes (key, value) pairs in order. -/
def putAll {α : Type} [DecidableEq α] (d : α) (l : List (Nat × α)) (t : Table α) : Table α :=
  l.foldl (fun t p => put d p.1 p.2 t) t

end Sys2Proof.Machine
end

