-- ==== Sys2Proof/Machine/Bits.lean ====
section
/-! DEFINITION. Bit fields, byte order (R9), Philox4x32-10 (R51, R125), and the CRCs of the part. -/

namespace Sys2Proof.Machine

/-- Bits [hi:lo] of a number (R15). -/
def fld (v : Nat) (hi lo : Nat) : Nat := v / 2 ^ lo % 2 ^ (hi + 1 - lo)

/-- Bit i of a number. -/
def bitOf (v : Nat) (i : Nat) : Bool := v / 2 ^ i % 2 == 1

/-- 1 for true. -/
def b2n (b : Bool) : Nat := if b then 1 else 0

/-- v with bits [hi:lo] replaced by the low bits of x. -/
def setFld (v : Nat) (hi lo x : Nat) : Nat :=
  v / 2 ^ (hi + 1) * 2 ^ (hi + 1) + x % 2 ^ (hi + 1 - lo) * 2 ^ lo + v % 2 ^ lo

/-- The two's-complement value of the low w bits. -/
def sext (w v : Nat) : Int :=
  let u := v % 2 ^ w
  if u < 2 ^ (w - 1) then u else (u : Int) - (2 ^ w : Nat)

/-- The low w bits of an integer. -/
def toBits (w : Nat) (i : Int) : Nat := (i % (2 ^ w : Nat)).toNat

/-- The number of little-endian bytes (R9). -/
def leNat (bs : List Byte) : Nat := bs.foldr (fun b n => b.toNat + 256 * n) 0

/-- The n little-endian bytes of a number (R9). -/
def leBytes : Nat → Nat → List Byte
  | 0, _ => []
  | n + 1, v => BitVec.ofNat 8 v :: leBytes n (v / 256)

/-- A little-endian field of `len` bytes at offset `off` of a byte list. -/
def fieldAt (bs : List Byte) (off len : Nat) : Nat := leNat ((bs.drop off).take len)

/-- The bytes padded with zeros, or cut, to n. -/
def padTo (n : Nat) (bs : List Byte) : List Byte := bs.take n ++ List.replicate (n - bs.length) 0

/-- Every byte of a range of a byte list is zero. -/
def zeroAt (bs : List Byte) (off len : Nat) : Bool := ((bs.drop off).take len).all (· == 0)

/-- A list with entry i replaced. -/
def setAt {α : Type} (l : List α) (i : Nat) (v : α) : List α := l.set i v

/-- The bits of a number of w bits, least significant first. -/
def bitList (w v : Nat) : List Bool := (List.range w).map (bitOf v)

/-- The number of bits, least significant first. -/
def ofBitList (l : List Bool) : Nat := l.foldr (fun b n => b2n b + 2 * n) 0

/-- How many bits of the low w are 1. -/
def popCount (w v : Nat) : Nat := ((List.range w).filter (bitOf v)).length

/-- The indices of the 1 bits among the low w, rising. -/
def bitIndices (w v : Nat) : List Nat := (List.range w).filter (bitOf v)

/-! ### Philox4x32-10 (Salmon et al.), the multipliers and key increments of the published generator (PRESUMED,
log 7: the spec names the generator and gives no constants) -/

/-- One round on (x0, x1, x2, x3) under (k0, k1). -/
def philoxRound (x : Nat × Nat × Nat × Nat) (k : Nat × Nat) : Nat × Nat × Nat × Nat :=
  let (x0, x1, x2, x3) := x
  let p0 := 0xD2511F53 * x0
  let p1 := 0xCD9E8D57 * x2
  let lo (n : Nat) := n % 4294967296
  let hi (n : Nat) := n / 4294967296
  ((hi p1 ^^^ x1) ^^^ k.1, lo p1, (hi p0 ^^^ x3) ^^^ k.2, lo p0)

/-- n rounds, the key raised after each. -/
def philoxRounds : Nat → (Nat × Nat × Nat × Nat) → (Nat × Nat) → Nat × Nat × Nat × Nat
  | 0, x, _ => x
  | n + 1, x, k =>
    philoxRounds n (philoxRound x k) ((k.1 + 0x9E3779B9) % 4294967296, (k.2 + 0xBB67AE85) % 4294967296)

/-- The four output words for a 64-bit key and four counter words. -/
def philox (key c0 c1 c2 c3 : Nat) : List Nat :=
  let r := philoxRounds 10 (c0, c1, c2, c3) (key % 4294967296, key / 4294967296 % 4294967296)
  [r.1, r.2.1, r.2.2.1, r.2.2.2]

/-- The stochastic-rounding draw of R51 for key K, tag T and logical position q. -/
def srDraw (key tag q : Nat) : Nat :=
  let q := q % 2 ^ 64
  let x := philox key (q / 8 % 4294967296) (q / 8 / 4294967296) tag 0x53520000
  let j := q % 8
  let w := x.getD (j / 2) 0
  if j % 2 = 0 then w % 65536 else w / 65536

/-! ### CRCs, bit by bit, in the reflected form -/

/-- One bit of a reflected CRC. -/
def crcBit (poly c : Nat) : Nat := if c % 2 = 1 then (c / 2) ^^^ poly else c / 2

/-- n bits of a reflected CRC. -/
def crcBits (poly : Nat) : Nat → Nat → Nat
  | 0, c => c
  | n + 1, c => crcBits poly n (crcBit poly c)

/-- The running register of a reflected CRC over bytes. -/
def crcRun (poly c : Nat) (bs : List Byte) : Nat := bs.foldl (fun c b => crcBits poly 8 (c ^^^ b.toNat)) c

end Sys2Proof.Machine
end

