-- ==== Sys2Proof/Machine/StCore.lean ====
section
/-! DEFINITION. The state of one core: control core, arrays, vector engines with SFU and RSU, stream engine, copy
engine, beats and launches (chapters 02 to 09 of the spec). -/

namespace Sys2Proof.Machine

/-! ### Matrix arrays (R62 to R96) -/

/-- One entry of an array command queue (R68). `done` is the status once the command has run. -/
structure ArrCmd where
  /-- The core's issue number of the command. -/
  id : Nat
  stream : Nat
  w0 : W64
  w1 : W64
  /-- none: waiting; some: it has run with this status, and its completion is not yet reported. -/
  done : Option Byte
  deriving DecidableEq, Repr

/-- What a stationary set holds: whether a load is valid, its format code, and whether it received lo(a) of an FP32
load (R71, R73, R79). -/
structure SetInfo where
  valid : Bool
  fmt : Nat
  lo : Bool
  deriving DecidableEq, Repr

def SetInfo.reset : SetInfo := ⟨false, 0, false⟩

/-- What a charge books at an activity level (R486). -/
def levelBook (charge level : Nat) : Nat := (charge * level + 7) / 8

/-- A tail of an array: the units still held, and the charge and the level it falls by (R487). -/
structure Tail where
  units : Nat
  charge : Nat
  level : Nat
  deriving DecidableEq, Repr

/-- One half of an array, or in whole mode (half 0) the whole of it. -/
structure Half where
  /-- W_FENCED, E_FENCED (R87). -/
  fenced : Bool
  /-- AFLT_W, AFLT_E (R88). -/
  aflt : W64
  /-- Activity level 0 to 8 (R93). -/
  level : Nat
  /-- The charge C of the pass the level runs for (R483). -/
  charge : Nat
  /-- Units booked against the core's grant (R486). -/
  book : Nat
  /-- Units held as tails, oldest first (R487). -/
  tails : List Tail
  /-- The command queue (R68); queue 1 belongs to half 1. -/
  queue : List ArrCmd
  /-- The two stationary sets' states. -/
  set0 : SetInfo
  set1 : SetInfo
  deriving DecidableEq, Repr

/-- AFLT after reset: COLUMN reads 0xFF (R88). -/
def afltReset : W64 := 0x00000000FF000000

def Half.reset : Half := ⟨false, afltReset, 0, 0, 0, [], [], .reset, .reset⟩

/-- Units a half holds as tails. -/
def Half.tail (h : Half) : Nat := (h.tails.map (·.units)).sum

/-- A matrix array (R62). -/
structure Mxa where
  /-- Split mode (R82). -/
  split : Bool
  west : Half
  east : Half
  /-- Stationary registers: key (set · 128 + row) · 128 + physical column, the element's bits. -/
  cells : Table W16
  /-- The MX scale of each stationary register, same key (R71). -/
  scales : Table Byte
  /-- Accumulator containers: key row · 128 + column (R80). -/
  acc : Table W64
  /-- Containers an INT8 pass produced (R40, R67), and those holding an uncorrectable error (R84), same key. -/
  accInt : NatSet
  accBad : NatSet
  /-- Poison bits: key bank · 512 + row (R80). -/
  poison : NatSet
  /-- Rows written since the half's last passed self-test: key bank · 512 + row (R520). -/
  written : NatSet
  /-- COLMASK_LO, COLMASK_HI (R89) and writes held pending (R91). -/
  colLo : W64
  colHi : W64
  pendLo : Option W64
  pendHi : Option W64
  /-- ARAMP (R94). -/
  rampLock : Bool
  rampStep : Byte
  /-- ASR_KEY, ASR_TAG (R95). -/
  asrKey : W64
  asrTag : W32
  deriving DecidableEq, Repr

def Mxa.reset : Mxa :=
  { split := false, west := .reset, east := .reset, cells := [], scales := [], acc := [], accInt := [], accBad := [], poison := [], written := [],
    colLo := 0xFFFFFFFFFFFFFFFF, colHi := 0xFFFFFFFFFFFFFFFF, pendLo := none, pendHi := none,
    rampLock := false, rampStep := 0x10, asrKey := 0, asrTag := 0 }

/-! ### Vector engines, SFU, RSU (R97 to R162) -/

/-- A function slot of an SFU bank (R133, R134): the standard image's, or a loaded image of 1,024 bytes. -/
inductive SfSlot where
  | standard
  | loaded (image : List Byte)
  deriving DecidableEq, Repr

/-- Who asked for a slot load: a stream's VSFLD with its summary register, or a host's SF_LOAD packet. -/
inductive LoadOrigin where
  | stream (t ms : Nat)
  | host (pid : Nat)
  deriving DecidableEq, Repr

/-- A checked slot load that waits to write (R148). -/
structure SfLoad where
  bank : Nat
  slot : Nat
  image : List Byte
  origin : LoadOrigin
  deriving DecidableEq, Repr

/-- An X64 value of the RSU (R152). -/
inductive X64 where
  | nan
  | inf (neg : Bool)
  | num (neg : Bool) (m : Nat) (e : Int)
  deriving DecidableEq, Repr

/-- The +0 of X64. -/
def X64.zero : X64 := .num false 0 0

/-- A state slot of an RSU (R156). -/
inductive RsuSlot where
  | empty
  /-- Statistics: n, mean, m2 (R153). -/
  | stats (n : Nat) (mean m2 : X64)
  /-- Online softmax: n, M, Σ (R158). -/
  | smax (n : Nat) (m sum : X64)
  /-- The carry of a scan or a recurrence (R159, R160). -/
  | scan (x : X64)
  deriving DecidableEq, Repr

/-- A vector engine with its SFU and RSU. -/
structure Ve where
  /-- v0 to v31: key register · 1,024 + lane (R97). -/
  v : Table W32
  /-- Register lanes holding an uncorrectable error, same key (R127). -/
  bad : NatSet
  /-- p1 to p7: key predicate · 1,024 + lane (R97). -/
  p : NatSet
  vl : Fin 1025
  /-- VSTS.FAULTED, and the stream whose fault it is (R127, R130). -/
  faulted : Bool
  /-- VFLT (R131). -/
  vflt : W64
  /-- VKEY_RNG, VKEY_SR (R132). -/
  keyRng : W64
  keySr : W64
  /-- Units booked above half rate, and held as a tail (R486, R487). -/
  book : Nat
  tail : Nat
  /-- Function slots: key bank · 32 + slot (R133). -/
  slots : Table SfSlot
  /-- Table words with an uncorrectable error: key (bank · 32 + slot) · 128 + word (R135). -/
  sfBad : NatSet
  /-- Table words with a correctable error (R517). -/
  sfSoft : NatSet
  bankSel : Nat
  /-- SFSTS (R161). -/
  ldCode : Byte
  ldSlot : Nat
  ldBank : Nat
  /-- Loads that wait to write, oldest first (R148). -/
  loads : List SfLoad
  /-- The 64 state slots (R156). -/
  rsu : Table RsuSlot
  deriving DecidableEq, Repr

def Ve.reset : Ve :=
  { v := [], bad := [], p := [], vl := 1024, faulted := false, vflt := 0, keyRng := 0, keySr := 0, book := 0, tail := 0,
    slots := [], sfBad := [], sfSoft := [], bankSel := 0, ldCode := 0, ldSlot := 0, ldBank := 0, loads := [], rsu := [] }

/-! ### Streams and exceptions (R219, R243 to R250) -/

/-- Stream states (R249). -/
inductive StreamState where
  | idle | run | swap | exc | done | wait
  deriving DecidableEq, Repr

/-- The STATE code of SSTSn (R249). -/
def StreamState.code : StreamState → Nat
  | .idle => 0 | .run => 1 | .swap => 2 | .exc => 3 | .done => 4 | .wait => 5

/-- An exception that has been raised for a stream and that the stream has not yet taken (R243). -/
structure PendExc where
  code : Byte
  /-- SRC (R243): 0 CC, 1 + e VEe, 3 + 2a + h MXAa, 7 SE, 8 copy engine, 9 RAISE. -/
  src : Nat
  op : Nat
  info : Nat
  /-- A failed prefetch transfer, which stays in the prefetch set until the exception is taken (R182). -/
  pf : Bool
  deriving DecidableEq, Repr

/-- One hardware stream (R219). -/
structure Stream where
  st : StreamState
  pc : Nat
  /-- Vector target: 0 VE0, 1 VE1, 2 both (R230). -/
  vtgt : Nat
  /-- s1 to s31; s0 reads zero (R219). -/
  s : Table W64
  /-- SEXCn (R250). -/
  sexc : W64
  pend : List PendExc
  /-- The token mask and the ledger units of the SWAP issued (R178, R240). -/
  mask : W64
  units : Nat
  /-- END has been issued and waits for the stream's work (R241). -/
  ending : Bool
  deriving DecidableEq, Repr

def Stream.reset : Stream := ⟨.idle, 0, 0, [], 0, [], 0, 0, false⟩

/-! ### Stream engine and copy engine (R169 to R174, R212 to R217) -/

/-- What has happened to an SE command in the queue. -/
inductive SeStage where
  /-- Not yet at the head. -/
  | queued
  /-- Checked at the head with its descriptor read; waits to open (R170, R173, R200). -/
  | checked (desc : List Byte)
  /-- A checked POST, with what R171 compares: the earlier transfers not ended, and whether one failed. -/
  | posting
  deriving DecidableEq, Repr

/-- An entry of the SE command queue (R169). -/
structure SeCmd where
  id : Nat
  stream : Nat
  w0 : W64
  w1 : W64
  stage : SeStage
  /-- Of a POST: the earlier transfers that had not ended when it entered (R171). -/
  waitFor : List Nat
  /-- Of a POST: one of them has ended with an error. -/
  bad : Bool
  deriving DecidableEq, Repr

/-- A running transfer (R172). -/
structure Transfer where
  id : Nat
  stream : Nat
  w0 : W64
  w1 : W64
  desc : List Byte
  /-- Translations made at opening: context page number to device page number (R204, R205). -/
  xl : Table Nat
  /-- Of a STORE: its near bytes as read (key: working-store offset), how many of its elements could be read, and the
  error that stops it where one could not (R168). -/
  data : Table Byte
  avail : Nat
  stop : Option Byte
  /-- SE burst units booked, and whether they have become a tail (R486, R487). -/
  burst : Nat
  tail : Bool
  deriving DecidableEq, Repr

/-- An entry of the copy queue (R212). -/
structure CopyCmd where
  /-- The core's issue number of the command. -/
  id : Nat
  stream : Nat
  /-- The launch and the context of the program that issued it (R202). -/
  pid : Nat
  ctx : Nat
  w0 : W64
  w1 : W64
  deriving DecidableEq, Repr

/-- The running copy (R213 to R216): its destination bytes from the source elements read, and the error that stops it
where an element could not be read (R168, R329). -/
structure CopyRun where
  cmd : CopyCmd
  writes : List (Nat × Byte)
  stop : Option Byte
  deriving DecidableEq, Repr

/-! ### Launches (R225 to R228) -/

/-- A vector word an engine has accepted and not yet issued, with its issue number (R104, R233). -/
structure AccWord where
  id : Nat
  stream : Nat
  w : W64
  deriving DecidableEq, Repr

/-- A launch that has reached a core (R227). -/
structure LaunchReq where
  /-- The LAUNCH packet. -/
  pid : Nat
  ctx : Nat
  va : Nat
  arg : W64
  deriving DecidableEq, Repr

/-- The program a core runs. -/
structure Program where
  pid : Nat
  ctx : Nat
  arg : W64
  deriving DecidableEq, Repr

/-- A gate at which stream U is held (R263). -/
structure Gate where
  step : Nat
  count : Nat
  deriving DecidableEq, Repr

/-- A CECMD write that waits (R385). -/
structure CeWrite where
  stream : Nat
  ctx : Nat
  val : W64
  /-- SE transfers the stream issued earlier that have not landed. -/
  waits : List Nat
  deriving DecidableEq, Repr

/-- What has become of a core's ledger request for the next beat (R181). -/
inductive LReq where
  | notSent | sent | granted
  deriving DecidableEq, Repr

/-- One core. -/
structure Core where
  /-- ASTAT (R58). -/
  astat : W32
  mxa0 : Mxa
  mxa1 : Mxa
  ve0 : Ve
  ve1 : Ve
  /-- m0 to m7 (R121) and MSTAT (R122). -/
  m : Table W64
  mstat : W16
  /-- BEAT_CNT (R188). -/
  beat : W64
  /-- BSTS.HALTED, DENIED, TOVF (R189). -/
  halted : Bool
  /-- After a halt: the wait bits of BSTS and TWAIT as they stood, kept until the next launch (R186). -/
  haltSts : W64
  haltWait : W64
  denied : Bool
  tovf : Bool
  /-- The compute set of the current beat has retired (R179, R180). -/
  csRetired : Bool
  lreq : LReq
  /-- WATCHDOG (R192). -/
  wdLock : Bool
  wdLimit : W32
  /-- TBTIME from which the watchdog measures: the most recent beat start or the launch, moved on by time that does not
  count; and TBTIME since when an exception awaits acknowledgement (R185). -/
  wdStart : W64
  wdExc : Option W64
  /-- DBn (R176), and writes held pending (R177). -/
  db : Table W64
  dbPend : Table (Option W64)
  /-- TCk (R191). -/
  tc : Table W16
  seq : List SeCmd
  running : List Transfer
  /-- Commands and vector words issued so far: the next issue number. -/
  issued : Nat
  /-- The acceptance queues of the vector engines, oldest first (R233), and the cycles in which each engine has issued in
  the current 64-cycle window (R483, R486). -/
  accq : Table (List AccWord)
  winIssued : Table Nat
  cpq : List CopyCmd
  copy : Option CopyRun
  /-- CPSTS.LASTCODE and STAGING (R217). -/
  cpLast : Byte
  cpStaging : Bool
  /-- XFLT (R206). -/
  xflt : W64
  /-- The instruction store, and its words with an uncorrectable error (R220). -/
  code : Table W64
  codeBad : NatSet
  codeLen : Nat
  /-- CCCFG (R248). -/
  cfg : W64
  xvec : Table Nat
  entry : Table Nat
  prog : Option Program
  /-- The context of the most recent program; none before the first launch after reset (R226). -/
  prevCtx : Option Nat
  launches : List LaunchReq
  f : Stream
  b : Stream
  u : Stream
  /-- GNF (R260), UGSTS (R264), SKIPCNT (R265) and the gate waiting. -/
  gnf : W64
  ugsts : W64
  skipcnt : W32
  gate : Option Gate
  /-- CECMD writes waiting, oldest first (R385). -/
  cecmd : List CeWrite
  /-- LGRANT (R494). -/
  clips : W16
  lgReq : W16
  grant : Nat
  deriving DecidableEq, Repr

def Core.reset : Core :=
  { astat := 0, mxa0 := .reset, mxa1 := .reset, ve0 := .reset, ve1 := .reset, m := [], mstat := 0, beat := 0,
    halted := false, haltSts := 0, haltWait := 0, denied := false, tovf := false, csRetired := false, lreq := .notSent, wdLock := false,
    wdLimit := 0x000186A0, wdStart := 0, wdExc := none, db := [], dbPend := [], tc := [], seq := [], running := [], issued := 0, accq := [], winIssued := [], cpq := [],
    copy := none, cpLast := 0, cpStaging := false, xflt := 0, code := [], codeBad := [], codeLen := 0, cfg := 0,
    xvec := [], entry := [], prog := none, prevCtx := none, launches := [], f := .reset, b := .reset, u := .reset,
    gnf := 0, ugsts := 0, skipcnt := 0, gate := none, cecmd := [], clips := 0, lgReq := 0, grant := 0 }

/-- The words VEe has accepted and not issued. -/
def Core.accOf (k : Core) (e : Nat) : List AccWord := look [] e k.accq
def Core.setAcc (k : Core) (e : Nat) (l : List AccWord) : Core := { k with accq := put [] e l k.accq }

/-- Every accepted word that has not issued. -/
def Core.accWords (k : Core) : List AccWord := k.accOf 0 ++ k.accOf 1

end Sys2Proof.Machine
end

