-- ==== Sys2Proof/Machine/StHost.lean ====
section
/-! DEFINITION. The state of the host interface: ports, contexts, queues and packets (chapter 16 of the spec). -/

namespace Sys2Proof.Machine

/-- A context's host page whose translation has been requested (R444). -/
inductive PageReq where
  | asked | failed
  deriving DecidableEq, Repr

/-- A context (R452, R472 to R475). -/
structure Ctx where
  en : Bool
  td : Bool
  root : Option Nat
  /-- Table entries the part caches: key (VA >> shift of the level) · 4 + level (R205). -/
  xc : Table W64
  /-- CTXCORE: bit c, core c in the mask. -/
  cores : BitVec 96
  sqLim : Nat
  cqLim : Nat
  vecLim : Nat
  /-- CTXFLT (R474). -/
  flt : W64
  /-- AQCFG.AEN, ASIZE; ASQBASE, ACQBASE (R475). -/
  aen : Bool
  asize : Nat
  asqBase : W64
  acqBase : W64
  /-- ATS and PRI enabled for the function, its cached ATS translations (host page to bus page) and its page requests
  (R444). -/
  ats : Bool
  pri : Bool
  atc : Table Nat
  pageReqs : Table (Option PageReq)
  /-- What the host has configured in the function (R442, R445). -/
  cfg : FnCfg
  deriving DecidableEq, Repr

def Ctx.reset : Ctx :=
  { en := false, td := false, root := none, xc := [], cores := 0, sqLim := 0x7F, cqLim := 0x7F, vecLim := 0x80, flt := 0,
    aen := false, asize := 0, asqBase := 0, acqBase := 0, ats := false, pri := false, atc := [], pageReqs := [], cfg := ⟨false, 30, []⟩ }

/-- A submission queue (R454, R458, R461). -/
structure Sq where
  /-- The context that holds it; none: free. -/
  owner : Option Nat
  ring : Nat
  /-- The ring is at a host address. -/
  host : Bool
  entries : Nat
  head : Nat
  tail : Nat
  expSeq : Nat
  error : Bool
  cq : Nat
  /-- A Q_DELETE that waits for dispatched packets (R456). -/
  deleting : Option Nat
  deriving DecidableEq, Repr

def Sq.free : Sq := ⟨none, 0, false, 0, 0, 0, 0, false, 0, none⟩

/-- A status reply that waits to be written (R459, R460). -/
structure Reply where
  pid : Nat
  sq : Nat
  tag : Nat
  seq : Nat
  status : Byte
  detail : W32
  irq : Bool
  deriving DecidableEq, Repr

/-- A completion ring (R454, R459, R460). -/
structure Cq where
  owner : Option Nat
  ring : Nat
  host : Bool
  entries : Nat
  ien : Bool
  vec : Nat
  phase : Bool
  /-- Next entry to write, and the first entry not yet freed by the host. -/
  idx : Nat
  head : Nat
  /-- Entries written and not freed. -/
  used : Nat
  replies : List Reply
  deleting : Option Nat
  deriving DecidableEq, Repr

def Cq.free : Cq := ⟨none, 0, false, 0, false, 0, true, 0, 0, 0, [], none⟩

/-- What a dispatched packet waits for. -/
inductive PktWork where
  /-- Its unit will complete it. -/
  | unit
  /-- A LAUNCH: the cores named, and the outcome of those that have ended (R466). -/
  | launch (cores : List Nat) (ended : Table (Option (Byte × W32))) (recva : Nat) (xl : Table Nat)
  /-- A DMA whose checks have passed, with the translations of its VA pages (R465). -/
  | dma (xl : Table Nat)
  /-- A QWAIT on a sequence of an SQ (R467). -/
  | qwait (sq seq : Nat)
  /-- Its reply stands in a CQ and is not yet written. -/
  | replied
  deriving DecidableEq, Repr

/-- A packet that has been dispatched and whose reply is not yet written (R462). -/
structure Pkt where
  sq : Nat
  ctx : Nat
  words : List W64
  work : PktWork
  /-- Its reply is not to be written (R453, R475). -/
  silent : Bool
  /-- It is not of its SQ's sequence: its SEQ was not the expected one (R458), or the SQ has been reset or deleted (R456). -/
  stray : Bool
  deriving DecidableEq, Repr

/-- A PCIe port (R441, R442). -/
structure Port where
  up : Bool
  vfEn : Bool
  numVf : Nat
  /-- It has signalled Uncorrectable Internal Error through AER (R524). -/
  uie : Bool
  deriving DecidableEq, Repr

def Port.reset : Port := ⟨false, false, 0, false⟩

/-- The host interface. -/
structure HostIf where
  p0 : Port
  p1 : Port
  ctxs : Table Ctx
  sqs : Table Sq
  cqs : Table Cq
  pkts : Table (Option Pkt)
  pidNext : Nat
  /-- STEWARD (R472), and whether the lease has expired (R449). -/
  lease : W16
  stValid : Bool
  stPort : Nat
  stExpired : Bool
  /-- TBTIME at which the lease last started. -/
  stSince : W64
  /-- MSI-X vectors raised so far, newest first: context and function-local vector (R441, R460, R527). -/
  msix : List (Nat × Nat)
  /-- What the most recent BAR2 read answered; none: Unsupported Request (R446). The model's own latch. -/
  barRsp : Option (List Byte)
  deriving DecidableEq, Repr

def HostIf.reset : HostIf :=
  { p0 := .reset, p1 := .reset, ctxs := [], sqs := [], cqs := [], pkts := [], pidNext := 0, lease := 0x03E8,
    stValid := false, stPort := 0, stExpired := false, stSince := 0, msix := [], barRsp := none }

end Sys2Proof.Machine
end

