-- ==== Sys2Proof/Machine/StIngest.lean ====
section
/-! DEFINITION. The state of the ingest engine and the stream table (chapters 10 and 11 of the spec). -/

namespace Sys2Proof.Machine

/-- IDPBk (R299). -/
structure Idpb where
  lock : Bool
  stack : Nat
  base : W32
  size : W16
  deriving DecidableEq, Repr

def Idpb.reset : Idpb := ⟨false, 0, 0, 0x0060⟩

/-- A batch that has passed its checks and stands in a cluster's queue (R274 to R278). -/
structure Batch where
  id : Nat
  /-- The INGEST_BATCH packet, or the sample stream, that submitted it. -/
  pid : Option Nat
  stid : Option Nat
  ctx : Nat
  /-- The 64 bytes of the header, the recipe, the output descriptor and the requests as read. -/
  hdr : List Byte
  recipe : List Byte
  odesc : List Byte
  reqs : List (List Byte)
  /-- Where each request's status record goes, and the translations of these addresses. -/
  stat : List Nat
  xl : Table Nat
  /-- The ledger has been asked, has granted, and the units it gave. -/
  asked : Bool
  granted : Bool
  units : Nat
  /-- Requests started. -/
  next : Nat
  /-- Status of each request that has ended. -/
  done : Table (Option Byte)
  deriving DecidableEq, Repr

/-- Where a decode core's segment comes from: batch and request. -/
structure SegRun where
  batch : Nat
  idx : Nat
  deriving DecidableEq, Repr

/-- IFLTk (R299). -/
structure Iflt where
  code : Byte
  dres : Nat
  va : Nat
  deriving DecidableEq, Repr

def Iflt.reset : Iflt := ⟨0, 0, 0⟩

/-- States of a sample stream (R309). -/
inductive StState where
  | free | idle | run | drain | done | error | mismatch
  deriving DecidableEq, Repr

def StState.code : StState → Nat
  | .free => 0 | .idle => 1 | .run => 2 | .drain => 3 | .done => 4 | .error => 5 | .mismatch => 6

/-- A stream entry (R308), and the ST_STOP packets that wait for it. -/
structure StEntry where
  st : StState
  ctx : Nat
  seqGen : Bool
  aug : Bool
  manva : Nat
  endep : Nat
  n : Nat
  key : W64
  epoch : Nat
  index : Nat
  tmplva : Nat
  seqCtr : W64
  seqBase : W64
  lastSts : Byte
  outb : Nat
  stops : List Nat
  deriving DecidableEq, Repr

/-- A FREE entry. -/
def StEntry.free : StEntry := ⟨.free, 0, false, false, 0, 0, 0, 0, 0, 0, 0, 0, 0, 0, 0, []⟩

/-- The ingest engine's registers, batches and sample streams. -/
structure Ingest where
  dp0 : Idpb
  dp1 : Idpb
  /-- The queues of the two clusters, oldest first, running batches included. -/
  q0 : List Batch
  q1 : List Batch
  /-- The model's own number for the next batch. -/
  nextId : Nat
  /-- What each decode core runs. -/
  segs : Table (Option SegRun)
  iflt0 : Iflt
  iflt1 : Iflt
  streams : Table StEntry
  /-- The STID at which the next service begins (R311). -/
  sttPtr : Nat
  /-- STQn.LIMIT (R317). -/
  stq : Table Nat
  /-- STTBASE (R319). -/
  sttLock : Bool
  sttStack : Nat
  sttBase : W32
  deriving DecidableEq, Repr

def Ingest.reset : Ingest :=
  { dp0 := .reset, dp1 := .reset, q0 := [], q1 := [], nextId := 0, segs := [], iflt0 := .reset, iflt1 := .reset,
    streams := [], sttPtr := 0, stq := [], sttLock := false, sttStack := 0, sttBase := 0 }

end Sys2Proof.Machine
end

