-- ==== Sys2Proof/Machine/StLink.lean ====
section
/-! DEFINITION. The state of the Drunan links, routing and the timebase (chapter 13), and of the collective engines with
Evohild (chapters 14 and 15 of the spec). -/

namespace Sys2Proof.Machine

/-! ### Links (R354 to R380) -/

/-- Link states (R364). -/
inductive LinkState where
  | off | training | active | recovery | failed
  deriving DecidableEq, Repr

def LinkState.code : LinkState → Nat
  | .off => 0 | .training => 1 | .active => 2 | .recovery => 3 | .failed => 4

/-- A flit that waits to be sent or acknowledged, with what the part knows of its message. -/
structure TxFlit where
  /-- The model's own number of its message, rising in the order messages were queued. -/
  mid : Nat
  vl : Nat
  som : Bool
  eom : Bool
  hops : Nat
  dst : Nat
  src : Nat
  plen : Nat
  payload : List Byte
  /-- Header fields of the message (R381). -/
  kind : Nat
  job : Nat
  tag : Nat
  /-- The chunk of a CHUNK message, and the engine and plan handle of the instance that sends it. -/
  chunk : Nat
  own : Option (Nat × Nat)
  /-- A forwarded flit: the link it came on and the flits of that link's buffer that its sending frees (R360). -/
  frees : Option (Nat × Nat)
  deriving DecidableEq, Repr

/-- A DATA flit in the replay buffer, with its SEQ (R361). -/
structure SentFlit where
  seq : Nat
  flit : TxFlit
  deriving DecidableEq, Repr

/-- The message of a virtual lane that is arriving (R358). -/
structure Arriving where
  flits : List Flit
  /-- Its flits broke the pattern of R358; the rest of it is discarded. -/
  drop : Bool
  deriving DecidableEq, Repr

def Arriving.none : Arriving := ⟨[], false⟩

/-- What a PARAM flit said (R359). -/
structure PeerParam where
  dev : Nat
  link : Nat
  limits : List Nat
  deriving DecidableEq, Repr

/-- One link. -/
structure Link where
  st : LinkState
  /-- DLCTL (R375). -/
  enable : Bool
  retrain : Bool
  cls : Nat
  /-- DLSTS (R375). -/
  peerDev : Nat
  peerLink : Nat
  freason : Nat
  /-- PARAM received, and the own one sent, in this training or recovery. -/
  param : Option PeerParam
  paramSent : Bool
  /-- FECC, FECU, DLRETRY, DLDOWN, DLERR (R376). -/
  fecc : W64
  fecu : W64
  crcErr : W32
  replays : W32
  recov : W32
  fails : W32
  framing : W32
  /-- Transmitter: next SEQ, replay buffer oldest first, the SEQ from which a replay still has to resend, the SEQ of the
  last replay with how many in a row began there, credits per lane, and flits waiting (R360 to R363). -/
  txSeq : Nat
  replay : List SentFlit
  resend : Option Nat
  lastReplay : Option (Nat × Nat)
  limit : Table Nat
  sent : Table Nat
  crcnt : Table Nat
  out : List TxFlit
  /-- Next CRVL to report (R357). -/
  crvl : Nat
  /-- Receiver: expected SEQ, SEQ of the last flit accepted (0 before the first), the wait after a NAK, flits held in the
  buffer and flits freed per lane, messages arriving per lane. -/
  rxSeq : Nat
  rxAck : Nat
  nakHold : Bool
  held : Table Nat
  freed : Table Nat
  arriving : Table Arriving
  /-- The flit sent last; the model's own latch of what the wire carries. -/
  txLast : Option Flit
  deriving DecidableEq, Repr

def Link.reset : Link :=
  { st := .off, enable := false, retrain := false, cls := 0, peerDev := 0xFFFF, peerLink := 0, freason := 0,
    param := none, paramSent := false, fecc := 0, fecu := 0, crcErr := 0, replays := 0, recov := 0, fails := 0, framing := 0, txSeq := 0,
    replay := [], resend := none, lastReplay := none, limit := [], sent := [], crcnt := [], out := [], crvl := 0,
    rxSeq := 0, rxAck := 0, nakHold := false, held := [], freed := [], arriving := [], txLast := none }

/-- A bond (R371, R378). -/
structure Bond where
  en : Bool
  members : W32
  deriving DecidableEq, Repr

/-- The links, the routing table and the timebase's configuration (R368 to R379). -/
structure Net where
  links : Table Link
  bonds : Table Bond
  devId : W16
  rtIdx : Nat
  /-- Both copies of the routing table hold this. -/
  route : Table W16
  hopMax : Nat
  /-- ROUTESTS of each I/O die. -/
  noRoute0 : W32
  noRoute1 : W32
  hopDrop0 : W32
  hopDrop1 : W32
  /-- TBCFG, TBSTS (R379). -/
  tbLock : Bool
  tbMaster : Bool
  tbSrc : Nat
  tbOffset : W32
  tbHold : Bool
  tbSync : Bool
  /-- Ticks TBTIME still stands still (R372), nanoseconds still to slew, and ticks since the last slew step. -/
  tbStop : Nat
  tbSlew : Int
  tbSlewed : Nat
  /-- The next message number. -/
  mid : Nat
  deriving DecidableEq, Repr

def Net.reset : Net :=
  { links := [], bonds := [], devId := 0xFFFF, rtIdx := 0, route := [], hopMax := 0x20, noRoute0 := 0, noRoute1 := 0,
    hopDrop0 := 0, hopDrop1 := 0, tbLock := false, tbMaster := false, tbSrc := 0, tbOffset := 0, tbHold := false,
    tbSync := false, tbStop := 0, tbSlew := 0, tbSlewed := 0, mid := 0 }

/-! ### Collective engines (R381 to R440) -/

/-- A whole message that has arrived at an engine. -/
structure InMsg where
  /-- The link it came on; none: sent by this part to itself (R388). -/
  link : Option Nat
  vl : Nat
  src : Nat
  /-- Header and data. -/
  body : List Byte
  deriving DecidableEq, Repr

/-- Who issued a put or get, and where its descriptor lies. -/
inductive XferOrigin where
  /-- A CECMD write of a core: the descriptor's working-store offset. -/
  | core (c off : Nat)
  /-- A CE_XFER packet: the descriptor's address, and its word W4's device address. -/
  | host (pid va w4 : Nat)
  deriving DecidableEq, Repr

/-- A put or get outstanding at its origin (R386 to R390). -/
structure Xfer where
  tag : Nat
  ctx : Nat
  origin : XferOrigin
  put : Bool
  lpen : Bool
  lpcore : Nat
  lpctr : Nat
  lva : Nat
  len : Nat
  /-- Translations of the local pages, and the bytes of a get that have landed. -/
  xl : Table Nat
  landed : Nat
  deriving DecidableEq, Repr

/-- A put arriving at its target (R388). -/
structure TargetPut where
  id : Nat
  src : Nat
  tag : Nat
  job : Nat
  /-- First error among its messages; OK otherwise. -/
  status : Byte
  last : Bool
  post : Bool
  pcore : Nat
  pctr : Nat
  deriving DecidableEq, Repr

/-- An entry of a parity descriptor (R421). -/
structure ParityEntry where
  k : Nat
  m : Nat
  row : Bool
  group : Nat
  first : Nat
  stride : Nat
  len : Nat
  pva : Nat
  deriving DecidableEq, Repr

/-- What a plan's PARVA names (R420). -/
inductive ParityMode where
  | none
  | traffic (entries : List ParityEntry)
  | scaled (coef : Nat)
  deriving DecidableEq, Repr

/-- A step of a plan (R394). -/
structure PlanStep where
  w0 : Nat
  w1 : Nat
  deriving DecidableEq, Repr

/-- A loaded plan (R392 to R394). -/
structure Plan where
  ctx : Nat
  /-- Header words H0 to H15. -/
  h : List Nat
  parts : List Nat
  steps : List PlanStep
  parity : ParityMode
  deriving DecidableEq, Repr

/-- Triggers of a tag that have arrived for an instance that waits (R401). -/
structure Waiting where
  tag : Nat
  count : Nat
  deriving DecidableEq, Repr

/-- Where an entry's parity row goes: its slot, 0 or 1 (R423), and the 32-byte sectors of context addresses that have had
their first contribution (R424). -/
structure ParitySlot where
  entry : ParityEntry
  slot : Nat
  seen : NatSet
  deriving DecidableEq, Repr

/-- A running instance (R401 to R411). -/
structure Inst where
  tag : Nat
  /-- Translations made at start (R402). -/
  xl : Table Nat
  /-- Bytes done of each step; a flag step is done at 1. -/
  prog : Table Nat
  /-- NF of destination chunks and of buffer slots (R403). -/
  nfDst : NatSet
  nfBuf : NatSet
  /-- f, and the flag record. -/
  nf : Bool
  degraded : Bool
  flagStatus : Byte
  /-- Ended under R410 with this status. -/
  aborted : Option Byte
  /-- Detached: its data steps have stopped (R407). -/
  detached : Bool
  /-- Links whose receiver has been detached. -/
  cut : NatSet
  /-- TBTIME of the last SLOW or SLOWN received (R404). -/
  slowAt : Option W64
  slots : List ParitySlot
  deriving DecidableEq, Repr

/-- A held ABORT (R409). -/
structure HeldAbort where
  job : Nat
  collid : Nat
  inst : Nat
  status : Byte
  deriving DecidableEq, Repr

/-- SLOW or SLOWN received for an instance that has not started, with the TBTIME of the last (R404). -/
structure HeldSlow where
  job : Nat
  collid : Nat
  inst : Nat
  at' : W64
  deriving DecidableEq, Repr

/-- A DETACH received for an instance that has not started (R407). -/
structure HeldDetach where
  job : Nat
  collid : Nat
  inst : Nat
  deriving DecidableEq, Repr

/-- One collective engine. -/
structure Ce where
  plans : Table (Option Plan)
  waiting : Table (List Waiting)
  running : Table (Option Inst)
  /-- INST values of a handle's instances that ended under R410, whose later messages are discarded, and of those that
  completed, for which an ABORT is ignored (R409). -/
  dead : Table (List Nat)
  ended : Table (List Nat)
  held : List HeldAbort
  slows : List HeldSlow
  detaches : List HeldDetach
  inbox : List InMsg
  /-- The early buffers, by link (R402). -/
  early : Table (List InMsg)
  /-- The reduction buffer, and its words with an uncorrectable error (R394, R408). -/
  buf : Table Byte
  bufBad : NatSet
  xfers : List Xfer
  /-- Tags of timed-out operations, with the TBTIME at which each timed out (R390). -/
  quarantine : Table (Option W64)
  nextTag : Nat
  tputs : List TargetPut
  nextPut : Nat
  /-- CEJOBn (R415). -/
  jobs : Table W64
  /-- CEFLT, CEDROP (R414). -/
  flt : W64
  stale : W32
  aborts : W32
  /-- EVSTS.LASTCODE, EVBYTES (R439). -/
  evLast : Byte
  evBytes : W64
  deriving DecidableEq, Repr

def Ce.reset : Ce :=
  { plans := [], waiting := [], running := [], dead := [], ended := [], held := [], slows := [], detaches := [], inbox := [], early := [], buf := [], bufBad := [],
    xfers := [], quarantine := [], nextTag := 0, tputs := [], nextPut := 0, jobs := [], flt := 0, stale := 0,
    aborts := 0, evLast := 0, evBytes := 0 }

/-- A decode that runs on both engines: its packet, its descriptor and its record as read at the start, and the
translations of its pieces (R432 to R434). -/
structure Decode where
  pid : Nat
  ctx : Nat
  desc : List Byte
  rcd : List Byte
  xl : Table Nat
  deriving DecidableEq, Repr

end Sys2Proof.Machine
end

