-- ==== Sys2Proof/Machine/StMem.lean ====
section
/-! DEFINITION. The state of an HBM stack's controller and of the LPDDR recovery port (chapter 12 of the spec). -/

namespace Sys2Proof.Machine

/-- States of a pseudo-channel (R350). -/
inductive PcState where
  | active | retrain | failed | copying | repaired
  deriving DecidableEq, Repr

def PcState.code : PcState → Nat
  | .active => 0 | .retrain => 1 | .failed => 2 | .copying => 3 | .repaired => 4

/-- What a request of one sector asks for (R329, R330). -/
inductive HbmReq where
  | read (off : Nat)
  | write (off start : Nat) (bytes : List Byte)
  deriving DecidableEq, Repr

/-- A request that waits, with its source (R20, R324, R338). -/
structure HbmWait where
  src : HbmSource
  req : HbmReq
  deriving DecidableEq, Repr

/-- A pseudo-channel (R338, R339, R350). -/
structure Pc where
  retrains : Nat
  laneRep : Nat
  state : PcState
  /-- Consecutive failed training attempts. -/
  fails : Nat
  /-- The stack's temperature and TBTIME at the last training (R338). -/
  lastTemp : Nat
  lastTime : W64
  /-- TBTIME of the recent corrected errors (R338: 16 within 1 ms). -/
  corr : List Nat
  /-- TBTIME of the recent uncorrectable errors (R339: 4 within 1 s). -/
  uncorr : List Nat
  /-- Due for training and waiting its turn (R338). -/
  due : Bool
  /-- Its data is unreadable (R339). -/
  lost : Bool
  /-- Requests waiting (QDEPTH). -/
  queue : List HbmWait
  deriving DecidableEq, Repr

def Pc.reset : Pc := ⟨0, 0, .active, 0, 0, 0, [], [], false, false, []⟩

/-- A context's reserved share (R326, R350). -/
structure Rsv where
  held : Nat
  limit : Nat
  deriving DecidableEq, Repr

def Rsv.reset : Rsv := ⟨0, 0⟩

/-- The response of the controller to the most recent request; the model's own latch for what the requester
receives (R329, R330). -/
structure HbmRsp where
  status : Byte
  data : List Byte
  deriving DecidableEq, Repr

/-- What has been served in the current window of 1 µs (R324). -/
structure Window where
  prio : Nat
  /-- Sectors served to each context from its reservation. -/
  resv : Table Nat
  total : Nat
  deriving DecidableEq, Repr

/-- States of a stack (R346). -/
inductive StackState where
  | down | opened | closedThermal | closedFault
  deriving DecidableEq, Repr

def StackState.code : StackState → Nat
  | .down => 0 | .opened => 1 | .closedThermal => 2 | .closedFault => 3

/-- One stack with its controller. -/
structure Stack where
  state : StackState
  /-- Step 1 of R335 is done and step 4 is not: no new request is accepted. -/
  closing : Bool
  tlevel : Nat
  spare : Bool
  repairing : Bool
  /-- The pseudo-channel in training. -/
  training : Option Nat
  tfail : Bool
  /-- Readouts failed in a row (R333). -/
  readFails : Nat
  repPc : Option Nat
  /-- HCFG, HTHERM, HPRIO (R347). -/
  cfgLock : Bool
  scrubH : Byte
  rtPer : W16
  repairAuto : Bool
  spareEn : Bool
  thLock : Bool
  hyst : Byte
  crit : Byte
  hot : Byte
  warm : Byte
  prLock : Bool
  ctxPrio : W32
  bound : BitVec 6
  /-- HTEMP, HECC, HEADDR (R348). -/
  seq : W16
  temp : Byte
  ccnt : W32
  ucnt : W16
  headdr : W64
  /-- HRPTR (R349). -/
  poisoned : W32
  copied : Nat
  pcs : Table Pc
  rsv : Table Rsv
  /-- Sectors, by stack offset / 32: poisoned; uncorrectable; with a single-bit error (R328, R329). -/
  poison : NatSet
  uncorr : NatSet
  soft : NatSet
  /-- After a repair without copy every sector of the repaired pseudo-channel is poisoned until it is written whole
  (R343); these have been. -/
  noCopy : Bool
  refilled : NatSet
  window : Window
  /-- Accepted requests that wait for a sector of a window, oldest first (R324). -/
  waiting : List HbmWait
  /-- Requests held in the fabric and not yet accepted, oldest first (R20, R338). -/
  fabric : List HbmWait
  /-- The sources served last among the priority and among the normal requests, by their ring numbers (R324). -/
  lastPrio : Nat
  lastNorm : Nat
  /-- The stack has been opened since reset, so that its spare band is applied (R340, R347). -/
  booted : Bool
  scrubPtr : Nat
  rsp : HbmRsp
  deriving DecidableEq, Repr

def Stack.reset : Stack :=
  { state := .down, closing := false, tlevel := 0, spare := false, repairing := false, training := none, tfail := false,
    readFails := 0, repPc := none, cfgLock := false, scrubH := 0x0C, rtPer := 0x03E8, repairAuto := true,
    spareEn := false, thLock := false, hyst := 0x03, crit := 0x69, hot := 0x5F, warm := 0x55, prLock := false,
    ctxPrio := 0, bound := 0x10, seq := 0, temp := 0, ccnt := 0, ucnt := 0, headdr := 0, poisoned := 0, copied := 0,
    pcs := [], rsv := [], poison := [], uncorr := [], soft := [], noCopy := false, refilled := [],
    window := ⟨0, [], 0⟩, waiting := [], fabric := [], lastPrio := 0, lastNorm := 0, booted := false, scrubPtr := 0, rsp := ⟨0, []⟩ }

/-- The LPDDR recovery port (R351, R352). -/
structure Lpp where
  lock : Bool
  rate : BitVec 3
  ranks : Bool
  size : BitVec 5
  lce : W32
  lue : W16
  sref : Bool
  ready : Bool
  /-- Bytes at which link ECC fails an engine's access even after its retry, by address (R351) (log 15). -/
  bad : NatSet
  /-- TBTIME of the last request (R351). -/
  lastReq : W64
  /-- Status of the most recent LPP_ACCESS; the model's own latch. -/
  rsp : Byte
  deriving DecidableEq, Repr

def Lpp.reset : Lpp := ⟨false, 0, false, 0, 0, 0, false, false, [], 0, 0⟩

end Sys2Proof.Machine
end

