-- ==== Sys2Proof/Machine/StPart.lean ====
section
/-! DEFINITION. Part-wide state: power, ledger and clocks (17), the error aggregator and functional safety (19). -/

namespace Sys2Proof.Machine

/-- The three variants (R1). -/
inductive Variant where
  | f | n | s
  deriving DecidableEq, Repr

/-- Package power states (R480). -/
inductive PkgState where
  | off | boot | on
  deriving DecidableEq, Repr

/-- Die power states (R480). -/
inductive DieState where
  | run | parked | tripped
  deriving DecidableEq, Repr

/-- A park or unpark in progress or waiting its turn: the LEDGER_SET packet, and whether it parks (R490). -/
structure ParkOp where
  pid : Nat
  park : Bool
  deriving DecidableEq, Repr

/-- A request the ledger has and has not granted (R484). -/
structure LedgerReq where
  who : Requester
  units : Nat
  /-- It has been decided at least once and did not fit. -/
  denied : Bool
  /-- The units counted for it since it fitted; its grant is made 24 cycles later. -/
  fit : Option Nat
  deriving DecidableEq, Repr

/-- A die's temperature (R492, R494). -/
structure DTemp where
  tlevel : Nat
  sfail : Bool
  temp : Byte
  /-- Readouts failed in a row, per sensor. -/
  fails : Table Nat
  deriving DecidableEq, Repr

def DTemp.reset : DTemp := ⟨0, false, 0, []⟩

/-- Ledger, die temperatures, power states and clocks (R494). -/
structure Power where
  lgLock : Bool
  base : Nat
  limit : Nat
  waiting : List LedgerReq
  /-- Grants of ingest clusters (key 96 + k) and link bring-ups (key 98 + l). -/
  grants : Table Nat
  dieLim : Table Nat
  ctxLim : Table Nat
  dtemp : Table DTemp
  thLock : Bool
  hyst : Byte
  crit : Byte
  hot : Byte
  warm : Byte
  die : Table DieState
  parks : Table (List ParkOp)
  clkSys : Bool
  clkL0 : Bool
  clkL1 : Bool
  clkP0 : Bool
  clkP1 : Bool
  /-- Domains whose PLL has lost lock (R479). -/
  stopped : List ClockDomain
  deriving DecidableEq, Repr

def Power.reset : Power :=
  { lgLock := false, base := 0x910, limit := 0x1770, waiting := [], grants := [], dieLim := [], ctxLim := [],
    dtemp := [], thLock := false, hyst := 0x03, crit := 0x6E, hot := 0x64, warm := 0x5A, die := [], parks := [],
    clkSys := false, clkL0 := false, clkL1 := false, clkP0 := false, clkP1 := false, stopped := [] }

/-- A record of the aggregator (R528). -/
structure AggRec where
  w0 : W64
  w1 : W64
  w2 : W64
  w3 : W64
  deriving DecidableEq, Repr

def AggRec.zero : AggRec := ⟨0, 0, 0, 0⟩

/-- The self-test of one array half (R519, R520). -/
structure SelfTest where
  due : Bool
  suspended : Bool
  /-- TBTIME of the last passed test. -/
  lastPass : W64
  /-- A failed test found the queue empty: the next command completes with E_ARRAY_FAULT. -/
  failNext : Bool
  deriving DecidableEq, Repr

def SelfTest.reset : SelfTest := ⟨false, false, 0, false⟩

/-- When a source last wrote a 0x10 record, and how many corrected events it has had since (R527, R529). -/
structure CorrSrc where
  recorded : Bool
  time : W64
  since : Nat
  deriving DecidableEq, Repr

def CorrSrc.reset : CorrSrc := ⟨false, 0, 0⟩

/-- The error aggregator and the safety state (R523 to R530). -/
structure Agg where
  wrptr : W32
  ring : Table AggRec
  fatalRec : AggRec
  fatalSet : Bool
  lock : Bool
  irqSev : Nat
  vec : Nat
  sfLock : Bool
  stper : W16
  corr : W32
  cont : W16
  fatal : Byte
  safe : Bool
  cause : Nat
  oos : NatSet
  tst : NatSet
  sources : Table CorrSrc
  /-- FAULT_N is asserted (R527). -/
  faultN : Bool
  tests : Table SelfTest
  /-- TBTIME of a core's most recent lockstep or DATAPATH event (R521). -/
  coreEvt : Table (Option W64)
  deriving DecidableEq, Repr

def Agg.reset : Agg :=
  { wrptr := 0, ring := [], fatalRec := .zero, fatalSet := false, lock := false, irqSev := 2, vec := 0, sfLock := false,
    stper := 0x01F4, corr := 0, cont := 0, fatal := 0, safe := false, cause := 0, oos := [], tst := [], sources := [],
    faultN := false, tests := [], coreEvt := [] }

end Sys2Proof.Machine
end

