-- ==== Sys2Proof/Machine/StService.lean ====
section
/-! DEFINITION. The state of boot and security (chapter 18), the tally counters and check-value units (20), and the
management and debug ports (21). -/

namespace Sys2Proof.Machine

/-! ### Boot (R497 to R503) -/

/-- The mailbox registers of one port (R500). -/
structure Mailbox where
  addr : W64
  len : Nat
  ign : Bool
  deriving DecidableEq, Repr

def Mailbox.reset : Mailbox := ⟨0, 0, false⟩

/-- The boot sequence and the mailbox. -/
structure Boot where
  /-- PHASE, CODE, KEPT, KEYSET, OWNER, VERSION of MBSTS (R500). -/
  phase : Nat
  code : Byte
  kept : Bool
  keyset : Nat
  owner : Nat
  version : W32
  mb0 : Mailbox
  mb1 : Mailbox
  /-- MBADDR and MBLEN as sampled by the most recent PUSH. -/
  loadAddr : W64
  loadLen : Nat
  /-- Step 1 has been carried out and waits for its end. -/
  romDone : Bool
  deriving DecidableEq, Repr

def Boot.reset : Boot := ⟨0, 0, false, 0, 0, 0, .reset, .reset, 0, 0, false⟩

/-- 48 zero bytes, what a measurement holds before it is set (R508). -/
def noDigest : List Byte := List.replicate 48 0

/-- The SEC block (R504 to R514). Key material is empty while there is none. -/
structure Sec where
  idState : Nat
  /-- SECSTS.DEBUG, FAILS, TLEVEL. -/
  debug : Nat
  fails : Byte
  tlevel : Nat
  /-- SECTMP. -/
  tmp : BitVec 5
  /-- The pending debug challenge (R513). -/
  challenge : Option (List Byte)
  /-- The PUF reading of step 1, by the number of the free value it is; none: the island is down (R504). -/
  puf : Option Nat
  /-- Helper data of the identity in use. -/
  helper : List Byte
  /-- S, K_wrap, the device SLH-DSA secret and public key, the device RSA modulus and private key. -/
  seed : List Byte
  kwrap : List Byte
  slhSk : List Byte
  slhPk : List Byte
  rsaMod : List Byte
  rsaPriv : List Byte
  /-- M0, M1, M2 (R508). -/
  m0 : List Byte
  m1 : List Byte
  m2 : List Byte
  deriving DecidableEq, Repr

def Sec.reset : Sec :=
  { idState := 0, debug := 0, fails := 0, tlevel := 0, tmp := 0, challenge := none, puf := none, helper := [], seed := [],
    kwrap := [], slhSk := [], slhPk := [], rsaMod := [], rsaPriv := [], m0 := noDigest, m1 := noDigest, m2 := noDigest }

/-! ### Tally counters (R532 to R543) -/

/-- A bandwidth monitor (R536, R537). -/
structure Monitor where
  /-- BWCFGm with its reserved bits zero. -/
  cfg : W64
  wins : W16
  last : Nat
  peak : Nat
  /-- Bytes of the window that runs, and whether it is a whole one. -/
  cur : Nat
  whole : Bool
  deriving DecidableEq, Repr

def Monitor.reset : Monitor := ⟨0, 0, 0, 0, 0, false⟩

/-- A dump record whose body is being written: where it goes, and its bytes (R538, R539). -/
structure DumpRec where
  addr : Nat
  bytes : List Byte
  deriving DecidableEq, Repr

/-- The TLY. A holder is a context; none: firmware (R540). -/
structure Tly where
  sel : Table W64
  cnt : Table Nat
  sh : Table Nat
  ovf : W64
  groups : Table (Option Nat)
  bw : Option Nat
  dump : Option Nat
  dev : W32
  mons : Table Monitor
  /-- TLYDCFG, TLYDVA, TLYDST. -/
  dEn : Bool
  logn : Nat
  period : Nat
  dva : Nat
  seq : W32
  lost : W16
  code : Byte
  /-- The record being written. -/
  writing : Option DumpRec
  deriving DecidableEq, Repr

def Tly.reset : Tly :=
  { sel := [], cnt := [], sh := [], ovf := 0, groups := [], bw := none, dump := none, dev := 0, mons := [], dEn := false,
    logn := 4, period := 0x3E8, dva := 0, seq := 0, lost := 0, code := 0, writing := none }

/-! ### Check-value units (R544 to R549) -/

/-- A CVU channel. -/
structure CvChan where
  /-- CVCTL with only its stored fields: IEN, VEC, SSPACE, DSPACE, SEQINC, FOLD, MODE, WIDTH. -/
  ctl : W64
  src : W64
  dst : W64
  len : Nat
  tag : W64
  seq : W32
  res : W64
  status : Byte
  done : Bool
  /-- An operation runs, with the translations of its VA pages. -/
  run : Option (Table Nat)
  /-- The register of the check value that FEED adds to; none before any INIT. -/
  acc : Option W64
  deriving DecidableEq, Repr

def CvChan.reset : CvChan := ⟨0, 0, 0, 0, 0, 0, 0, 0, false, none, none⟩

/-! ### Management and debug ports (R562, R563) -/

/-- The JTAG instructions (R563). -/
inductive JtagInstr where
  | bypass | idcode | sample | extest | dbgacc
  deriving DecidableEq, Repr

/-- What the SMBus target answered last: bytes, or NACK (R562). -/
inductive SmbAnswer where
  | data (bs : List Byte)
  | nack
  deriving DecidableEq, Repr

/-- The management and debug ports: the model's own latches of what a port last answered. -/
structure Mgmt where
  smb : SmbAnswer
  /-- The JTAG instruction selected (log 34). -/
  instr : JtagInstr
  /-- What the selected data register captured. -/
  dr : W64
  /-- The boundary register: pins sampled, values preloaded, and whether the lands are driven from it. -/
  sampled : List Bool
  preload : List Bool
  driven : Bool
  /-- Bytes that the most recent DBGACC memory read gave; none: no answer. -/
  dbg : Option (List Byte)
  /-- Halted through the debug port: control core c under key c, Casori pair p under 96 + p (R513). -/
  halted : NatSet
  deriving DecidableEq, Repr

def Mgmt.reset : Mgmt := ⟨.data [], .idcode, 0, [], [], false, none, []⟩

end Sys2Proof.Machine
end

