-- ==== Sys2Proof/Machine/State.lean ====
section
/-! DEFINITION. The state of the block, its reset value, and the reasons a step can stop. -/

namespace Sys2Proof.Machine

/-- The whole state. -/
structure State where
  /-- The variant (R1), fixed per part (log 6). -/
  variant : Variant
  /-- The strap pins as latched (R560) (log 6). -/
  straps : Straps
  pkg : PkgState
  /-- Device memory: HBM, working stores and LPDDR, by device physical address (R23) (log 5). -/
  mem : Table Byte
  /-- Working-store words holding an uncorrectable value, by device physical address / 8 (R164, R573). -/
  wsBad : NatSet
  /-- Working-store words holding a single-bit error, same key (R168). -/
  wsSoft : NatSet
  /-- The memories of the hosts behind P0 and P1, by bus address (R444) (log 14). -/
  hmem0 : Table Byte
  hmem1 : Table Byte
  /-- The model's own counter of free values (log 10). -/
  free : Nat
  cores : Table Core
  hbms : Table Stack
  lpp : Lpp
  power : Power
  agg : Agg
  host : HostIf
  ingest : Ingest
  net : Net
  ce0 : Ce
  ce1 : Ce
  /-- The decodes that run, oldest first (R433). -/
  decodes : List Decode
  boot : Boot
  sec : Sec
  tly : Tly
  /-- The four CVU channels (R546). -/
  cvs : Table CvChan
  mgmt : Mgmt
  /-- TBTIME (R379). -/
  tbtime : W64
  /-- The commands waiting, first in first out. -/
  pending : List Instr
  deriving DecidableEq, Repr

def strapsLow : Straps := ⟨false, 0, 0, false⟩

/-- The block right after reset (R496, R497): every field at the value the spec gives, else at the one its log entry
names. -/
def State.reset : State :=
  { variant := .f, straps := strapsLow, pkg := .boot, mem := [], wsBad := [], wsSoft := [], hmem0 := [], hmem1 := [], free := 0,
    cores := [], hbms := [], lpp := .reset, power := .reset, agg := .reset, host := .reset, ingest := .reset, net := .reset, ce0 := .reset, ce1 := .reset,
    decodes := [], boot := .reset, sec := .reset, tly := .reset, cvs := [], mgmt := .reset, tbtime := 0, pending := [] }

/-- The reasons a run stops with a fault: none. Every error the spec names for this block is a status, a record or a
discarded access, and the block goes on. -/
inductive Fault where
  deriving DecidableEq, Repr

/-- The reasons a command has no meaning here. -/
inductive Refusal where
  /-- The command of this mnemonic has no meaning yet. Raised by `exec`; safe: the run stops. -/
  | notModelled (mnemonic : String)
  deriving DecidableEq, Repr

end Sys2Proof.Machine
end

