-- ==== Sys2Proof/Machine/Access.lean ====
section
/-! DEFINITION. Reading and replacing one unit of the state, and which units the running variant has (R1 to R8). -/

namespace Sys2Proof.Machine

/-- The answer of a step: the next state. -/
abbrev Res := Host.Outcome State Fault Refusal

/-! ### Units present (R1, R4, R16) -/

/-- CAP_UNITS (R4). -/
def capUnits : Variant → W64
  | .f => 0x00000060FFFF4003
  | .n => 0x00000060FFFD4003
  | .s => 0x000000483F7D4003

/-- CAP_ARRAY (R96), DEVICE_ID (R29), STEPPING (R30). -/
def capArray : W64 := 0x00020200808007FF
def deviceId : W64 := 0x0000000000E58160
def stepping : W64 := 0x0000000000000100

/-- The number of cores (R1). -/
def Variant.cores : Variant → Nat
  | .s => 72
  | _ => 96

/-- The number of compute dies, and of stacks (R1). -/
def Variant.dies : Variant → Nat
  | .s => 3
  | _ => 4

def Variant.hbms : Variant → Nat
  | .s => 6
  | _ => 8

/-- The ingest engine is present (R1). -/
def Variant.ingest : Variant → Bool
  | .f => true
  | _ => false

def State.hasCore (s : State) (c : Nat) : Bool := decide (c < s.variant.cores)
def State.hasStack (s : State) (k : Nat) : Bool := decide (k < s.variant.hbms)
def State.hasDie (s : State) (d : Nat) : Bool := decide (d < s.variant.dies)

/-- The die of a core (R21). -/
def dieOf (c : Nat) : Nat := c / 24

/-- The power state of a compute die (R480). -/
def State.dieState (s : State) (d : Nat) : DieState := look .run d s.power.die

/-- The core is present and its die is in RUN, so that its units work (R481). -/
def State.coreOn (s : State) (c : Nat) : Bool := s.hasCore c && decide (s.dieState (dieOf c) = .run)

/-! ### Units of the state -/

def State.core (s : State) (c : Nat) : Core := look .reset c s.cores
def State.setCore (s : State) (c : Nat) (k : Core) : State := { s with cores := put .reset c k s.cores }
def State.modCore (s : State) (c : Nat) (f : Core → Core) : State := s.setCore c (f (s.core c))

def State.stack (s : State) (k : Nat) : Stack := look .reset k s.hbms
def State.setStack (s : State) (k : Nat) (x : Stack) : State := { s with hbms := put .reset k x s.hbms }
def State.modStack (s : State) (k : Nat) (f : Stack → Stack) : State := s.setStack k (f (s.stack k))

def Stack.pc (x : Stack) (k : Nat) : Pc := look .reset k x.pcs
def Stack.setPc (x : Stack) (k : Nat) (p : Pc) : Stack := { x with pcs := put .reset k p x.pcs }
def Stack.rsvOf (x : Stack) (n : Nat) : Rsv := look .reset n x.rsv

/-- Share units reserved on a stack by all contexts (HSTS.RSV, R346). -/
def Stack.reserved (x : Stack) : Nat := (x.rsv.map fun p => p.2.held).sum

def Core.mxa (k : Core) (a : Nat) : Mxa := if a = 0 then k.mxa0 else k.mxa1
def Core.setMxa (k : Core) (a : Nat) (x : Mxa) : Core := if a = 0 then { k with mxa0 := x } else { k with mxa1 := x }
def Core.ve (k : Core) (e : Nat) : Ve := if e = 0 then k.ve0 else k.ve1
def Core.setVe (k : Core) (e : Nat) (x : Ve) : Core := if e = 0 then { k with ve0 := x } else { k with ve1 := x }

/-- Stream t of a core: 0 F, 1 B, 2 U (R219). -/
def Core.stream (k : Core) (t : Nat) : Stream := if t = 0 then k.f else if t = 1 then k.b else k.u
def Core.setStream (k : Core) (t : Nat) (x : Stream) : Core :=
  if t = 0 then { k with f := x } else if t = 1 then { k with b := x } else { k with u := x }
def Core.modStream (k : Core) (t : Nat) (g : Stream → Stream) : Core := k.setStream t (g (k.stream t))

/-- Half h of an array: 0 west or the whole array, 1 east. -/
def Mxa.half (x : Mxa) (h : Nat) : Half := if h = 0 then x.west else x.east
def Mxa.setHalf (x : Mxa) (h : Nat) (y : Half) : Mxa := if h = 0 then { x with west := y } else { x with east := y }
def Mxa.modHalf (x : Mxa) (h : Nat) (g : Half → Half) : Mxa := x.setHalf h (g (x.half h))

def Half.set (x : Half) (i : Nat) : SetInfo := if i = 0 then x.set0 else x.set1
def Half.putSet (x : Half) (i : Nat) (y : SetInfo) : Half := if i = 0 then { x with set0 := y } else { x with set1 := y }

/-- A scalar register: s0 reads zero (R219). -/
def Stream.reg (x : Stream) (r : Nat) : W64 := if r = 0 then 0 else look 0 r x.s
/-- A scalar register written: a write to s0 is discarded (R219). -/
def Stream.setReg (x : Stream) (r : Nat) (v : W64) : Stream := if r = 0 then x else { x with s := put 0 r v x.s }

def State.ctx (s : State) (n : Nat) : Ctx := look .reset n s.host.ctxs
def State.setCtx (s : State) (n : Nat) (x : Ctx) : State :=
  { s with host := { s.host with ctxs := put .reset n x s.host.ctxs } }
def State.modCtx (s : State) (n : Nat) (f : Ctx → Ctx) : State := s.setCtx n (f (s.ctx n))

def State.sq (s : State) (n : Nat) : Sq := look .free n s.host.sqs
def State.setSq (s : State) (n : Nat) (x : Sq) : State := { s with host := { s.host with sqs := put .free n x s.host.sqs } }
def State.cq (s : State) (n : Nat) : Cq := look .free n s.host.cqs
def State.setCq (s : State) (n : Nat) (x : Cq) : State := { s with host := { s.host with cqs := put .free n x s.host.cqs } }
def State.pkt (s : State) (n : Nat) : Option Pkt := look none n s.host.pkts
def State.setPkt (s : State) (n : Nat) (x : Option Pkt) : State :=
  { s with host := { s.host with pkts := put none n x s.host.pkts } }

def State.port (s : State) (n : Nat) : Port := if n = 0 then s.host.p0 else s.host.p1
def State.setPort (s : State) (n : Nat) (x : Port) : State :=
  if n = 0 then { s with host := { s.host with p0 := x } } else { s with host := { s.host with p1 := x } }

def State.link (s : State) (l : Nat) : Link := look .reset l s.net.links
def State.setLink (s : State) (l : Nat) (x : Link) : State := { s with net := { s.net with links := put .reset l x s.net.links } }
def State.modLink (s : State) (l : Nat) (f : Link → Link) : State := s.setLink l (f (s.link l))

def State.ce (s : State) (e : Nat) : Ce := if e = 0 then s.ce0 else s.ce1
def State.setCe (s : State) (e : Nat) (x : Ce) : State := if e = 0 then { s with ce0 := x } else { s with ce1 := x }
def State.modCe (s : State) (e : Nat) (f : Ce → Ce) : State := s.setCe e (f (s.ce e))

/-- The I/O die, and so the collective engine, of a link (R17). -/
def ceOf (l : Nat) : Nat := l / 32

/-! ### Tally counters: counting (R532 to R537) -/

/-- TLYSELk. -/
def Tly.selOf (t : Tly) (k : Nat) : W64 := look 0 k t.sel
/-- TLYCNTk. -/
def Tly.cntOf (t : Tly) (k : Nat) : Nat := look 0 k t.cnt

/-- The counter takes the carries of the one below it. -/
def chained (w : W64) : Bool := w.getLsbD 63 && w.getLsbD 62

/-- Adds n to counter k; a carry goes to counter k + 1 if that one is chained, else it sets the OVF bit. `fuel` bounds the
chain. -/
def Tly.add : Nat → Tly → Nat → Nat → Tly
  | 0, t, _, _ => t
  | fuel + 1, t, k, n =>
    let v := t.cntOf k + n
    let c := v / 2 ^ 48
    let t := { t with cnt := put 0 k (v % 2 ^ 48) t.cnt }
    if c = 0 then t
    else if k + 1 < 64 ∧ chained (t.selOf (k + 1)) then Tly.add fuel t (k + 1) c
    else { t with ovf := t.ovf ||| BitVec.ofNat 64 (2 ^ k) }

/-- Events whose SUB says which unit is meant (R533). -/
def subMatters (cls ev : Nat) : Bool := (cls == 0 && (ev == 4 || ev == 5 || ev == 6)) || cls == 6

/-- A selection counts an event of a source. -/
def selects (w : W64) (cls ev idx sub : Nat) : Bool :=
  let v := w.toNat
  bitOf v 63 && !bitOf v 62 && fld v 59 56 == cls && fld v 47 36 == idx && fld v 7 0 == ev &&
  (!subMatters cls ev || fld v 35 32 == sub)

/-- An event that carries quantity n is added to every counter that selects it. -/
def Tly.count (t : Tly) (cls ev idx sub n : Nat) : Tly :=
  t.sel.foldl (fun t p => if selects p.2 cls ev idx sub then Tly.add 64 t p.1 n else t) t

/-- An event is counted (R533, R534). -/
def State.tally (s : State) (cls ev idx sub n : Nat) : State := { s with tly := s.tly.count cls ev idx sub n }

/-- Bytes that a link carries are added to the monitors of that link and direction (R537). -/
def State.bwLink (s : State) (l dir n : Nat) : State :=
  let f (m : Monitor) : Monitor :=
    let v := m.cfg.toNat
    if bitOf v 63 ∧ fld v 62 60 = 1 ∧ fld v 59 59 = dir ∧ fld v 53 48 = l then { m with cur := m.cur + n } else m
  { s with tly := { s.tly with mons := remap .reset f s.tly.mons } }

/-- A fresh number for a free value, and the counter advanced (log 10). -/
def State.tick (s : State) : State := { s with free := s.free + 1 }

/-- One tick of the timebase with nothing commanded (R379, log 3). TBTIME stands still while it is held, and SYNC is set once it has caught up with its source; a slew changes
the rate by at most 100 ppm, one step in 10,000 ticks or later, when a free choice takes it (R372, log 10). -/
def State.tbTick (s : State) : State :=
  let n := s.net
  if 0 < n.tbStop then { s with net := { n with tbStop := n.tbStop - 1, tbSync := decide (n.tbStop = 1) && !n.tbHold } }
  else if n.tbSlew = 0 then { s with tbtime := s.tbtime + 1 }
  else if 9999 ≤ n.tbSlewed ∧ Config.freeNat s.free % 2 = 1 then
    { s with tbtime := if 0 < n.tbSlew then s.tbtime + 2 else s.tbtime, free := s.free + 1,
             net := { n with tbSlew := if 0 < n.tbSlew then n.tbSlew - 1 else n.tbSlew + 1, tbSlewed := 0 } }
  else { s with tbtime := s.tbtime + 1, free := s.free + 1, net := { n with tbSlewed := n.tbSlewed + 1 } }

/-- The part has power: nothing runs in OFF, and nothing is kept there (R480). -/
def State.powered (s : State) : Bool := decide (s.pkg ≠ .off)

/-- The clock domain runs as far as its PLL goes (R479). -/
def State.clocked (s : State) (d : ClockDomain) : Bool := !s.power.stopped.contains d

/-- A tick, with the microseconds of TBTIME that it ends counted (R533). Nothing has a clock in OFF (R480), and the
timebase stops with its domain (R479). -/
def State.idleTick (s : State) : State :=
  let t := if s.powered && s.clocked .timebase then s.tbTick else s
  if t.tbtime.toNat / 1000 = s.tbtime.toNat / 1000 then t else t.tally 11 0x48 0 0 1

/-! ### The error aggregator (R527, R528) -/

/-- A saturating increment of a word of w bits. -/
def satInc (w : Nat) (v : BitVec w) : BitVec w := if v = BitVec.allOnes w then v else v + 1

/-- Raises a function's MSI-X vector (R441, log 17). -/
def raiseMsix (s : State) (ctx vec : Nat) : State := { s with host := { s.host with msix := (ctx, vec) :: s.host.msix } }

/-- The source classes of R528. -/
inductive SrcClass where
  | core | hbm | lpp | link | ce | ingest | pcie | power | sec | casori | fabric | tb
  deriving DecidableEq, Repr

def SrcClass.code : SrcClass → Nat
  | .core => 0 | .hbm => 1 | .lpp => 2 | .link => 3 | .ce => 4 | .ingest => 5 | .pcie => 6 | .power => 7 | .sec => 8
  | .casori => 9 | .fabric => 10 | .tb => 11

/-- An event as the rules name it. -/
structure Event where
  code : Nat
  sev : Nat
  cls : SrcClass
  index : Nat
  sub : Nat
  status : Byte
  info1 : Nat
  info2 : Nat
  deriving DecidableEq, Repr

/-- The record an event makes (R528). -/
def Event.record (e : Event) (time : W64) (seq : W32) : AggRec :=
  { w0 := time
    w1 := BitVec.ofNat 64 (e.code * 2 ^ 56 + e.sev * 2 ^ 54 + e.cls.code * 2 ^ 48 + e.index % 4096 * 2 ^ 36 +
      e.sub % 16 * 2 ^ 32 + e.status.toNat * 2 ^ 24)
    w2 := BitVec.ofNat 64 e.info1
    w3 := BitVec.ofNat 64 (seq.toNat * 2 ^ 32 + e.info2 % 2 ^ 32) }

/-- Raises the aggregator's vector at the PF of each port whose link is up (R527). -/
def aggInterrupt (s : State) (sev : Nat) : State :=
  if sev ≥ s.agg.irqSev then
    let s := if s.host.p0.up && s.clocked (.pcie 0) then raiseMsix s 0 s.agg.vec else s
    if s.host.p1.up && s.clocked (.pcie 1) then raiseMsix s 16 s.agg.vec else s
  else s

/-- Writes an event's record into the ring, with its counters, interrupt, FAULT_N and FATALREC (R527, R530). -/
def record (s : State) (e : Event) : State :=
  let a := s.agg
  let r := e.record s.tbtime a.wrptr
  let a := { a with
    ring := put .zero (a.wrptr.toNat % 1024) r a.ring
    wrptr := a.wrptr + 1
    cont := if e.sev = 2 then satInc 16 a.cont else a.cont
    fatal := if e.sev = 3 then satInc 8 a.fatal else a.fatal
    faultN := a.faultN || decide (e.sev = 3)
    fatalRec := if e.sev = 3 ∧ !a.fatalSet then r else a.fatalRec
    fatalSet := a.fatalSet || decide (e.sev = 3) }
  aggInterrupt { s with agg := a } e.sev

/-- A configuration write is discarded and recorded (R337, R349, R371, R461, R494, R529). -/
def discardWrite (s : State) (cls : SrcClass) (index off : Nat) : State := record s ⟨0x03, 0, cls, index, 0, 0, off, 0⟩

/-- An access event (R529, code 0x01). `kind`: 0 format, 1 unmapped, 2 refused; `width` in bytes. -/
def accessEvent (s : State) (cls : SrcClass) (index sub off kind : Nat) (write : Bool) (width : Nat) : State :=
  record s ⟨0x01, 0, cls, index, sub, 0, off, kind + 4 * b2n write + 16 * (width % 16)⟩

/-- A corrected error: counted always, recorded at most once per ms and source (R527, code 0x10). -/
def recordCorrected (s : State) (cls : SrcClass) (index sub addr : Nat) : State :=
  let key := cls.code * 4096 + index
  let src := look .reset key s.agg.sources
  let s := { s with agg := { s.agg with corr := satInc 32 s.agg.corr } }
  let s := if cls = .hbm then s.tally 1 0x13 index 0 1 else s
  if src.recorded && decide ((s.tbtime - src.time).toNat < 1000000) then
    { s with agg := { s.agg with sources := put .reset key { src with since := src.since + 1 } s.agg.sources } }
  else
    let s := { s with agg := { s.agg with sources := put .reset key ⟨true, s.tbtime, 0⟩ s.agg.sources } }
    record s ⟨0x10, 1, cls, index, sub, 0, addr, src.since + 1⟩

end Sys2Proof.Machine
end

