-- ==== Sys2Proof/Machine/HbmOps.lean ====
section
/-! DEFINITION. The HBM controller's shared operations: the pseudo-channel hash, what a sector read or write meets,
failed pseudo-channels and repair (R322 to R344). -/

namespace Sys2Proof.Machine

/-- The pseudo-channel of a stack offset (R322). -/
def pcOf (a : Nat) : Nat := (fld a 13 8 ^^^ fld a 19 14) ^^^ fld a 25 20

/-- The local granule of a stack offset (R322). -/
def granuleOf (a : Nat) : Nat := fld a 36 14

/-- Populated local granules of a pseudo-channel under a spare band, and all of them (R322, R340). -/
def spareFirst : Nat := 5079040
def granules : Nat := 5242880

/-- Where a granule of a repaired pseudo-channel f lives: target pseudo-channel and granule (R342). -/
def repairTarget (f g : Nat) : Nat × Nat :=
  let r := g % 63
  (if r < f then r else r + 1, spareFirst + g / 63)

/-- The stack offset of byte b of granule g of pseudo-channel p: the inverse of the hash (R322). -/
def offsetOf (p g b : Nat) : Nat :=
  let hi := (p ^^^ fld g 5 0) ^^^ fld g 11 6
  g * 16384 + hi * 256 + b

/-- The pseudo-channel that holds a stack offset: its own, or its target once it is remapped (R342, R343). -/
def Stack.home (x : Stack) (off : Nat) : Nat :=
  let p := pcOf off
  if x.repPc = some p ∧ ((x.pc p).state = .repaired ∨ granuleOf off < x.copied) then (repairTarget p (granuleOf off)).1 else p

/-- Bytes of a stack that are populated (R23, R24). -/
def Stack.size (x : Stack) : Nat := if x.spare then 0x1360000000 else 0x1400000000

/-- Device physical address of a stack offset (R23). -/
def hbmPa (k off : Nat) : Nat := k * 0x2000000000 + off

/-- What a closed stack answers to a new request (R335, R341). -/
def Stack.gate (x : Stack) : Option Byte :=
  match x.state with
  | .closedThermal => some Code.thermal
  | .closedFault => some Code.eccUncorr
  | _ => if x.closing then some Code.thermal else none

/-- The sector is poisoned: marked, or of a pseudo-channel repaired without copy and not yet written whole (R343). -/
def Stack.isPoisoned (x : Stack) (sec : Nat) : Bool :=
  x.poison.has sec || (x.noCopy && decide (x.repPc = some (pcOf (sec * 32))) && !x.refilled.has sec)

/-- The sector's data is in a pseudo-channel whose data is unreadable (R339). -/
def Stack.isLost (x : Stack) (sec : Nat) : Bool :=
  let p := x.pc (pcOf (sec * 32))
  p.lost && decide (p.state = .failed)

/-- The mark of a sector written whole: data and check bits replaced, POISON cleared (R330). -/
def Stack.clearSector (x : Stack) (sec : Nat) : Stack :=
  { x with
    poison := x.poison.del sec
    uncorr := x.uncorr.del sec
    soft := x.soft.del sec
    refilled := if x.noCopy && decide (x.repPc = some (pcOf (sec * 32))) then x.refilled.add sec else x.refilled }

/-- A pseudo-channel's share of sectors that a repair without copy poisons (R343). -/
def repairSectors : Nat := spareFirst * 8

/-- The pseudo-channel group of R528's SUB. -/
def pcGroup (p : Nat) : Nat := p / 4

/-- The stack closes by fault: waiting requests complete with E_ECC_UNCORR (R341). -/
def closeFault (s : State) (k p : Nat) : State :=
  let s := s.modStack k fun x =>
    { x with state := .closedFault, closing := false, training := none,
             rsp := if (x.pcs.any fun q => !q.2.queue.isEmpty) || !x.waiting.isEmpty || !x.fabric.isEmpty then ⟨Code.eccUncorr, []⟩ else x.rsp
             waiting := [], fabric := []
             pcs := (List.range 64).foldl (fun t j => let q := look .reset j t; put .reset j { q with queue := [], due := false } t)
               x.pcs }
  record s ⟨0x15, 2, .hbm, k, pcGroup p, Code.eccUncorr, p, 0⟩

/-- Repair of pseudo-channel p starts, with copy or without (R342, R343). -/
def startRepair (s : State) (k p : Nat) (copy : Bool) : State :=
  if copy then
    s.modStack k fun x =>
      { x.setPc p { x.pc p with state := .copying } with repPc := some p, repairing := true, copied := 0, poisoned := 0 }
  else
    let s := s.modStack k fun x =>
      { x.setPc p { x.pc p with state := .repaired, lost := false } with
        repPc := some p, repairing := false, noCopy := true, refilled := [], copied := 0,
        poisoned := BitVec.ofNat 32 repairSectors,
        poison := x.poison.filter fun q => decide (pcOf (q.1 * 32) ≠ p)
        uncorr := x.uncorr.filter fun q => decide (pcOf (q.1 * 32) ≠ p)
        soft := x.soft.filter fun q => decide (pcOf (q.1 * 32) ≠ p) }
    record s ⟨0x14, 1, .hbm, k, pcGroup p, 0, p, repairSectors⟩

/-- A pseudo-channel becomes FAILED, and what follows under the spare band (R339, R341, R342). -/
def pcFailed (s : State) (k p : Nat) (readable : Bool) : State :=
  let s := s.modStack k fun x => x.setPc p { x.pc p with state := .failed, lost := !readable, due := false }
  let s := record s ⟨0x13, 2, .hbm, k, pcGroup p, Code.eccUncorr, p, b2n readable⟩
  let x := s.stack k
  if !x.spare || x.repPc.isSome then closeFault s k p
  else if x.repairAuto then startRepair s k p readable
  else s

/-- An uncorrectable error at a sector: UCNT, HEADDR, the event, and the pseudo-channel's count of 4 within 1 s
(R329, R339). `src` is HEADDR.SRC (R348). -/
def noteUncorr (s : State) (k sec src : Nat) : State :=
  let off := sec * 32
  let p := (s.stack k).home off
  let now := s.tbtime.toNat
  let recent := now :: ((s.stack k).pc p).uncorr.filter fun t => decide (now - t < 1000000000)
  let s := s.modStack k fun x =>
    { x.setPc p { x.pc p with uncorr := recent } with
      ucnt := satInc 16 x.ucnt
      headdr := BitVec.ofNat 64 (src * 2 ^ 60 + p * 2 ^ 48 + off) }
  let s := record s ⟨0x11, 2, .hbm, k, pcGroup p, Code.eccUncorr, hbmPa k off, 0⟩
  let st := ((s.stack k).pc p).state
  if recent.length ≥ 4 ∧ (st = .active ∨ st = .retrain) then
    pcFailed (s.modStack k fun x => x.setPc p { x.pc p with uncorr := [] }) k p true
  else s

/-- A corrected error at a sector: CCNT, the pseudo-channel's count of 16 within 1 ms, and the event (R329, R338). -/
def noteCorrected (s : State) (k sec : Nat) : State :=
  let off := sec * 32
  let x := s.stack k
  let p := x.home off
  let now := s.tbtime.toNat
  let recent := now :: (x.pc p).corr.filter fun t => decide (now - t < 1000000)
  let s := s.modStack k fun x => { x.setPc p { x.pc p with corr := recent } with ccnt := satInc 32 x.ccnt }
  recordCorrected s .hbm k (pcGroup (pcOf off)) (hbmPa k off)

/-- A fault strikes a sector (log 15): the mark that its next read meets; a correction by on-die ECC is counted at once
(R328, R329). -/
def strikeSector (s : State) (k sec : Nat) : SectorStrike → State
  | .clean => s
  | .onDie => noteCorrected s k sec
  | .single => s.modStack k fun x => { x with soft := x.soft.add sec }
  | .uncorrectable => s.modStack k fun x => { x with uncorr := x.uncorr.add sec }

/-- What a read of a sector meets, and what it records (R329): no error, or E_ECC_UNCORR. -/
def readSector (s : State) (k sec src : Nat) : State × Option Byte :=
  let x := s.stack k
  let off := sec * 32
  if x.isPoisoned sec then
    (record s ⟨0x12, 2, .hbm, k, pcGroup (pcOf off), Code.eccUncorr, hbmPa k off, 0⟩, some Code.eccUncorr)
  else if x.isLost sec || x.uncorr.has sec then (noteUncorr s k sec src, some Code.eccUncorr)
  else if x.soft.has sec then (noteCorrected s k sec, none)
  else (s, none)

/-- What a write meets at a sector (R330): `whole` when it covers all 32 bytes. The answer says whether the bytes are
written. -/
def writeSector (s : State) (k sec : Nat) (whole : Bool) : State × Bool :=
  if whole then (s.modStack k fun x => x.clearSector sec, true)
  else
    let x := s.stack k
    match readSector s k sec 2 with
    | (s, some _) =>
      (if (x.isLost sec || x.uncorr.has sec) && !x.isPoisoned sec then
        s.modStack k fun y => { y with poison := y.poison.add sec, uncorr := y.uncorr.del sec }
       else s, false)
    | (s, none) => (s.modStack k fun y => { y with soft := y.soft.del sec }, true)

end Sys2Proof.Machine
end

