-- ==== Sys2Proof/Machine/Ops.lean ====
section
/-! DEFINITION. The named operations over memory: the address map (R23), checked reads and writes (R164, R168, R330,
R573), translation and protection (R202 to R206), and free bytes. -/

namespace Sys2Proof.Machine

/-! ### The device address map (R23 to R26) -/

/-- What a device physical address names. -/
inductive Region where
  | hbm (k off : Nat)
  | ws (c off : Nat)
  | lpp (off : Nat)
  | csr (off : Nat)
  | none
  deriving DecidableEq, Repr

/-- The address map of R23. -/
def region (pa : Nat) : Region :=
  if pa < 0x10000000000 then .hbm (pa / 0x2000000000) (pa % 0x2000000000)
  else if pa < 0x10060000000 then .ws ((pa - 0x10000000000) / 0x1000000) (pa % 0x1000000)
  else if pa < 0x18000000000 then .none
  else if pa < 0x1F000000000 then .lpp (pa - 0x18000000000)
  else if pa < 0x1F100000000 then .csr (pa - 0x1F000000000)
  else .none

/-- The working store's size (R163). -/
abbrev wsSize : Nat := 0x800000

/-- Device physical address of a working-store offset (R21). -/
def wsPa (c off : Nat) : Nat := 0x10000000000 + c * 0x1000000 + off

/-- Populated LPDDR bytes (R352). -/
def Lpp.bytes (l : Lpp) : Nat := if l.ready then min l.size.toNat 16 * 0x40000000 else 0

/-- The byte holds memory that a transfer can reach in the running variant (R8, R24, R25, R352, R481). -/
def populated (s : State) (pa : Nat) : Bool :=
  match region pa with
  | .hbm k off => s.hasStack k && decide (off < (s.stack k).size)
  | .ws c off => s.coreOn c && decide (off < wsSize)
  | .lpp off => decide (off < s.lpp.bytes)
  | _ => false

/-- The stack that holds decoded-picture memory of cluster k, from IDPBk.STACK (R297, R299). -/
def dpStack (k st : Nat) : Nat := ([[0, 1, 4, 5], [2, 3, 6, 7]].getD k []).getD st 0

/-- The protected regions, as first byte and length: decoded-picture memory (R297) and the stream table (R310) once
firmware has locked them (log 76), and the firmware region (R501). -/
def protectedRanges (s : State) : List (Nat × Nat) :=
  let dp (k : Nat) (d : Idpb) : List (Nat × Nat) :=
    if d.lock then [(hbmPa (dpStack k d.stack) (d.base.toNat * 0x10000), d.size.toNat * 0x100000 * 32)] else []
  dp 0 s.ingest.dp0 ++ dp 1 s.ingest.dp1 ++
  (if s.ingest.sttLock then [(hbmPa s.ingest.sttStack (s.ingest.sttBase.toNat * 0x10000), 0x1000000)] else []) ++
  [(0x18000000000, 0x4000000)]

/-- Some of the n bytes from an address on lies in a protected region. -/
def meetsProtected (s : State) (pa n : Nat) : Bool :=
  (protectedRanges s).any fun r => decide (r.1 < pa + n) && decide (pa < r.1 + r.2)

/-- A byte of a protected region. -/
def isProtected (s : State) (pa : Nat) : Bool := meetsProtected s pa 1

/-! ### Memory -/

/-- One byte of device memory. -/
def State.byte (s : State) (pa : Nat) : Byte := look 0 pa s.mem

/-- n bytes of device memory from an address on. -/
def State.bytes (s : State) (pa n : Nat) : List Byte := lookRange 0 pa n s.mem

/-- Writes bytes with no check. -/
def State.poke (s : State) (pa : Nat) (bs : List Byte) : State := { s with mem := putRange 0 pa bs s.mem }

/-- The check unit an address belongs to: its first address and its length. A working-store word has 8 bytes (R164),
an HBM sector 32 (R328); LPDDR keeps no check bits (R351). -/
def unitOf (pa : Nat) : Nat × Nat :=
  match region pa with
  | .ws _ _ => (pa / 8 * 8, 8)
  | .hbm _ _ => (pa / 32 * 32, 32)
  | _ => (pa, 1)

/-- The distinct check units of a list of addresses, in order of first appearance. -/
def unitsOf (pas : List Nat) : List (Nat × Nat) := (pas.map unitOf).eraseDups

/-- An uncorrectable working-store word is recorded (R168). -/
def noteWsBad (s : State) (pa : Nat) : State :=
  match region pa with
  | .ws c _ => record s ⟨0x11, 2, .core, c, 0, Code.eccUncorr, pa, 0⟩
  | _ => s

/-- A read of one working-store word (key: device physical address / 8): an uncorrectable one is recorded and not
delivered, a single-bit error is recorded and corrected; the stored word is not rewritten (R168). -/
def readWord (s : State) (c i : Nat) : State × Option Byte :=
  if s.wsBad.has i then (noteWsBad s (i * 8), some Code.eccUncorr)
  else if s.wsSoft.has i then (recordCorrected s .core c 0 (i * 8), none)
  else (s, none)

/-- Reads working-store words in order, up to the first that cannot be read. -/
def readWords (s : State) (c : Nat) : List Nat → State × Option Byte
  | [] => (s, none)
  | i :: is =>
    match readWord s c i with
    | (s, some e) => (s, some e)
    | (s, none) => readWords s c is

/-- The words of a range of a core's working store. -/
def wsWords (c off n : Nat) : List Nat := if n = 0 then [] else upFrom (wsPa c off / 8) ((off + n + 7) / 8 - off / 8)

/-- A checked read of a range of a core's own working store. -/
def wsCheck (s : State) (c off n : Nat) : State × Option Byte := readWords s c (wsWords c off n)

/-- A request reaches the LPDDR port: the channel leaves self-refresh (R351). -/
def touchLpp (s : State) : State := { s with lpp := { s.lpp with sref := false, lastReq := s.tbtime } }

/-- An access to LPDDR that link ECC cannot correct after its retry is counted and recorded (R351). -/
def lppFail (s : State) (pa : Nat) : State :=
  let s := touchLpp s
  record { s with lpp := { s.lpp with lue := satInc 16 s.lpp.lue } } ⟨0x11, 2, .lpp, 0, 0, Code.eccUncorr, pa, 0⟩

/-- What a read of one check unit meets (R168, R329, R335, R341); a core that is powered down or stopped gives E_XLATE
(R481). -/
def readUnit (s : State) (u : Nat × Nat) : State × Option Byte :=
  match region u.1 with
  | .ws c _ => if s.coreOn c then readWord s c (u.1 / 8) else (s, some Code.xlate)
  | .hbm k off =>
    match (s.stack k).gate with
    | some e => (s, some e)
    | none => readSector s k (off / 32) 1
  | .lpp _ => if s.lpp.bad.has u.1 then (lppFail s u.1, some Code.eccUncorr) else (touchLpp s, none)
  | _ => (s, none)

/-- Reads check units in order, up to the first that cannot be read. -/
def readUnits (s : State) : List (Nat × Nat) → State × Option Byte
  | [] => (s, none)
  | u :: us =>
    match readUnit s u with
    | (s, some e) => (s, some e)
    | (s, none) => readUnits s us

/-- A checked read of addresses: the first error met, if any. -/
def readCheck (s : State) (pas : List Nat) : State × Option Byte := readUnits s (unitsOf pas)

/-- No unit of these addresses would answer an error to a read. -/
def readable (s : State) (pas : List Nat) : Bool := (readCheck s pas).2.isNone

/-- The bytes of a list of writes that fall in a unit. -/
def bytesIn (u : Nat × Nat) (l : List (Nat × Byte)) : List (Nat × Byte) :=
  l.filter fun p => decide (u.1 ≤ p.1) && decide (p.1 < u.1 + u.2)

/-- The writes cover every byte of the unit. -/
def covers (u : Nat × Nat) (l : List (Nat × Byte)) : Bool := (upFrom u.1 u.2).all fun a => l.any fun p => decide (p.1 = a)

/-- Writes what a request writes in one check unit (R164, R330, R573). A part of a working-store word is merged with the
word as read, whose single-bit error is recorded and corrected (R168). -/
def writeUnit (s : State) (u : Nat × Nat) (l : List (Nat × Byte)) : State × Option Byte :=
  let m := bytesIn u l
  let whole := covers u m
  let put (s : State) : State := { s with mem := putAll 0 m s.mem }
  match region u.1 with
  | .ws c _ =>
    if !s.coreOn c then (s, some Code.xlate)
    else if s.wsBad.has (u.1 / 8) then
      if whole then (put { s with wsBad := s.wsBad.del (u.1 / 8) }, none)
      else (noteWsBad s u.1, some Code.eccUncorr)
    else
      let s := if !whole && s.wsSoft.has (u.1 / 8) then recordCorrected s .core c 0 u.1 else s
      (put { s with wsSoft := s.wsSoft.del (u.1 / 8) }, none)
  | .hbm k off =>
    match (s.stack k).gate with
    | some e => (s, some e)
    | none =>
      match writeSector s k (off / 32) whole with
      | (s, true) => (put s, none)
      | (s, false) => (s, some Code.eccUncorr)
  | .lpp _ => if s.lpp.bad.has u.1 then (lppFail s u.1, some Code.eccUncorr) else (put (touchLpp s), none)
  | _ => (put s, none)

/-- Writes a request's check units in order; the units it can write are written, and the first error is answered
(R330, R573). -/
def writeUnits (s : State) (l : List (Nat × Byte)) : List (Nat × Nat) → State × Option Byte
  | [] => (s, none)
  | u :: us =>
    let r := writeUnit s u l
    let q := writeUnits r.1 l us
    (q.1, r.2.orElse fun _ => q.2)

/-- A checked write of bytes, later entries of the list winning. -/
def writeCheck (s : State) (l : List (Nat × Byte)) : State × Option Byte := writeUnits s l (unitsOf (l.map (·.1)))

/-- The requests that a list of writes makes: the aligned 256-byte blocks it writes, in order of first appearance
(R174). -/
def blocksOf (l : List (Nat × Byte)) : List Nat := (l.map fun p => p.1 / 256).eraseDups

/-- Writes requests in order, up to the first that meets an error: its other units and every earlier request are
written, and no later one (R330, R573). -/
def writeBlocks (s : State) (l : List (Nat × Byte)) : List Nat → State × Option Byte
  | [] => (s, none)
  | b :: bs =>
    match writeCheck s (l.filter fun p => decide (p.1 / 256 = b)) with
    | (s, some e) => (s, some e)
    | (s, none) => writeBlocks s l bs

/-- What an operation of many requests writes: it stops at the first request that meets an error, and bytes already
written stay (R170, R330, R573). -/
def writeStop (s : State) (l : List (Nat × Byte)) : State × Option Byte := writeBlocks s l (blocksOf l)

/-- The writes of a list that fall in the first n of the 32-byte sectors it writes: an operation that is stopped leaves
no sector half written (R31, R32). -/
def firstSectors (n : Nat) (l : List (Nat × Byte)) : List (Nat × Byte) :=
  let keep := ((l.map fun p => p.1 / 32).eraseDups).take n
  l.filter fun p => keep.contains (p.1 / 32)

/-- The writes of a list that fill sectors of which the first n writes are the last: a sector that the cut goes through is
left out (R31). -/
def wholeBefore (n : Nat) (l : List (Nat × Byte)) : List (Nat × Byte) :=
  match l.drop n with
  | [] => l
  | q :: _ => (l.take n).filter fun p => decide (p.1 / 32 ≠ q.1 / 32)

/-- The number of sectors a list of writes touches. -/
def sectorCount (l : List (Nat × Byte)) : Nat := (l.map fun p => p.1 / 32).eraseDups.length

/-- Consecutive bytes as (address, byte) pairs. -/
def pairs (pa : Nat) (bs : List Byte) : List (Nat × Byte) := (List.range bs.length).zipWith (fun i b => (pa + i, b)) bs

/-- A core's own working-store bytes. -/
def State.ws (s : State) (c off n : Nat) : List Byte := s.bytes (wsPa c off) n

/-! ### Free values (logs 10, 11) -/

/-- n free bytes, and the counter advanced. -/
def freeBytes (s : State) (n : Nat) : List Byte × State :=
  ((upFrom s.free n).map Config.freeByte, { s with free := s.free + n })

/-- One free number, and the counter advanced. -/
def freeNat (s : State) : Nat × State := (Config.freeNat s.free, s.tick)

/-- Leaves a range of device memory undefined: it holds free bytes. -/
def scramble (s : State) (pa n : Nat) : State :=
  let (bs, s) := freeBytes s n
  s.poke pa bs

/-- Leaves a list of addresses undefined. -/
def scrambleAll (s : State) (pas : List Nat) : State :=
  let (bs, s) := freeBytes s pas.length
  { s with mem := putAll 0 (pas.zip bs) s.mem }

/-! ### Translation and protection (R202 to R206) -/

/-- The end of a walk. -/
inductive Walk where
  /-- The device physical address of the byte. -/
  | ok (pa : Nat)
  /-- The status and the level at which the walk stopped (R206). -/
  | err (code : Byte) (level : Nat)
  deriving DecidableEq, Repr

/-- VA bits below the index of a level (R203). -/
def levelShift (l : Nat) : Nat := 39 - 9 * l

/-- The key of a cached table entry: the virtual range it governs. -/
def xcKey (va l : Nat) : Nat := va / 2 ^ levelShift l * 4 + l

/-- The table lies in HBM or LPDDR (R203). -/
def tableHome (pa : Nat) : Bool :=
  match region pa with
  | .hbm _ _ => true
  | .lpp _ => true
  | _ => false

/-- Reads a table entry, from the cache if the part holds it; a valid entry read from memory is cached (R205). -/
def readEntry (s : State) (n va l table : Nat) : State × Sum W64 Byte :=
  let hit := look 0 (xcKey va l) (s.ctx n).xc
  if hit ≠ 0 then (s, .inl hit)
  else
    let pa := table + fld (va / 2 ^ levelShift l) 8 0 * 8
    match readCheck s (upFrom pa 8) with
    | (s, some e) => (s, .inr e)
    | (s, none) =>
      let e := BitVec.ofNat 64 (leNat (s.bytes pa 8))
      if e.getLsbD 0 then (s.modCtx n fun x => { x with xc := put 0 (xcKey va l) e x.xc }, .inl e) else (s, .inl e)

/-- The entry breaks a rule of the second row of R204 at its level: V, LEAF, reserved bits, alignment. -/
def entryBad (e : W64) (l : Nat) : Bool :=
  let v := e.toNat
  let leaf := bitOf v 3
  !bitOf v 0 || (l = 0 && leaf) || (l = 3 && !leaf) || decide (fld v 63 48 ≠ 0) || decide (fld v 11 4 ≠ 0) ||
  (leaf && decide (fld v 47 12 * 4096 % 2 ^ levelShift l ≠ 0))

/-- What a leaf answers for a byte: the last rows of R204, in their order. A leaf that maps any byte of a protected
region is refused for every byte of its page. -/
def leafCheck (s : State) (e : W64) (va l : Nat) (r w : Bool) : Walk :=
  let v := e.toNat
  let pa := fld v 47 12 * 4096 + va % 2 ^ levelShift l
  match region pa with
  | .csr _ => .err Code.perm l
  | _ =>
    if meetsProtected s (fld v 47 12 * 4096) (2 ^ levelShift l) then .err Code.perm l
    else if (r && !bitOf v 1) || (w && !bitOf v 2) then .err Code.perm l
    else if !populated s pa then .err Code.xlate l
    else .ok pa

/-- Walks the levels from l on (R203, R204). -/
def walkFrom (s : State) (n va : Nat) (r w : Bool) (table : Nat) : List Nat → State × Walk
  | [] => (s, .err Code.xlate 3)
  | l :: ls =>
    if !tableHome table then (s, .err Code.xlate l)
    else if meetsProtected s table 4096 then (s, .err Code.perm l)
    else if !populated s table then (s, .err Code.xlate l)
    else match readEntry s n va l table with
      | (s, .inr e) => (s, .err e l)
      | (s, .inl e) =>
        if entryBad e l then (s, .err Code.xlate l)
        else if bitOf e.toNat 3 then (s, leafCheck s e va l r w)
        else walkFrom s n va r w (fld e.toNat 47 12 * 4096) ls

/-- Translates one context virtual address and checks the access (R202 to R204). -/
def translate (s : State) (n va : Nat) (r w : Bool) : State × Walk :=
  if va ≥ 2 ^ 48 then (s, .err Code.xlate 0)
  else match (s.ctx n).root with
    | none => (s, .err Code.xlate 0)
    | some root => walkFrom s n va r w root [0, 1, 2, 3]

/-- What an operation does to a page: its lowest address touched, and how it is accessed. -/
structure PageUse where
  va : Nat
  r : Bool
  w : Bool
  deriving DecidableEq, Repr

/-- Adds one touched byte. Every address at or above 2^48 falls on one page after all others (R204). -/
def addUse (t : Table (Option PageUse)) (va : Nat) (w : Bool) : Table (Option PageUse) :=
  let k := min (va / 4096) (2 ^ 36)
  match look none k t with
  | none => put none k (some ⟨va, !w, w⟩) t
  | some u => put none k (some ⟨min u.va va, u.r || !w, u.w || w⟩) t

/-- The pages that reads and writes touch, by rising address. -/
def pageUses (reads writes : List Nat) : Table (Option PageUse) :=
  writes.foldl (fun t a => addUse t a true) (reads.foldl (fun t a => addUse t a false) [])

/-- The outcome of translating an operation's pages: the translations made, or the first that fails, with the status,
the level and the address (R204). -/
inductive Xlation where
  | ok (xl : Table Nat)
  | err (code : Byte) (level va : Nat)
  deriving DecidableEq, Repr

/-- Translates pages in rising order of address, before any byte is written (R204). -/
def translatePages (s : State) (n : Nat) (xl : Table Nat) : Table (Option PageUse) → State × Xlation
  | [] => (s, .ok xl)
  | (_, none) :: ps => translatePages s n xl ps
  | (k, some u) :: ps =>
    match translate s n u.va u.r u.w with
    | (s, .err c l) => (s, .err c l (min u.va (2 ^ 48 - 1)))
    | (s, .ok pa) => translatePages s n (put 0 k (pa / 4096) xl) ps

/-- Translates everything an operation reads and writes in context n. -/
def xlate (s : State) (n : Nat) (reads writes : List Nat) : State × Xlation :=
  translatePages s n [] (pageUses reads writes)

/-- The device address of a virtual address under translations that have been made. -/
def viaXl (xl : Table Nat) (va : Nat) : Nat := look 0 (va / 4096) xl * 4096 + va % 4096

/-- XFLT (R206). -/
def xfltWord (code : Byte) (agent level va : Nat) : W64 :=
  BitVec.ofNat 64 (code.toNat * 2 ^ 56 + agent * 2 ^ 54 + level * 2 ^ 52 + va % 2 ^ 48)

/-- CTXFLT (R474). -/
def ctxfltWord (code : Byte) (agent va : Nat) : W64 :=
  BitVec.ofNat 64 (code.toNat * 2 ^ 56 + agent * 2 ^ 54 + va % 2 ^ 48)

end Sys2Proof.Machine
end

