-- ==== Sys2Proof/Machine/HostCore.lean ====
section
/-! DEFINITION. Completing packets: replies (R459, R460), and the end of a launch's programs (R466). -/

namespace Sys2Proof.Machine

/-- A word of a packet. -/
def Pkt.w (p : Pkt) (i : Nat) : Nat := (p.words.getD i 0).toNat

/-- OPCODE, SEQ, TAG, PLEN, FENCE and IRQ of a packet (R457). -/
def Pkt.opcode (p : Pkt) : Nat := fld (p.w 0) 63 56
def Pkt.seq (p : Pkt) : Nat := fld (p.w 0) 47 32
def Pkt.tag (p : Pkt) : Nat := fld (p.w 0) 31 16
def Pkt.irq (p : Pkt) : Bool := bitOf (p.w 0) 54

/-- A dispatched packet completes with a status and a detail word: its reply joins its CQ (R460); a silent one, or one
whose CQ is no longer held, leaves no reply (R453, R475). -/
def finishPkt (s : State) (pid : Nat) (status : Byte) (detail : W32) : State :=
  match s.pkt pid with
  | none => s
  | some p =>
    let q := (s.sq p.sq).cq
    let k := s.cq q
    if p.work = .replied then s
    else if p.silent ∨ k.owner ≠ some p.ctx then s.setPkt pid none
    else
      let r : Reply := ⟨pid, p.sq, p.tag, p.seq, status, detail, p.irq⟩
      (s.setCq q { k with replies := k.replies ++ [r] }).setPkt pid (some { p with work := .replied })

/-- Some packet dispatched from SQ q has not completed. -/
def sqBusy (s : State) (q : Nat) : Bool :=
  s.host.pkts.any fun e => match e.2 with
    | some p => decide (p.sq = q) && decide (p.work ≠ .replied)
    | none => false

/-- The packets of SQ q no longer belong to its sequence: the SQ has been reset or deleted (R456, R467). -/
def State.retirePkts (s : State) (q : Nat) : State :=
  { s with host := { s.host with pkts := remap none (fun o => o.map fun p => { p with stray := p.stray || decide (p.sq = q) }) s.host.pkts } }

/-- A Q_DELETE completes once the packets dispatched from its SQ have completed (R456); at most n times. -/
def settleDeletes : Nat → State → State
  | 0, s => s
  | n + 1, s =>
    match s.host.sqs.find? fun e => e.2.deleting.isSome && !sqBusy s e.1 with
    | some (q, x) =>
      match x.deleting with
      | some d => settleDeletes n (finishPkt ((s.setSq q .free).retirePkts q) d Code.ok 0)
      | none => s
    | none => s

/-- A packet completes, and with it any Q_DELETE that waited for it. -/
def completePkt (s : State) (pid : Nat) (status : Byte) (detail : W32) : State :=
  settleDeletes s.host.sqs.length (finishPkt s pid status detail)

/-- The lowest-numbered core of a launch whose program did not end with OK. -/
def launchWorst : List Nat → Table (Option (Byte × W32)) → Option (Byte × W32)
  | [], _ => none
  | c :: cs, t =>
    match look none c t with
    | some (b, d) => if b = Code.ok then launchWorst cs t else some (b, d)
    | none => launchWorst cs t

/-- The records of a launch: 8 B per core at RECVA + 8c (R466). -/
def launchRecords (cores : List Nat) (t : Table (Option (Byte × W32))) (recva : Nat) (xl : Table Nat) : List (Nat × Byte) :=
  cores.flatMap fun c =>
    match look none c t with
    | some (b, d) =>
      (List.range 8).zipWith (fun i x => (viaXl xl (recva + 8 * c + i), x)) (leBytes 8 (b.toNat * 2 ^ 56 + d.toNat))
    | none => []

/-- Core c of launch pid has ended with a status and a detail word. When every named core has ended, the records and
then the reply are written (R466). -/
def launchEnded (s : State) (pid c : Nat) (status : Byte) (detail : W32) : State :=
  match s.pkt pid with
  | some p =>
    match p.work with
    | .launch cores ended recva xl =>
      let ended := put none c (some (status, detail)) ended
      let s := s.setPkt pid (some { p with work := .launch cores ended recva xl })
      if cores.all fun c => (look none c ended).isSome then
        let s := if recva = 0 then s else (writeCheck s (launchRecords cores ended recva xl)).1
        match launchWorst cores ended with
        | some (b, d) => completePkt s pid b d
        | none =>
          match cores with
          | c0 :: _ => completePkt s pid Code.ok (((look none c0 ended).map (·.2)).getD 0)
          | [] => completePkt s pid Code.ok 0
      else s
    | _ => s
  | none => s

end Sys2Proof.Machine
end

