-- ==== Sys2Proof/Machine/LedgerOps.lean ====
section
/-! DEFINITION. The ledger's book: holdings, the fit of a request, decisions, grants, releases and tails (R482 to
R488). -/

namespace Sys2Proof.Machine

/-- Units of a core held as tails (R487). -/
def Core.tails (k : Core) : Nat :=
  k.mxa0.west.tail + k.mxa0.east.tail + k.mxa1.west.tail + k.mxa1.east.tail + k.ve0.tail + k.ve1.tail +
  (k.running.map fun t => if t.tail then t.burst else 0).sum

/-- Units booked against the core's grant (R486). -/
def Core.booked (k : Core) : Nat :=
  k.mxa0.west.book + k.mxa0.east.book + k.mxa1.west.book + k.mxa1.east.book + k.ve0.book + k.ve1.book +
  (k.running.map fun t => if t.tail then 0 else t.burst).sum

/-- Units of the grant not booked. -/
def Core.unbooked (k : Core) : Nat := k.grant - k.booked

/-- Grants and tails of a core. -/
def Core.held (k : Core) : Nat := k.grant + k.tails

/-- Units counted for requests that fit and are not yet granted, of those that a test picks (R484). -/
def fitted (s : State) (f : Requester → Bool) : Nat :=
  (s.power.waiting.map fun r => if f r.who then r.fit.getD 0 else 0).sum

/-- GRANTED: every grant and tail held, and the units of requests that fit (R482, R484). -/
def granted (s : State) : Nat :=
  (s.cores.map fun p => p.2.held).sum + (s.power.grants.map (·.2)).sum + fitted s fun _ => true

/-- Units held as tails (LGSTS.TAIL, R494). -/
def tailsHeld (s : State) : Nat := (s.cores.map fun p => p.2.tails).sum

/-- The compute die whose limit a requester meets; ingest and link requests meet none (R484). -/
def Requester.die : Requester → Option Nat
  | .core c => some (dieOf c)
  | _ => none

/-- Grants and tails of a die's cores (R484). -/
def dieHeld (s : State) (d : Nat) : Nat :=
  (s.cores.map fun p => if dieOf p.1 = d then p.2.held else 0).sum + fitted s fun w => decide (Requester.die w = some d)

/-- The context whose program a core runs. -/
def Core.ctx (k : Core) : Option Nat := k.prog.map (·.ctx)

/-- LIMIT of a context (R489). -/
def ctxLimit (s : State) (n : Nat) : Nat := look 0x1770 n s.power.ctxLim

/-- DIELIM of a compute die, and what its temperature leaves of it (R493). -/
def dieLimit (s : State) (d : Nat) : Nat := look 0x4B0 d s.power.dieLim
def dtempOf (s : State) (k : Nat) : DTemp := look .reset k s.power.dtemp
def effDieLimit (s : State) (d : Nat) : Nat :=
  match (dtempOf s d).tlevel with
  | 0 => dieLimit s d
  | 1 => dieLimit s d * 3 / 4
  | _ => dieLimit s d / 2

/-- The package limit: values above 6,000 act as 6,000 (R494). -/
def pkgLimit (s : State) : Nat := min s.power.limit 6000

/-- The batches in cluster k's queue. -/
def Ingest.queue (g : Ingest) (k : Nat) : List Batch := if k = 0 then g.q0 else g.q1
def Ingest.setQueue (g : Ingest) (k : Nat) (l : List Batch) : Ingest := if k = 0 then { g with q0 := l } else { g with q1 := l }

/-- The batch of a cluster that awaits its ledger grant. -/
def waitingBatch (s : State) (k : Nat) : Option Batch := (s.ingest.queue k).find? fun b => b.asked && !b.granted

/-- The context of the batch of cluster k that awaits a grant. -/
def ingestCtx (s : State) (k : Nat) : Option Nat := (waitingBatch s k).map (·.ctx)

/-- Units granted to a context's batches in a queue. -/
def batchUnits (n : Nat) (l : List Batch) : Nat := (l.map fun b => if b.ctx = n then b.units else 0).sum

/-- The context whose limit a requester meets; link requests meet none (R484). -/
def requesterCtx (s : State) : Requester → Option Nat
  | .core c => (s.core c).ctx
  | .ingest k => ingestCtx s k
  | .link _ => none

/-- Units held by a context: the grants of the cores running its programs and of its ingest batches (R489), and those of
its requests that fit (R484); tails count in GRANTED and in the die's holdings only (R487). -/
def ctxHeld (s : State) (n : Nat) : Nat :=
  (s.cores.map fun p => if p.2.ctx = some n then p.2.grant else 0).sum +
  batchUnits n s.ingest.q0 + batchUnits n s.ingest.q1 + fitted s fun w => decide (requesterCtx s w = some n)

/-- The I/O die on which an ingest batch or a link bring-up would start (R493). -/
def Requester.ioDie : Requester → Option Nat
  | .core _ => none
  | .ingest k => some (4 + k)
  | .link l => some (4 + l / 32)

/-- What a request is clipped to (R484): on a warm I/O die an ingest cluster requests at most 60 units (R493). -/
def clipTo (s : State) (r : LedgerReq) : Nat :=
  let cap := pkgLimit s - s.power.base
  let cap := match Requester.die r.who with | some d => min cap (effDieLimit s d) | none => cap
  let cap := match requesterCtx s r.who with | some n => min cap (ctxLimit s n) | none => cap
  let cap := match r.who with | .ingest k => if (dtempOf s (4 + k)).tlevel = 0 then cap else min cap 60 | _ => cap
  min r.units cap

/-- The request fits now (R484). -/
def fits (s : State) (r : LedgerReq) : Bool :=
  let u := clipTo s r
  decide (granted s + s.power.base + u ≤ pkgLimit s) &&
  (match Requester.die r.who with | some d => decide (dieHeld s d + u ≤ effDieLimit s d) | none => true) &&
  (match requesterCtx s r.who with | some n => decide (ctxHeld s n + u ≤ ctxLimit s n) | none => true)

/-- No batch or bring-up starts on an I/O die at hot or above: its request is passed over (R493, log 100). -/
def LedgerReq.held (s : State) (r : LedgerReq) : Bool :=
  match Requester.ioDie r.who with | some d => decide (2 ≤ (dtempOf s d).tlevel) | none => false

/-- A request that does not fit in the first cycle it is decided waits, and sets a core's DENIED (R189, R484). -/
def denyRequest (s : State) (who : Requester) : State :=
  let s := { s with power := { s.power with
    waiting := s.power.waiting.map fun r => if r.who = who then { r with denied := true } else r } }
  match who with
  | .core c => (s.modCore c fun k => { k with denied := true }).tally 7 0x40 (dieOf c) 0 1
  | _ => s

/-- The units a request is clipped to count from the cycle in which it fits (R484). -/
def fitRequest (s : State) (who : Requester) (u : Nat) : State :=
  { s with power := { s.power with
    waiting := s.power.waiting.map fun r => if r.who = who then { r with fit := some u } else r } }

/-- The ledger decides requests in arrival order, up to the first that does not fit, which blocks those behind it; at
most n of them (R484). -/
def decideMany : Nat → State → State
  | 0, s => s
  | n + 1, s =>
    match s.power.waiting.find? fun r => r.fit.isNone && !r.held s with
    | none => s
    | some r =>
      if fits s r then decideMany n (fitRequest s r.who (clipTo s r))
      else if r.denied then s
      else denyRequest s r.who

/-- The ledger decides the requests it can (R484, R485). -/
def decideHead (s : State) : State := decideMany s.power.waiting.length s

/-- A request joins the ledger's order (R484). -/
def sendRequest (s : State) (who : Requester) (units : Nat) : State :=
  decideHead { s with power := { s.power with waiting := s.power.waiting ++ [⟨who, units, false, none⟩] } }

/-- A request leaves the ledger's order (R181). -/
def withdrawRequest (s : State) (who : Requester) : State :=
  decideHead { s with power := { s.power with waiting := s.power.waiting.filter fun r => decide (r.who ≠ who) } }

/-- Bookings still held when a grant is released become tails (R487). -/
def Half.toTail (h : Half) : Half :=
  if h.book = 0 then h else { h with tails := h.tails ++ [⟨h.book, h.charge, h.level⟩], book := 0 }
def Core.toTails (k : Core) : Core :=
  let mx (x : Mxa) : Mxa := { x with west := x.west.toTail, east := x.east.toTail }
  let ve (x : Ve) : Ve := { x with tail := x.tail + x.book, book := 0 }
  { k with
    mxa0 := mx k.mxa0, mxa1 := mx k.mxa1, ve0 := ve k.ve0, ve1 := ve k.ve1
    running := k.running.map fun t => { t with tail := true }
    grant := 0 }

/-- A core's grant is released (R181, R487). -/
def releaseGrant (s : State) (c : Nat) : State := decideHead (s.modCore c Core.toTails)

/-- The key of a grant held outside the cores. -/
def grantKey : Requester → Nat
  | .core c => c
  | .ingest k => 96 + k
  | .link l => 98 + l

/-- Units of an ingest cluster's grants are released, batch by batch (R277, R483). -/
def releaseBatchUnits (s : State) (k u : Nat) : State :=
  decideHead { s with power := { s.power with
    grants := put 0 (96 + k) (look 0 (96 + k) s.power.grants - u) s.power.grants } }

/-- The grant of a link bring-up ends (R483). -/
def dropGrant (s : State) (who : Requester) : State :=
  decideHead { s with power := { s.power with grants := put 0 (grantKey who) 0 s.power.grants } }

end Sys2Proof.Machine
end

