-- ==== Sys2Proof/Machine/Tensor.lean ====
section
/-! DEFINITION. Tensor descriptors and the walk over a box (R195 to R201, R207 to R210). -/

namespace Sys2Proof.Machine

/-- One dimension of a descriptor (R198). -/
structure Dim where
  n : Nat
  org : Int
  ext : Nat
  olo : Nat
  ohi : Nat
  lb : Nat
  lg : Nat
  sstr : Nat
  deriving DecidableEq, Repr

/-- A dimension at or above DIMS (R195). -/
def Dim.unit : Dim := ⟨1, 0, 1, 0, 0, 0, 0, 0⟩

/-- A tensor descriptor (R198). -/
structure Desc where
  words : List Nat
  dims : Nat
  esCode : Nat
  pad : Nat
  va : Nat
  fill : Nat
  perm : List Nat
  dim : List Dim
  lstr : List Nat
  deriving DecidableEq, Repr

/-- Element sizes of ESIZE 0 to 6 (R198). -/
def esizes : List Nat := [1, 2, 4, 8, 16, 24, 32]

def Desc.esize (d : Desc) : Nat := esizes.getD d.esCode 1

/-- The 64-bit words of a byte list. -/
def wordsOf (bs : List Byte) (n : Nat) : List Nat := (List.range n).map fun i => fieldAt bs (8 * i) 8

/-- Dimension d from its two words (R198). -/
def dimOf (a b : Nat) : Dim :=
  { n := fld a 63 41, org := sext 25 (fld a 40 16), ext := fld a 15 0, olo := fld b 63 56, ohi := fld b 55 48,
    lb := fld b 47 44, lg := fld b 43 40, sstr := fld b 39 0 }

/-- The descriptor that 128 bytes hold (R198). -/
def descOf (bs : List Byte) : Desc :=
  let w := wordsOf bs 16
  let g (i : Nat) : Nat := w.getD i 0
  let dims := fld (g 0) 56 55 + 1
  { words := w, dims, esCode := fld (g 0) 59 57, pad := fld (g 0) 54 53, va := fld (g 0) 47 0, fill := fld (g 1) 63 32,
    perm := (List.range 4).map fun k => fld (g 1) (24 + 2 * k + 1) (24 + 2 * k)
    dim := (List.range 4).map fun d => if d < dims then dimOf (g (2 + 2 * d)) (g (3 + 2 * d)) else .unit
    lstr := [0, fld (g 10) 23 0, fld (g 10) 47 24, fld (g 11) 23 0] }

def Desc.d (x : Desc) (k : Nat) : Dim := x.dim.getD k .unit
def Desc.p (x : Desc) (k : Nat) : Nat := x.perm.getD k k
def Desc.w (x : Desc) (i : Nat) : Nat := x.words.getD i 0
def Desc.ls (x : Desc) (k : Nat) : Nat := x.lstr.getD k 0

/-- E_k: the extent of near dimension k (R201). -/
def Desc.ne (x : Desc) (k : Nat) : Nat := (x.d (x.p k)).ext

/-- Reserved words and fields are zero (R198). -/
def Desc.reservedZero (x : Desc) : Bool :=
  fld (x.w 0) 52 48 == 0 && fld (x.w 1) 23 0 == 0 && fld (x.w 10) 63 48 == 0 && fld (x.w 11) 63 24 == 0 &&
  x.w 12 == 0 && x.w 13 == 0 && x.w 14 == 0 && x.w 15 == 0 &&
  ((List.range 4).all fun d => decide (d < x.dims) || (x.w (2 + 2 * d) == 0 && x.w (3 + 2 * d) == 0)) &&
  ((List.range 4).all fun k => decide (k < x.dims) || x.ls k == 0)

/-- PERM is a permutation of the dimensions below DIMS and the identity above (R201). -/
def permOk (dims : Nat) (p : List Nat) : Bool :=
  (List.range 4).all fun k =>
    if k < dims then decide (p.getD k 0 < dims) && ((List.range k).all fun j => p.getD j 0 != p.getD k 0)
    else p.getD k 0 == k

/-- The box lies inside the tensor (R201, R207). -/
def Desc.inside (x : Desc) : Bool :=
  x.dim.all fun d => decide (0 ≤ d.org) && decide (d.org + d.ext ≤ d.n)

/-- Coordinates of the owned window along a dimension: first and one past the last (R209). -/
def Dim.owned (d : Dim) : Int × Int := (max (d.org + d.olo) 0, min (d.org + d.ext - d.ohi) d.n)

/-- The owned window holds no element (R201). -/
def Desc.ownsNothing (x : Desc) : Bool := x.dim.any fun d => decide (d.owned.2 ≤ d.owned.1)

/-- The far-side checks of R201, rows 2 to 5: the status of the first that fails. A copy ignores PERM (R213). -/
def Desc.checkFar (x : Desc) (perm : Bool) : Option Byte :=
  let al := min x.esize 8
  if fld (x.w 0) 63 60 ≠ 1 ∨ x.esCode = 7 ∨ x.pad = 3 ∨ !x.reservedZero then some Code.badParam
  else if x.dim.any fun d => decide (8 < d.lb) || decide (8 < d.lg) then some Code.badParam
  else if perm && !permOk x.dims x.perm then some Code.badParam
  else if x.va % al ≠ 0 ∨ (x.dim.any fun d => decide (d.sstr % al ≠ 0)) then some Code.badParam
  else none

/-- The near strides of R201, row 6. -/
def Desc.checkNear (x : Desc) : Option Byte :=
  let bad (k : Nat) : Bool := decide (k < x.dims) &&
    (decide (x.ls k % 64 ≠ 0) || decide (x.ls k < x.ne (k - 1) * (if k = 1 then x.esize else x.ls (k - 1))))
  if bad 1 || bad 2 || bad 3 then some Code.badParam else none

/-- EXT or N is zero in some dimension (R201, row 7). -/
def Desc.isEmpty (x : Desc) : Bool := x.dim.any fun d => d.ext == 0 || d.n == 0

/-- The far address of the element at in-bound coordinates (R196). -/
def Desc.addr (x : Desc) (c : List Nat) : Nat :=
  let step (a : Nat × Nat × Nat × Nat) (d : Nat) : Nat × Nat × Nat × Nat :=
    let (inner, tidx, sup, te) := a
    let dm := x.d d
    let b := 2 ^ dm.lb
    let g := 2 ^ dm.lg
    let v := c.getD d 0
    let u := v % b
    let t := v / b
    (inner * b + u, tidx * g + t % g, sup + t / g * dm.sstr, te * b)
  let (inner, tidx, sup, te) := [3, 2, 1, 0].foldl step (0, 0, 0, 1)
  x.va + sup + (tidx * te + inner) * x.esize

/-- All coordinate vectors below four extents, the first fastest. -/
def boxCoords (e0 e1 e2 e3 : Nat) : List (List Nat) :=
  (List.range e3).flatMap fun a => (List.range e2).flatMap fun b => (List.range e1).flatMap fun c =>
    (List.range e0).map fun d => [d, c, b, a]

/-- The near coordinates of a box in near order (R199). -/
def Desc.nearBox (x : Desc) : List (List Nat) := boxCoords (x.ne 0) (x.ne 1) (x.ne 2) (x.ne 3)

/-- The near dimension that carries logical dimension d. -/
def Desc.nearOf (x : Desc) (d : Nat) : Nat := (List.range 4).findIdx fun k => x.p k == d

/-- Logical coordinates of near coordinates y (R199). -/
def Desc.logical (x : Desc) (y : List Nat) : List Int :=
  (List.range 4).map fun d => (x.d d).org + (y.getD (x.nearOf d) 0 : Int)

/-- The working-store offset of near coordinates y (R199). -/
def Desc.near (x : Desc) (laddr : Nat) (y : List Nat) : Nat :=
  laddr + y.getD 0 0 * x.esize + y.getD 1 0 * x.ls 1 + y.getD 2 0 * x.ls 2 + y.getD 3 0 * x.ls 3

/-- Where a box element's value comes from: a far address, or the fill pattern (R207). -/
inductive Source where
  | far (va : Nat)
  | fill (bs : List Byte)
  deriving DecidableEq, Repr

/-- A coordinate brought to the nearest edge (R207). -/
def clampCoord (n : Nat) (c : Int) : Nat := if c < 0 then 0 else min c.toNat (n - 1)

/-- FILL repeated or cut to the element size (R207). -/
def Desc.fillBytes (x : Desc) : List Byte := (List.range x.esize).map fun i => (leBytes 4 x.fill).getD (i % 4) 0

/-- The source of the element at logical coordinates c (R207). -/
def Desc.source (x : Desc) (c : List Int) : Source :=
  let out := (List.range 4).any fun d =>
    decide (c.getD d 0 < 0) || decide (((x.d d).n : Int) ≤ c.getD d 0)
  if out && x.pad == 2 then .fill x.fillBytes
  else .far (x.addr ((List.range 4).map fun d => clampCoord (x.d d).n (c.getD d 0)))

/-- Logical coordinates inside the owned window (R209). -/
def Desc.owns (x : Desc) (c : List Int) : Bool :=
  (List.range 4).all fun d => decide ((x.d d).owned.1 ≤ c.getD d 0) && decide (c.getD d 0 < (x.d d).owned.2)

/-- The elements of a load: near offset and source, in near order (R199, R207, R208). -/
def Desc.loadPlan (x : Desc) (laddr : Nat) : List (Nat × Source) :=
  x.nearBox.map fun y => (x.near laddr y, x.source (x.logical y))

/-- The elements of a store: near offset and far address, in near order, owned elements only (R199, R209). -/
def Desc.storePlan (x : Desc) (laddr : Nat) : List (Nat × Nat) :=
  (x.nearBox.filter fun y => x.owns (x.logical y)).map fun y =>
    (x.near laddr y, x.addr ((x.logical y).map Int.toNat))

/-- The far bytes a load reads. -/
def Desc.loadReads (x : Desc) (laddr : Nat) : List Nat :=
  (x.loadPlan laddr).flatMap fun p => match p.2 with | .far va => upFrom va x.esize | .fill _ => []

/-- The far bytes a store writes. -/
def Desc.storeWrites (x : Desc) (laddr : Nat) : List Nat := (x.storePlan laddr).flatMap fun p => upFrom p.2 x.esize

/-- Lowest and highest of a list of numbers. -/
def hull (l : List Nat) : Option (Nat × Nat) :=
  l.foldl (fun h a => match h with | none => some (a, a) | some (lo, hi) => some (min lo a, max hi a)) none

/-- Two hulls share a byte. -/
def hullsMeet (a b : Option (Nat × Nat)) : Bool :=
  match a, b with
  | some (l, h), some (l', h') => decide (l ≤ h') && decide (l' ≤ h)
  | _, _ => false

end Sys2Proof.Machine
end

