-- ==== Sys2Proof/Machine/TransferOps.lean ====
section
/-! DEFINITION. The bytes a transfer of a stream engine moves (R169, R199, R207 to R209). -/

namespace Sys2Proof.Machine

/-- Fields of an SE command (R169). -/
def seOp (w0 : W64) : Nat := fld w0.toNat 63 60
def sePf (w0 : W64) : Bool := w0.getLsbD 59
def seWin (w0 : W64) : Nat := fld w0.toNat 58 56
def sePen (w0 : W64) : Bool := w0.getLsbD 55
def sePcore (w0 : W64) : Nat := fld w0.toNat 47 40
def sePctr (w0 : W64) : Nat := fld w0.toNat 37 32
def seLaddr (w0 : W64) : Nat := fld w0.toNat 23 0
def seDesc (w1 : W64) : Nat := fld w1.toNat 23 0

/-- The bytes of a source (R207). -/
def sourceBytes (s : State) (xl : Table Nat) (esize : Nat) : Source → List Byte
  | .far va => (upFrom va esize).map fun a => s.byte (viaXl xl a)
  | .fill bs => bs

/-- What a load writes in its core's working store, in near order. -/
def loadMoves (s : State) (c : Nat) (d : Desc) (laddr : Nat) (xl : Table Nat) : List (Nat × Byte) :=
  (d.loadPlan laddr).flatMap fun p => pairs (wsPa c p.1) (sourceBytes s xl d.esize p.2)

/-- The part of a load's writes whose sources can be read. -/
def readableMoves (s : State) (c : Nat) (d : Desc) (laddr : Nat) (xl : Table Nat) : List (Nat × Byte) :=
  ((d.loadPlan laddr).filter fun p =>
      match p.2 with
      | .far va => readable s ((upFrom va d.esize).map (viaXl xl))
      | .fill _ => true).flatMap fun p => pairs (wsPa c p.1) (sourceBytes s xl d.esize p.2)

/-- What a store writes at the far side, in near order, from near bytes already read. -/
def storeMoves (data : Table Byte) (d : Desc) (laddr : Nat) (xl : Table Nat) : List (Nat × Byte) :=
  (d.storePlan laddr).flatMap fun p =>
    (List.range d.esize).map fun i => (viaXl xl (p.2 + i), look 0 (p.1 + i) data)

/-- The far bytes a load reads, as device addresses. -/
def loadSources (d : Desc) (laddr : Nat) (xl : Table Nat) : List Nat := (d.loadReads laddr).map (viaXl xl)

/-- What a running transfer can have written when it stops: a store has the elements it could read. -/
def stoppedMoves (s : State) (c : Nat) (t : Transfer) : List (Nat × Byte) :=
  if seOp t.w0 = 1 then readableMoves s c (descOf t.desc) (seLaddr t.w0) t.xl
  else (storeMoves t.data (descOf t.desc) (seLaddr t.w0) t.xl).take (t.avail * (descOf t.desc).esize)

/-- Everything a running transfer writes. -/
def transferMoves (s : State) (c : Nat) (t : Transfer) : List (Nat × Byte) :=
  if seOp t.w0 = 1 then loadMoves s c (descOf t.desc) (seLaddr t.w0) t.xl
  else storeMoves t.data (descOf t.desc) (seLaddr t.w0) t.xl

/-- A stopped operation leaves a free number of its first sectors written: bytes already written stay, and no sector is
half written (R31, R170, R186) (log 22). -/
def partWrite (s : State) (l : List (Nat × Byte)) : State :=
  let (n, s) := freeNat s
  (writeStop s (firstSectors (n % (sectorCount l + 1)) l)).1

end Sys2Proof.Machine
end

