-- ==== Sys2Proof/Machine/CoreOps.lean ====
section
/-! DEFINITION. Shared operations of a core: posts (R183), raising and taking an exception (R243 to R246), pending
register writes (R91, R177), and the end of a program (R186, R242, R246). -/

namespace Sys2Proof.Machine

/-- A status that reports an error (R570). -/
def isErr (code : Byte) : Bool := decide (code ≥ 0x10)

/-! ### Configuration of the running program (R223) -/

def Core.cfgStreams (k : Core) : Nat := fld k.cfg.toNat 2 0
def Core.cfgSeq (k : Core) : Bool := k.cfg.getLsbD 3
def Core.cfgBpath (k : Core) : Nat := fld k.cfg.toNat 7 6
def Core.cfgGpath (k : Core) : Bool := k.cfg.getLsbD 8
def Core.cfgGbase (k : Core) : Nat := fld k.cfg.toNat 24 16

/-- Stream t is named in STREAMS. -/
def Core.named (k : Core) (t : Nat) : Bool := bitOf k.cfgStreams t

/-- A stream that runs, for R178 and R180: started and not DONE (R241). -/
def StreamState.running : StreamState → Bool
  | .run | .swap | .exc => true
  | _ => false

/-- The streams of a core that run. -/
def Core.runningStreams (k : Core) : List Nat := [0, 1, 2].filter fun t => (k.stream t).st.running

/-! ### Tokens (R183, R184) -/

/-- A token counter. -/
def Core.tcOf (k : Core) (i : Nat) : W16 := look 0 i k.tc

/-- Posts one token: the counter stays at 0xFFFF, with TOVF and the event (R183). The counters of a PARKED die hold
nothing (R481). -/
def post (s : State) (c i : Nat) : State :=
  let k := s.core c
  if s.dieState (dieOf c) = .parked then s
  else if k.tcOf i = 0xFFFF then
    record (s.setCore c { k with tovf := true }) ⟨0x27, 0, .core, c, 0, 0, i, 0⟩
  else s.setCore c { k with tc := put 0 i (k.tcOf i + 1) k.tc }

/-- Posts n tokens. -/
def postMany (s : State) (c i : Nat) : Nat → State
  | 0 => s
  | n + 1 => postMany (post s c i) c i n

/-! ### Raising an exception (R243, R244) -/

/-- SEXC with COUNT raised by one, saturating at 15 (R244). -/
def sexcCount (x : W64) (n : Nat) : W64 :=
  let v := x.toNat
  BitVec.ofNat 64 (setFld v 51 48 (min 15 (fld v 51 48 + n)))

/-- An exception of a stream is raised. In RUN or SWAP it waits to be taken before the next issue; in EXC one from a
unit is counted and not taken; a stream that does not run has none (R243, R244). -/
def raise (s : State) (c t : Nat) (e : PendExc) : State :=
  let k := s.core c
  let x := k.stream t
  match x.st with
  | .run | .swap => s.setCore c (k.setStream t { x with pend := x.pend ++ [e] })
  | .exc =>
    if e.src = 0 then s.setCore c (k.setStream t { x with pend := x.pend ++ [e] })
    else s.setCore c (k.setStream t { x with sexc := sexcCount x.sexc 1 })
  | _ => s

/-- A completion reported to a stream: an error raises an exception, any other status none (R243). -/
def report (s : State) (c t : Nat) (e : PendExc) : State := if isErr e.code then raise s c t e else s

/-! ### Pending register writes (R91, R177) -/

/-- A column-mask write takes effect: ARRAY_COLS follows, and both stationary sets of both halves become invalid
(R91). -/
def Mxa.applyMask (x : Mxa) : Mxa :=
  if x.pendLo.isNone && x.pendHi.isNone then x
  else
    let inv (h : Half) : Half :=
      { h with set0 := { h.set0 with valid := false }, set1 := { h.set1 with valid := false } }
    { x with colLo := x.pendLo.getD x.colLo, colHi := x.pendHi.getD x.colHi, pendLo := none, pendHi := none,
             west := inv x.west, east := inv x.east }

/-- A DBn register with PH cleared and its read-only bits zero (R12, R176, R177). -/
def dbMask (v : W64) : W64 := v &&& 0x43FFFFFFFF01FFFF

/-- Pending writes of DB0 to DB15 take effect; PH is cleared in each (R177). -/
def Core.applyDb (k : Core) : Core :=
  { k with db := (k.dbPend.filterMap fun p => p.2.map fun v => (p.1, dbMask v)).foldl (fun t p => put 0 p.1 p.2 t) k.db,
           dbPend := [] }

/-- Every pending write of the core takes effect (R91, R177). -/
def Core.applyPending (k : Core) : Core :=
  { k.applyDb with mxa0 := k.mxa0.applyMask, mxa1 := k.mxa1.applyMask }

/-! ### The end of a program -/

/-- BEAT_CNT[31:0], the detail word of a launch (R186, R242, R246). -/
def Core.beatDetail (k : Core) : W32 := k.beat.setWidth 32

/-- Every stream returns to IDLE (R249). SEXC keeps its record (R246). -/
def Stream.stop (x : Stream) : Stream := { x with st := .idle, pend := [], mask := 0, units := 0, ending := false }

/-- What every end of a program does: streams stop, SE work is discarded with its slots and windows, token counters
clear, pending register writes take effect, and the grant and a request still out are given back (R177, R183, R186,
R91, R181). -/
def closeProgram (s : State) (c : Nat) : State :=
  let s := if (s.core c).lreq = .sent then withdrawRequest s (.core c) else s
  let s := (s.core c).running.foldl (fun s t => partWrite s (stoppedMoves s c t)) s
  let s := s.modCore c fun k =>
    { k.applyPending with
      f := k.f.stop, b := k.b.stop, u := k.u.stop, prog := none, seq := [], running := [], tc := [], gate := none,
      cecmd := [], lreq := .notSent, csRetired := false, wdExc := none }
  releaseGrant s c

/-- The program of a core ends with a status: the launch completes with it and BEAT_CNT[31:0] (R186, R242, R246). -/
def endProgram (s : State) (c : Nat) (status : Byte) : State :=
  let k := s.core c
  match k.prog with
  | none => s
  | some p => launchEnded (closeProgram s c) p.pid c status k.beatDetail

/-- The program ends under R246, with its stream-exception event (R529, code 0x25). -/
def errorEnd (s : State) (c t : Nat) (status : Byte) : State :=
  let k := s.core c
  match k.prog with
  | none => s
  | some _ =>
    let s := record s ⟨0x25, 0, .core, c, t, status, (k.stream t).sexc.toNat, k.beatDetail.toNat⟩
    endProgram s c status

/-- The program of a core ends from outside its streams, in the same way (R246). The spec does not say which stream its
stream-exception event names: a free one (log 42). -/
def outsideEnd (s : State) (c : Nat) (status : Byte) : State :=
  match (s.core c).prog with
  | none => s
  | some _ =>
    let r := freeNat s
    errorEnd r.2 c (r.1 % 3) status

/-! ### Taking an exception (R244) -/

/-- The exception record (R250). -/
def sexcWord (e : PendExc) (xpc count : Nat) : W64 :=
  BitVec.ofNat 64 (e.code.toNat * 2 ^ 56 + e.src * 2 ^ 52 + min 15 count * 2 ^ 48 + xpc % 16384 * 2 ^ 32 +
    e.op % 256 * 2 ^ 24 + e.info % 2 ^ 24)

/-- A waiting SWAP is withdrawn: its mask and units leave, and a ledger request already sent is withdrawn or released
(R181, R244). -/
def withdrawSwap (s : State) (c t : Nat) : State :=
  let k := s.core c
  let x := k.stream t
  if x.st = .swap then
    let s := s.setCore c { k.setStream t { x with st := .run, mask := 0, units := 0 } with csRetired := false, lreq := .notSent }
    match k.lreq with
    | .sent => withdrawRequest s (.core c)
    | .granted => releaseGrant s c
    | .notSent => s
  else s

/-- A gate that holds stream U is abandoned (R243, R263, R264). -/
def abandonGate (k : Core) (t : Nat) : Core :=
  if t = 2 ∧ k.gate.isSome then
    { k with gate := none, ugsts := BitVec.ofNat 64 (fld k.ugsts.toNat 63 32 * 2 ^ 32 + 0x60) }
  else k

/-- The watchdog stops counting while a stream is in EXC (R185, R244). -/
def Core.holdWatchdog (k : Core) (now : W64) : Core := { k with wdExc := some (k.wdExc.getD now) }

/-- It counts again once no stream is in EXC; the time held does not count (R185). -/
def Core.resumeWatchdog (k : Core) (now : W64) : Core :=
  if [0, 1, 2].any fun t => (k.stream t).st == .exc then k
  else { k with wdStart := k.wdStart + (now - k.wdExc.getD now), wdExc := none }

/-- Stream t takes exception e with resume point xpc; `count` further ones are counted with it. -/
def takeException (s : State) (c t : Nat) (e : PendExc) (xpc count : Nat) : State :=
  let s := withdrawSwap s c t
  let s := s.modCore c fun k =>
    let k := (abandonGate k t).holdWatchdog s.tbtime
    let x := k.stream t
    let xv := look 0 t k.xvec
    k.setStream t
      { x with st := .exc, sexc := sexcWord e xpc count, pend := [], ending := false,
               pc := if xv = 0 then x.pc else xv }
  if look 0 t (s.core c).xvec = 0 then errorEnd s c t e.code else s

/-- The resume point of an exception from a unit or from the CC (R243): the SWAP, END or gate write at which the
stream waits, else the next instruction not yet issued, which for a CC exception is the instruction itself. -/
def resumePc (k : Core) (t : Nat) : Nat :=
  let x := k.stream t
  if x.st = .swap ∨ (t = 2 ∧ k.gate.isSome) then x.pc - 1 else x.pc

/-- An exception of a stream in EXC that the CC detects ends the program with the record's CODE; COUNT rises by one
(R244). -/
def exceptionInExc (s : State) (c t : Nat) : State :=
  let s := s.modCore c fun k => k.modStream t fun x => { x with sexc := sexcCount x.sexc 1 }
  errorEnd s c t (BitVec.ofNat 8 (fld (((s.core c).stream t).sexc).toNat 63 56))

end Sys2Proof.Machine
end

