-- ==== Sys2Proof/Machine/CoreCsr.lean ====
section
/-! DEFINITION. The CSR block of a core: what each register reads (R58, R86 to R95, R129, R161, R187 to R193, R206,
R217, R248 to R250, R260 to R265, R494), and what a write does under the access codes (R11 to R14). -/

namespace Sys2Proof.Machine

/-! ### Array width (R89, R90) -/

/-- The column is in service (R89). -/
def Mxa.colOn (x : Mxa) (j : Nat) : Bool := if j < 64 then x.colLo.getLsbD j else x.colHi.getLsbD (j - 64)

/-- WEST and EAST of ARRAY_COLS (R90). -/
def Mxa.westCols (x : Mxa) : Nat := popCount 64 x.colLo.toNat
def Mxa.eastCols (x : Mxa) : Nat := popCount 64 x.colHi.toNat

/-- ARRAY_COLS (R90). -/
def Mxa.arrayCols (x : Mxa) : W64 :=
  BitVec.ofNat 64 ((x.westCols + x.eastCols) * 2 ^ 16 + x.eastCols * 2 ^ 8 + x.westCols)

/-! ### Beat conditions (R179, R180) -/

/-- The core's wait mask: the OR of the masks of all running streams (R178). -/
def Core.waitMask (k : Core) : W64 := k.f.mask ||| k.b.mask ||| k.u.mask

/-- The core's ledger request: the sum of the units (R178). -/
def Core.unitsAsked (k : Core) : Nat := k.f.units + k.b.units + k.u.units

/-- Prefetch transfers not landed: queued, running, or failed with the exception not yet taken (R182, BSTS.PF_OUT). -/
def Core.pfOut (k : Core) : Nat :=
  (k.seq.filter fun e => sePf e.w0).length + (k.running.filter fun t => sePf t.w0).length +
  (k.f.pend.filter (·.pf)).length + (k.b.pend.filter (·.pf)).length + (k.u.pend.filter (·.pf)).length

/-- A stream's SFU load has not completed on an engine. -/
def Ve.streamLoad (x : Ve) : Bool := x.loads.any fun l => match l.origin with | .stream _ _ => true | .host _ => false

/-- No member of the compute set is outstanding (R179): vector words, array commands, SFU loads, and PF = 0 SE commands;
a STORE has been read once it runs. -/
def Core.computeEmpty (k : Core) : Bool :=
  k.mxa0.west.queue.isEmpty && k.mxa0.east.queue.isEmpty && k.mxa1.west.queue.isEmpty && k.mxa1.east.queue.isEmpty &&
  k.accWords.isEmpty && !k.ve0.streamLoad && !k.ve1.streamLoad && (k.seq.all fun e => sePf e.w0) &&
  (k.running.all fun t => sePf t.w0 || (seOp t.w0 == 2 && t.stop.isNone))

/-- Every counter in the wait mask is nonzero (R180, condition 4). -/
def Core.tokensReady (k : Core) : Bool := (List.range 64).all fun i => !k.waitMask.getLsbD i || k.tcOf i != 0

/-- Some running stream has issued SWAP. -/
def Core.anySwap (k : Core) : Bool := k.runningStreams.any fun t => (k.stream t).st == .swap

/-- Every running stream has issued SWAP, and there is one (R180, condition 1). -/
def Core.allSwap (k : Core) : Bool :=
  !k.runningStreams.isEmpty && k.runningStreams.all fun t => (k.stream t).st == .swap

/-! ### Reading -/

/-- ASTS (R87). -/
def Mxa.asts (x : Mxa) : W64 :=
  BitVec.ofNat 64 (b2n x.split * 32 + b2n (!x.east.queue.isEmpty) * 8 + b2n (!x.west.queue.isEmpty) * 4 +
    b2n x.east.fenced * 2 + b2n x.west.fenced)

/-- The registers of an array, by offset from its base (R86). -/
def Mxa.read (x : Mxa) (off : Nat) : W64 :=
  match off with
  | 0x00 => x.asts
  | 0x08 => x.west.aflt
  | 0x10 => x.east.aflt
  | 0x18 => x.arrayCols
  | 0x20 => x.colLo
  | 0x28 => x.colHi
  | 0x30 => BitVec.ofNat 64 (b2n x.rampLock * 2 ^ 63 + x.rampStep.toNat)
  | 0x38 => x.asrKey
  | 0x40 => x.asrTag.setWidth 64
  | _ => 0

/-- VSTS; `acc`: words are accepted and not issued (R130). -/
def Ve.vsts (x : Ve) (acc : Bool) : W64 :=
  BitVec.ofNat 64 (b2n x.faulted * 2 ^ 15 + b2n (acc || x.streamLoad) * 2 ^ 14 + x.vl.val)

/-- SFSTS (R161). -/
def Ve.sfsts (x : Ve) : W64 :=
  BitVec.ofNat 64 (x.ldCode.toNat * 2 ^ 40 + x.ldSlot * 2 ^ 35 + x.ldBank * 2 ^ 34 + b2n (!x.loads.isEmpty) * 2 ^ 33)

/-- The registers of a vector engine, by offset from 0x0200 + e · 0x40 (R129). -/
def Ve.read (x : Ve) (acc : Bool) (off : Nat) : W64 :=
  match off with
  | 0x00 => x.vsts acc
  | 0x08 => x.vflt
  | 0x10 => x.keyRng
  | 0x18 => x.keySr
  | _ => 0

/-- BSTS (R189) while the core is not halted. -/
def Core.liveBsts (k : Core) : W64 :=
  let sw (t : Nat) : Nat := b2n ((k.stream t).st == .swap)
  BitVec.ofNat 64 (b2n k.prog.isSome * 2 ^ 31 + b2n k.halted * 2 ^ 30 + b2n (k.lreq == .sent) * 2 ^ 29 +
    b2n k.denied * 2 ^ 28 + b2n (k.anySwap && !(k.csRetired || k.computeEmpty)) * 2 ^ 27 +
    b2n (k.anySwap && k.pfOut != 0) * 2 ^ 26 + b2n (k.anySwap && !k.tokensReady) * 2 ^ 25 +
    (sw 2 * 4 + sw 1 * 2 + sw 0) * 2 ^ 22 + b2n k.tovf * 2 ^ 21 + k.pfOut % 2 ^ 16)

/-- The bits of BSTS that say what the core waits on: LWAIT, CS_PEND, PF_PEND, TK_PEND, SWAPPED, PF_OUT (R186). -/
abbrev waitBits : W64 := 0x000000002FC0FFFF

/-- BSTS (R189). After a halt the wait bits show what the core waited on (R186). -/
def Core.bsts (k : Core) : W64 :=
  if k.halted then (k.liveBsts &&& ~~~waitBits) ||| (k.haltSts &&& waitBits) else k.liveBsts

/-- TWAIT (R190). After a halt it shows what the core waited on (R186). -/
def Core.twait (k : Core) : W64 :=
  if k.halted then k.haltWait
  else if k.anySwap then
    BitVec.ofNat 64 (((List.range 64).map fun i => if k.waitMask.getLsbD i ∧ k.tcOf i = 0 then 2 ^ i else 0).sum)
  else 0

/-- Blocks of the staging buffer in use (R172). -/
def Core.blocks (k : Core) : Nat := (k.running.map fun t => 2 ^ seWin t.w0).sum

/-- Commands in the SE command queue: a POST past the head no longer stands there (R171, R173). -/
def Core.seQueue (k : Core) : List SeCmd := k.seq.filter fun e => e.stage != .posting

/-- SESTS (R193). -/
def Core.sests (k : Core) : W64 :=
  BitVec.ofNat 64 (k.seQueue.length * 2 ^ 40 + k.running.length * 2 ^ 32 + (64 - k.blocks))

/-- CPSTS (R217). -/
def Core.cpsts (k : Core) : W64 :=
  BitVec.ofNat 64 ((k.cpq.length + b2n k.copy.isSome) * 2 ^ 32 + k.cpLast.toNat * 2 ^ 24 + b2n k.cpStaging * 2 +
    b2n k.copy.isSome)

/-- SSTSn (R249). -/
def Stream.ssts (x : Stream) : W64 := BitVec.ofNat 64 (x.st.code * 2 ^ 21 + x.vtgt * 2 ^ 16 + x.pc % 16384)

/-- LGRANT (R494). -/
def Core.lgrant (k : Core) : W64 :=
  BitVec.ofNat 64 (k.clips.toNat * 2 ^ 32 + k.lgReq.toNat * 2 ^ 16 + k.grant % 2 ^ 16)

/-- The offset within a core's block names a register. -/
def coreAssigned (off : Nat) : Bool :=
  off == 0x40 || (decide (0x100 ≤ off) && decide (off < 0x200) && decide (off % 0x80 ≤ 0x40)) ||
  (decide (0x200 ≤ off) && decide (off < 0x280) && decide (off % 0x40 ≤ 0x18)) ||
  (decide (0x280 ≤ off) && decide (off ≤ 0x2C0)) ||
  (decide (0x300 ≤ off) && decide (off < 0x380) && decide (off % 0x40 ≤ 0x08)) ||
  (decide (0x400 ≤ off) && decide (off ≤ 0x420)) || (decide (0x600 ≤ off) && decide (off < 0x680)) ||
  (decide (0x800 ≤ off) && decide (off < 0xA00)) || off == 0xA00 || off == 0xA08 ||
  (decide (0xC00 ≤ off) && decide (off ≤ 0xC30)) || (decide (0xE00 ≤ off) && decide (off ≤ 0xE18)) || off == 0xE40 ||
  off == 0x1000

/-- What the 64-bit register at an offset of a core's block reads. -/
def Core.read (k : Core) (off : Nat) : W64 :=
  if off = 0x40 then k.astat.setWidth 64
  else if 0x100 ≤ off ∧ off < 0x200 then (k.mxa ((off - 0x100) / 0x80)).read (off % 0x80)
  else if 0x200 ≤ off ∧ off < 0x280 then
    let e := (off - 0x200) / 0x40
    (k.ve e).read (!(k.accOf e).isEmpty) (off % 0x40)
  else if 0x280 ≤ off ∧ off < 0x2C0 then look 0 ((off - 0x280) / 8) k.m
  else if off = 0x2C0 then k.mstat.setWidth 64
  else if 0x300 ≤ off ∧ off < 0x380 then
    let x := k.ve ((off - 0x300) / 0x40)
    match off % 0x40 with
    | 0x00 => BitVec.ofNat 64 x.bankSel
    | 0x08 => x.sfsts
    | _ => 0
  else if off = 0x400 then k.beat
  else if off = 0x408 then k.bsts
  else if off = 0x410 then k.twait
  else if off = 0x418 then BitVec.ofNat 64 (b2n k.wdLock * 2 ^ 63 + k.wdLimit.toNat)
  else if off = 0x420 then k.sests
  else if 0x600 ≤ off ∧ off < 0x680 then look 0 ((off - 0x600) / 8) k.db
  else if 0x800 ≤ off ∧ off < 0xA00 then (k.tcOf ((off - 0x800) / 8)).setWidth 64
  else if off = 0xA00 then k.xflt
  else if off = 0xA08 then k.cpsts
  else if off = 0xC00 then k.cfg
  else if 0xC08 ≤ off ∧ off < 0xC20 then (k.stream ((off - 0xC08) / 8)).ssts
  else if 0xC20 ≤ off ∧ off ≤ 0xC30 then (k.stream ((off - 0xC20) / 8)).sexc
  else if off = 0xE00 then k.gnf
  else if off = 0xE10 then k.ugsts
  else if off = 0xE18 then k.skipcnt.setWidth 64
  else if off = 0xE40 then k.lgrant
  else 0

/-! ### Writing; `m` marks the bits an access reaches (R10, R34) -/

/-- An RW field of mask f: the written bits replace the old ones (R11, R12). -/
def wrField (old v m f : W64) : W64 := (old &&& ~~~(f &&& m)) ||| (v &&& f &&& m)

/-- A W1C field (R11). -/
def w1c (old v m : W64) : W64 := old &&& ~~~(v &&& m)

/-- A W1S bit (R11). -/
def w1s (old : Bool) (v m : W64) (i : Nat) : Bool := old || (v &&& m).getLsbD i

/-- A write to a register of an array (R91, R94, R95). Software may not write the column masks. -/
def Mxa.write (x : Mxa) (fw : Bool) (off : Nat) (v m : W64) : Mxa :=
  match off with
  | 0x20 => if fw then { x with pendLo := some (wrField (x.pendLo.getD x.colLo) v m (-1)) } else x
  | 0x28 => if fw then { x with pendHi := some (wrField (x.pendHi.getD x.colHi) v m (-1)) } else x
  | 0x30 =>
    { x with
      rampStep := if x.rampLock then x.rampStep else (wrField (x.rampStep.setWidth 64) v m 0xFF).setWidth 8
      rampLock := w1s x.rampLock v m 63 }
  | 0x38 => { x with asrKey := wrField x.asrKey v m (-1) }
  | 0x40 => { x with asrTag := (wrField (x.asrTag.setWidth 64) v m 0xFFFFFFFF).setWidth 32 }
  | _ => x

/-- A DBn write: pending until the next beat start while a program runs, else at once (R177). A 32-bit access changes
its half of the value last written. -/
def Core.writeDb (k : Core) (n : Nat) (v m : W64) : Core :=
  let old := ((look none n k.dbPend).getD (look 0 n k.db))
  let new := wrField old v m 0x43FFFFFFFF01FFFF
  let k := { k with dbPend := put none n (some new) k.dbPend }
  if k.prog.isSome then k else k.applyDb

/-- A write to a register of a core's block. `fw`: firmware; a stream's CSRW otherwise. Registers with a behaviour of
their own (UGATE, CECMD) are not written here. -/
def Core.write (k : Core) (fw : Bool) (off : Nat) (v m : W64) : Core :=
  if off = 0x40 then { k with astat := (w1c (k.astat.setWidth 64) v m).setWidth 32 }
  else if 0x100 ≤ off ∧ off < 0x200 then
    let a := (off - 0x100) / 0x80
    k.setMxa a ((k.mxa a).write fw (off % 0x80) v m)
  else if 0x200 ≤ off ∧ off < 0x280 then
    let e := (off - 0x200) / 0x40
    let x := k.ve e
    match off % 0x40 with
    | 0x10 => k.setVe e { x with keyRng := wrField x.keyRng v m (-1) }
    | 0x18 => k.setVe e { x with keySr := wrField x.keySr v m (-1) }
    | _ => k
  else if 0x300 ≤ off ∧ off < 0x380 then
    let e := (off - 0x300) / 0x40
    let x := k.ve e
    if fw ∧ off % 0x40 = 0 ∧ m.getLsbD 0 then k.setVe e { x with bankSel := b2n (v.getLsbD 0) } else k
  else if off = 0x408 then { k with tovf := k.tovf && !(v &&& m).getLsbD 21 }
  else if off = 0x418 then
    if fw then
      { k with
        wdLimit := if k.wdLock then k.wdLimit else (wrField (k.wdLimit.setWidth 64) v m 0xFFFFFFFF).setWidth 32
        wdLock := w1s k.wdLock v m 63 }
    else k
  else if 0x600 ≤ off ∧ off < 0x680 then k.writeDb ((off - 0x600) / 8) v m
  else if 0x800 ≤ off ∧ off < 0xA00 then
    let i := (off - 0x800) / 8
    if fw then { k with tc := put 0 i ((wrField ((k.tcOf i).setWidth 64) v m 0xFFFF).setWidth 16) k.tc } else k
  else if off = 0xE00 then if fw then { k with gnf := wrField k.gnf v m 0xFFFFFFFFFFFFFF07 } else k
  else k

end Sys2Proof.Machine
end

