-- ==== Sys2Proof/Machine/Operands.lean ====
section
/-! DEFINITION. Operand fields of CC words (R229) and vector words (R102), fetching, and when a stream's next
instruction may issue (R107, R123, R200, R229, R233, R234, R243). -/

namespace Sys2Proof.Machine

/-! ### CC words (R229) -/

def ccOp (w : W64) : Nat := fld w.toNat 63 56
def ccRd (w : W64) : Nat := fld w.toNat 55 51
def ccRa (w : W64) : Nat := fld w.toNat 50 46
def ccRb (w : W64) : Nat := fld w.toNat 45 41
def ccRc (w : W64) : Nat := fld w.toNat 40 36
def ccFn (w : W64) : Nat := fld w.toNat 35 32
def ccImm (w : W64) : Nat := fld w.toNat 31 0
/-- IMM sign-extended (R229). -/
def ccSimm (w : W64) : W64 := (w.setWidth 32).signExtend 64

/-! ### Vector words (R102) -/

def vOp (w : W64) : Nat := fld w.toNat 63 56
def vType (w : W64) : Nat := fld w.toNat 55 52
def vPred (w : W64) : Nat := fld w.toNat 51 49
def vZ (w : W64) : Bool := w.getLsbD 48
def vRm (w : W64) : Nat := fld w.toNat 47 45
def vSat (w : W64) : Bool := w.getLsbD 44
def vVd (w : W64) : Nat := fld w.toNat 43 39
def vVa (w : W64) : Nat := fld w.toNat 38 34
def vVb (w : W64) : Nat := fld w.toNat 33 29
def vVc (w : W64) : Nat := fld w.toNat 28 24
def vSx (w : W64) : Nat := fld w.toNat 23 19
def vTw (w : W64) : Nat := fld w.toNat 18 16
def vBcb (w : W64) : Nat := fld w.toNat 15 14
def vSmen (w : W64) : Bool := w.getLsbD 13
def vMs (w : W64) : Nat := fld w.toNat 12 10
def vImm (w : W64) : Nat := fld w.toNat 9 0
/-- The predicate a predicate result names, VD[41:39]; VA[36:34]; VB[31:29]; VC[26:24]. -/
def vPd (w : W64) : Nat := fld w.toNat 41 39
def vPa (w : W64) : Nat := fld w.toNat 36 34
def vPb (w : W64) : Nat := fld w.toNat 31 29
def vPc (w : W64) : Nat := fld w.toNat 26 24

/-! ### Fetching and issuing -/

/-- The core's units work: present, its die in RUN, no package safe state (R481, R524). -/
def State.coreRuns (s : State) (c : Nat) : Bool := s.coreOn c && !s.agg.safe

/-- What a stream's next instruction is. -/
inductive Fetch where
  /-- The stream issues nothing now. -/
  | nothing
  /-- The fetch itself is illegal: PC at or beyond CODELEN, or an uncorrectable word (R231). -/
  | bad (code : Byte)
  | word (w : W64)
  deriving DecidableEq, Repr

/-- A stream may issue: its program runs, it is in RUN or EXC, no exception waits to be taken, it has issued no END,
and no gate holds it (R178, R241, R243, R263). -/
def Core.mayIssue (k : Core) (t : Nat) : Bool :=
  let x := k.stream t
  k.prog.isSome && decide (t < 3) && (x.st == .run || x.st == .exc) && x.pend.isEmpty && !x.ending &&
  !(t == 2 && k.gate.isSome)

/-- The next instruction of a stream (R220, R231, R243); a control core halted through the debug port issues none
(R513). -/
def fetch (s : State) (c t : Nat) : Fetch :=
  let k := s.core c
  let pc := (k.stream t).pc
  if !s.coreRuns c || s.mgmt.halted.has c || !k.mayIssue t then .nothing
  else if pc ≥ k.codeLen then .bad Code.badParam
  else if k.codeBad.has pc then .bad Code.eccUncorr
  else .word (look 0 pc k.code)

/-- An illegal CC instruction: no effect, and an exception is raised for it (R231, R243). -/
def illegal (s : State) (c t : Nat) (code : Byte) (w : W64) (info : Nat) : State :=
  raise s c t ⟨code, 0, ccOp w, info, false⟩

/-- An illegal fetch: there is no opcode to record, so the record's OP is free (R231, R250, log 10). -/
def badFetch (s : State) (c t : Nat) (code : Byte) : State :=
  let (n, s) := freeNat s
  raise s c t ⟨code, 0, n % 256, 0, false⟩

/-- The stream goes on to its next instruction. -/
def Stream.advance (x : Stream) : Stream := { x with pc := x.pc + 1 }

/-- The CC opcodes that write RD (R230). -/
def ccWrites (op : Nat) : Bool :=
  (decide (0x80 ≤ op) && decide (op ≤ 0xB1)) || op == 0xB8 || (decide (0xBC ≤ op) && decide (op ≤ 0xBF)) || op == 0xC8 ||
  op == 0xE5

/-- RD is a scalar register that a vector word of the stream names, which has not issued at its engine (R229). Every word
is taken to name SX and SX + 1: a longer wait is timing. -/
def Core.sxHeld (k : Core) (t rd : Nat) : Bool :=
  rd != 0 && k.accWords.any fun a => a.stream == t && (vSx a.w == rd || vSx a.w + 1 == rd)

/-- One CC instruction of opcode op: `f` is its effect on the state whose stream has not moved yet. -/
def ccStep (s : State) (c t op : Nat) (f : Core → Stream → W64 → State) : State :=
  match fetch s c t with
  | .nothing => s
  | .bad code => badFetch s c t code
  | .word w =>
    let k := s.core c
    if w.getLsbD 63 ∧ ccOp w = op then (if ccWrites op && k.sxHeld t (ccRd w) then s else f k (k.stream t) w) else s

/-- The stream moves on with one register written. -/
def setRd (s : State) (c t : Nat) (k : Core) (x : Stream) (rd : Nat) (v : W64) : State :=
  s.setCore c (k.setStream t (x.setReg rd v).advance)

/-- Flags join a byte of ASTAT: 0 and 1 the arrays, 2 and 3 the engines (R58). -/
def Core.flag (k : Core) (byte : Nat) (f : Byte) : Core := { k with astat := k.astat ||| (f.setWidth 32 <<< (8 * byte)) }

/-- Bits of one element of a format code (R35, R65). -/
def fmtBits : Nat → Nat
  | 5 => 6 | 6 => 6 | 7 => 4 | 8 => 16 | 9 => 16 | 10 => 32 | _ => 8

/-! ### Waits -/

/-- Array queue entries of a core that have not run. -/
def Mxa.waitingCmds (x : Mxa) : List ArrCmd := (x.west.queue ++ x.east.queue).filter fun e => e.done.isNone
def Core.waitingCmds (k : Core) : List ArrCmd := k.mxa0.waitingCmds ++ k.mxa1.waitingCmds

/-- A DRAIN, and its DEST (R74). -/
def isDrain (e : ArrCmd) (dest : Bool) : Bool := fld e.w0.toNat 63 60 == 3 && e.w0.getLsbD 48 == dest

/-- A DRAIN to the working store, a VST or a VSCATTER of stream t, issued before number n, has not run: its addresses are
not yet known, so it counts as writing every granule (R107, R200, R234). -/
def Core.drainWaits (k : Core) (t n : Nat) : Bool :=
  (k.waitingCmds.any fun e => e.stream == t && decide (e.id < n) && isDrain e false) ||
  k.accWords.any fun a => a.stream == t && decide (a.id < n) && (vOp a.w == 0x49 || vOp a.w == 0x4B)

/-- Every earlier vector word of the stream has issued at its engine, and every earlier array, SE and copy command has
started (R234). -/
def Core.allStarted (k : Core) (t : Nat) : Bool :=
  (k.accWords.all fun a => a.stream != t) && (k.waitingCmds.all fun e => e.stream != t) &&
  (k.seq.all fun e => e.stream != t || e.stage == .posting) && (k.cpq.all fun e => e.stream != t)

/-- Descriptor bytes of the stream's SE and copy commands that have not been read: offsets of 128-byte descriptors
(R200, R234). `n` limits it to commands issued before number n. -/
def Core.unreadDescs (k : Core) (t n : Nat) : List Nat :=
  ((k.seq.filter fun e => e.stream == t && decide (e.id < n) && e.stage == .queued && seOp e.w0 != 3).map fun e => seDesc e.w1) ++
  ((k.cpq.filter fun e => e.stream == t && decide (e.id < n)).flatMap fun e => [fld e.w0.toNat 23 0, fld e.w1.toNat 23 0])

/-- A write of [off, off + n) would change descriptor bytes that have not been read (R200, R234). -/
def Core.hitsDesc (k : Core) (t num off n : Nat) : Bool :=
  (k.unreadDescs t num).any fun d => decide (d < off + n) && decide (off < d + 128)

/-- A summary register has a write that was issued before number n and has not been made (R123). -/
def Core.summaryWaits (k : Core) (i n : Nat) : Bool :=
  let f (x : Ve) : Bool := x.loads.any fun l => match l.origin with | .stream _ ms => ms == i | .host _ => false
  f k.ve0 || f k.ve1 || k.accWords.any fun a => decide (a.id < n) && vSmen a.w && vMs a.w == i

/-- Registers of VEe that drains waiting at MXAe, issued before number n, will write (R75, R106). -/
def drainRegs (x : Mxa) (n : Nat) : List Nat :=
  (x.waitingCmds.filter fun e => isDrain e true && decide (e.id < n)).flatMap fun e =>
    let w := e.w0.toNat
    (List.range ((fld w 2 0 + fld w 38 29 + 7) / 8)).map (fld w 7 3 + ·)

end Sys2Proof.Machine
end

