-- ==== Sys2Proof/Machine/ArrayOps.lean ====
section
/-! DEFINITION. Shared operations of the matrix arrays: formats and pairings (R65, R66), element layout (R197), checks
common to all commands (R69), completion, faults, poison and the fence (R84, R85), and ledger bookings (R483, R486). -/

namespace Sys2Proof.Machine

/-! ### Formats -/

/-- An MX format code. -/
def fmtMx (f : Nat) : Bool := decide (3 ≤ f) && decide (f ≤ 7)

/-- Bytes that hold n elements of a format: blocks of w-bit elements are packed bit by bit (R197). -/
def fmtBytes (f n : Nat) : Nat := (n * fmtBits f + 7) / 8

/-- Element i of a packed row. -/
def packedElem (f : Nat) (bs : List Byte) (i : Nat) : Nat :=
  let w := fmtBits f
  fieldAt bs (w * i / 8) 5 / 2 ^ (w * i % 8) % 2 ^ w

/-- The value of an element's bits with its block scale (R35, R36); FP32's stored halves are BF16. -/
def fmtValue (f : Nat) (scale : Byte) (bits : Nat) : FVal :=
  match f with
  | 1 => fmtE4M3.decode bits
  | 2 => fmtE5M2.decode bits
  | 3 => mxElement scale.toNat (fmtE4M3.decode bits)
  | 4 => mxElement scale.toNat (fmtE5M2.decode bits)
  | 5 => mxElement scale.toNat (fmtE3M2.decode bits)
  | 6 => mxElement scale.toNat (fmtE2M3.decode bits)
  | 7 => mxElement scale.toNat (fmtE2M1.decode bits)
  | 9 => fmtFP16.decode bits
  | _ => fmtBF16.decode bits

/-- The pairings of R66. -/
def pairingOk (fs fm : Nat) : Bool :=
  let low (f : Nat) : Bool := decide (1 ≤ f) && decide (f ≤ 7)
  let wide (f : Nat) : Bool := f == 8 || f == 9
  (fs == 0 && fm == 0) || (fs == 10 && fm == 10) || (low fs && low fm) || (wide fs && (low fm || wide fm)) ||
  (wide fm && (low fs || wide fs))

/-- The charge C of a pass (R483). -/
def passCharge (split : Bool) (fs fm rows : Nat) : Nat :=
  let g := (rows + 15) / 16
  let full := if fs = 7 ∧ fm = 7 then 16 else 12
  ((if split then full / 2 else full) * g + 7) / 8

/-! ### Spans and columns -/

/-- The half a queue's commands act on: half 0 is the whole array in whole mode (R82). -/
def Mxa.span (x : Mxa) (q : Nat) : Nat := if x.split then q else 0

/-- First physical column of a span, and the number of its columns. -/
def Mxa.base (x : Mxa) (h : Nat) : Nat := if x.split ∧ h = 1 then 64 else 0
def Mxa.width (x : Mxa) : Nat := if x.split then 64 else 128

/-- In-service physical columns of a span: logical column L is entry L (R89). -/
def Mxa.cols (x : Mxa) (h : Nat) : List Nat := (upFrom (x.base h) x.width).filter x.colOn

/-- The accumulator banks of a span. -/
def Mxa.banks (x : Mxa) (h : Nat) : List Nat := if x.split then [h] else [0, 1]

/-- Keys of the poison bits of rows lo to lo + n − 1 of a span. -/
def Mxa.poisonKeys (x : Mxa) (h lo n : Nat) : List Nat := (x.banks h).flatMap fun b => upFrom (b * 512 + lo) n

/-- A key of a stationary register, and of a container. -/
def cellKey (set row col : Nat) : Nat := (set * 128 + row) * 128 + col
def accKey (row col : Nat) : Nat := row * 128 + col

/-- Adds or removes a list of members. -/
def NatSet.addAll (x : NatSet) (l : List Nat) : NatSet := l.foldl NatSet.add x
def NatSet.delAll (x : NatSet) (l : List Nat) : NatSet := l.foldl NatSet.del x

/-! ### Commands -/

def arOp (e : ArrCmd) : Nat := fld e.w0.toNat 63 60
def arHalf (e : ArrCmd) : Nat := fld e.w0.toNat 59 58
def arSet (e : ArrCmd) : Nat := fld e.w0.toNat 57 57
def arAddr (e : ArrCmd) : Nat := fld e.w0.toNat 23 0

/-- Changes one array. -/
def Core.modMxa (k : Core) (a : Nat) (f : Mxa → Mxa) : Core := k.setMxa a (f (k.mxa a))
def State.modMxa (s : State) (c a : Nat) (f : Mxa → Mxa) : State := s.modCore c fun k => k.modMxa a f

/-- The command runs to its end with a status, which ARRAY_COMMAND_COMPLETE reports (R68). -/
def Half.finish (h : Half) (id : Nat) (code : Byte) : Half :=
  { h with queue := h.queue.map fun e => if e.id = id then { e with done := some code } else e }

/-- Stationary sets an LDST targets: an FP32 one both (R71, R79). -/
def ldstSets (e : ArrCmd) : List Nat := if fld e.w0.toNat 55 52 = 10 then [0, 1] else [arSet e]

/-- An LDST that is aborted or ends with an error leaves its set invalid (R79). -/
def Half.invalidate (h : Half) (e : ArrCmd) : Half :=
  if arOp e = 1 then (ldstSets e).foldl (fun h i => h.putSet i { h.set i with valid := false }) h else h

/-- Ends command e of queue q with a status. -/
def finish (s : State) (c a q : Nat) (e : ArrCmd) (code : Byte) : State :=
  s.modMxa c a fun m => m.modHalf q fun h => h.finish e.id code

/-- The halves whose sets a command of queue q names: HALF = 0b00 names the whole array, in split mode both halves. -/
def Mxa.named (m : Mxa) (q : Nat) (e : ArrCmd) : List Nat :=
  if m.split ∧ q = 0 ∧ arHalf e = 0 then [0, 1] else [m.span q]

/-- Ends command e of queue q with an error that stops it before it has any effect; the sets an LDST names become
invalid (R79). -/
def refuse (s : State) (c a q : Nat) (e : ArrCmd) (code : Byte) : State :=
  let s := finish s c a q e code
  s.modMxa c a fun m => (m.named q e).foldl (fun m h => m.modHalf h fun x => x.invalidate e) m

/-- AFLT (R88). -/
def afltWord (code : Byte) (col row count : Nat) : W64 :=
  BitVec.ofNat 64 (code.toNat * 2 ^ 32 + col % 256 * 2 ^ 24 + row % 512 * 2 ^ 10 + count % 1024)

/-- The checks of R69 that come before a command's own: its opcode, HALF, and HALF against the mode. -/
def commonCheck (x : Mxa) (e : ArrCmd) : Option Byte :=
  if arOp e = 0 ∨ 6 < arOp e then some Code.badCmd
  else if arHalf e = 3 then some Code.badParam
  else if arHalf e ≠ 0 ∧ (!x.split ∨ arOp e = 5) then some Code.badParam
  else if arHalf e = 0 ∧ x.split ∧ arOp e ≠ 5 then some Code.badParam
  else none

/-- The key of a half's self-test state. -/
def testKey (c a h : Nat) : Nat := c * 4 + 2 * a + h

/-- The next command after a failed self-test that found the queue empty completes with E_ARRAY_FAULT; a pass poisons
its rows (R520). -/
def failWaiting (s : State) (c a q : Nat) (e : ArrCmd) : State :=
  let key := testKey c a q
  let t := look .reset key s.agg.tests
  let s := { s with agg := { s.agg with tests := put .reset key { t with failNext := false } s.agg.tests } }
  let s := refuse s c a q e Code.arrayFault
  if arOp e = 2 then
    s.modMxa c a fun m =>
      { m with poison := m.poison.addAll (m.poisonKeys (m.span q) (fld e.w1.toNat 53 45) (fld e.w1.toNat 63 54)) }
  else s

/-- The first command of a queue that has not run. -/
def Half.head (h : Half) : Option ArrCmd := h.queue.find? fun e => e.done.isNone

/-- One command of a queue: `sel` says which opcodes the step is for; `f` is its own checks and effect. A fenced half
ends every command but AACK (R84 step 3). -/
def arrStep (s : State) (c a q : Nat) (sel : Nat → Bool) (f : State → Mxa → ArrCmd → State) : State :=
  if !s.coreRuns c || decide (2 ≤ a) || decide (2 ≤ q) then s
  else
    let m := (s.core c).mxa a
    match (m.half q).head with
    | none => s
    | some e =>
      if !sel (arOp e) then s
      else if (m.half q).fenced ∧ arOp e ≠ 6 then
        if (look .reset (testKey c a q) s.agg.tests).failNext then failWaiting s c a q e
        else refuse s c a q e Code.aborted
      else match commonCheck m e with
        | some code => refuse s c a q e code
        | none => f s m e

/-- Both stationary sets of both halves become invalid. -/
def Mxa.invalidateAll (m : Mxa) : Mxa :=
  let inv (h : Half) : Half := { h with set0 := { h.set0 with valid := false }, set1 := { h.set1 with valid := false } }
  { m with west := inv m.west, east := inv m.east }

/-- The two halves' activity becomes the whole array's: the greater level, the charges, bookings and tails of both
(log 110). -/
def Half.joinRamp (w e : Half) : Half :=
  { w with level := max w.level e.level, charge := w.charge + e.charge, book := w.book + e.book, tails := w.tails ++ e.tails }

/-- Selects whole or split mode (R76). The spec does not say what becomes of the ramp: its level goes to both halves with
half the charge and the booking each, or the halves' join (log 110). -/
def Mxa.setMode (m : Mxa) (split : Bool) : Mxa :=
  let n := m.invalidateAll
  let w := n.west
  let e := n.east
  if split = m.split then n
  else if split then
    { n with split := true
             west := { w with charge := w.charge - w.charge / 2, book := w.book - w.book / 2 }
             east := { e with level := w.level, charge := w.charge / 2, book := w.book / 2 } }
  else { n with split := false, west := w.joinRamp e, east := { e with level := 0, charge := 0, book := 0, tails := [] } }

/-- Lifts the fence of a half (R76). -/
def Half.unfence (h : Half) : Half := { h with fenced := false }

/-- A working-store range a feeder reads (R71, R73, R168). -/
def feed (s : State) (c off n : Nat) : State × Option Byte :=
  if wsSize < off + n then (s, some Code.xlate) else wsCheck s c off n

/-- Reads ranges in order, up to the first that fails: its index and the status. -/
def feedAll (s : State) (c : Nat) : List (Nat × Nat) → Nat → State × Option (Nat × Byte)
  | [], _ => (s, none)
  | (off, n) :: rs, i =>
    match feed s c off n with
    | (s, some e) => (s, some (i, e))
    | (s, none) => feedAll s c rs (i + 1)

/-- Some of the flags f, a free choice. -/
def freeFlags (s : State) (f : Byte) : Byte × State :=
  let (n, s) := freeNat s
  (BitVec.ofNat 8 n &&& f, s)

/-- A container with its reserved bits zero: [7:0], and of an INT48 one [15:8] too (R39, R40). -/
def container (isInt : Bool) (n : Nat) : W64 :=
  let b := if isInt then 16 else 8
  BitVec.ofNat 64 (n / 2 ^ b * 2 ^ b)

/-- Gives containers free values, as a pass of their kind leaves them. -/
def freeAcc (s : State) (c a : Nat) (isInt : Bool) (keys : List Nat) : State :=
  let vs := (upFrom s.free keys.length).map fun n => container isInt (Config.freeNat n)
  { s with free := s.free + keys.length }.modMxa c a fun m =>
    { m with acc := putAll 0 (keys.zip vs) m.acc, accBad := m.accBad.delAll keys
             accInt := if isInt then m.accInt.addAll keys else m.accInt.delAll keys }

/-- Gives lanes of a vector engine free values. -/
def freeLanes (s : State) (c e : Nat) (keys : List Nat) : State :=
  let vs := (upFrom s.free keys.length).map fun n => BitVec.ofNat 32 (Config.freeNat n)
  { s with free := s.free + keys.length }.modCore c fun k =>
    let x := k.ve e
    k.setVe e { x with v := putAll 0 (keys.zip vs) x.v, bad := x.bad.delAll keys }

end Sys2Proof.Machine
end

