-- ==== Sys2Proof/Machine/ArrayForms.lean ====
section
/-! DEFINITION. The array commands as data: their fields, their checks, the values they read and make (R41 to R47, R70 to
R75, R80). -/

namespace Sys2Proof.Machine

/-! ### LDST (R70, R71) -/

/-- Fields of LDST. -/
def ldT (e : ArrCmd) : Bool := e.w0.getLsbD 56
def ldFmt (e : ArrCmd) : Nat := fld e.w0.toNat 55 52
def ldRows (e : ArrCmd) : Nat := fld e.w0.toNat 51 44
def ldStride (e : ArrCmd) : Nat := fld e.w0.toNat 43 24
def ldSaddr (e : ArrCmd) : Nat := fld e.w1.toNat 23 0

/-- The checks on LDST, in the order of R71; OK_EMPTY when it loads no row (R567). -/
def ldstCheck (e : ArrCmd) : Option Byte :=
  let f := ldFmt e
  if fld e.w1.toNat 63 24 ≠ 0 ∨ 10 < f ∨ (fmtMx f ∧ ldT e) then some Code.badParam
  else if ldRows e = 0 then some Code.okEmpty
  else if 128 < ldRows e ∨ arAddr e % 64 ≠ 0 ∨ ldStride e % 64 ≠ 0 ∨ (fmtMx f ∧ ldSaddr e % 4 ≠ 0) then some Code.badParam
  else none

/-- Source ranges of an LDST: its rows, and the scale bytes of each logical column (R71). -/
def ldstRanges (e : ArrCmd) (w : Nat) : List (Nat × Nat) :=
  let n := if ldT e then w else ldRows e
  let m := if ldT e then ldRows e else w
  (List.range n).map (fun i => (arAddr e + i * ldStride e, fmtBytes (ldFmt e) m)) ++
  (if fmtMx (ldFmt e) then (List.range w).map fun j => (ldSaddr e + 4 * j, (ldRows e + 31) / 32) else [])

/-- The element for row i, logical column j. -/
def ldstElem (s : State) (c : Nat) (e : ArrCmd) (w i j : Nat) : Nat :=
  let r := if ldT e then j else i
  let p := if ldT e then i else j
  let n := if ldT e then ldRows e else w
  packedElem (ldFmt e) (s.ws c (arAddr e + r * ldStride e) (fmtBytes (ldFmt e) n)) p

/-- The scale of rows 32b to 32b + 31 of logical column j (R71). -/
def ldstScale (s : State) (c : Nat) (e : ArrCmd) (i j : Nat) : Byte :=
  if fmtMx (ldFmt e) then s.byte (wsPa c (ldSaddr e + 4 * j + i / 32)) else 0

/-- BF16 encodings of the two halves of an FP32 operand (R45, R46). -/
def fp32Halves (bits : Nat) : Nat × Nat :=
  let x := fmtFP32.decode bits
  match x with
  | .nan true => (0x7FA0, 0)
  | .nan false => (0x7FC0, 0)
  | .inf n => (fmtBF16.withSign n fmtBF16.infBits, 0)
  | .num d =>
    let h := fmtBF16.roundNum .rne true d
    match fmtBF16.decode h.bits with
    | .num y => (h.bits, (fmtBF16.roundNum .rne true (d.add y.negate false)).bits)
    | _ => (h.bits, 0)

/-- The stationary registers that the first n steps of a load write: (key, bits, scale). -/
def ldstCells (s : State) (c : Nat) (e : ArrCmd) (cols : List Nat) : List (Nat × Nat × Byte) :=
  (List.range (ldRows e)).flatMap fun i => (List.range cols.length).flatMap fun j =>
    let p := cols.getD j 0
    let b := ldstElem s c e cols.length i j
    if ldFmt e = 10 then
      let h := fp32Halves b
      [(cellKey (arSet e) i p, h.1, 0), (cellKey (1 - arSet e) i p, h.2, 0)]
    else [(cellKey (arSet e) i p, b, ldstScale s c e i j)]

/-- Writes stationary registers. -/
def Mxa.load (m : Mxa) (l : List (Nat × Nat × Byte)) : Mxa :=
  { m with cells := putAll 0 (l.map fun p => (p.1, BitVec.ofNat 16 p.2.1)) m.cells,
           scales := putAll 0 (l.map fun p => (p.1, p.2.2)) m.scales }

/-- Gives stationary registers free values: a stopped load leaves its set partly written (R79). -/
def freeCells (s : State) (c a : Nat) (keys : List Nat) : State :=
  let f := s.free
  { s with free := f + 2 * keys.length }.modMxa c a fun m =>
    m.load ((keys.zip (upFrom f keys.length)).map fun (p : Nat × Nat) =>
      (p.1, Config.freeNat p.2, Config.freeByte (p.2 + keys.length)))

/-- The sets' states after a load of format f into a set (R73, R79). -/
def Half.loaded (h : Half) (e : ArrCmd) : Half :=
  let h := h.putSet (arSet e) ⟨true, ldFmt e, false⟩
  if ldFmt e = 10 then h.putSet (1 - arSet e) ⟨true, 10, true⟩ else h

/-! ### PASS (R72, R73) -/

def paAcc (e : ArrCmd) : Bool := e.w0.getLsbD 56
def paFs (e : ArrCmd) : Nat := fld e.w0.toNat 55 52
def paFm (e : ArrCmd) : Nat := fld e.w0.toNat 51 48
def paRows (e : ArrCmd) : Nat := fld e.w0.toNat 47 40
def paCols (e : ArrCmd) : Nat := fld e.w0.toNat 39 32
def paM (e : ArrCmd) : Nat := fld e.w1.toNat 63 54
def paRow (e : ArrCmd) : Nat := fld e.w1.toNat 53 45
def paStride (e : ArrCmd) : Nat := fld e.w1.toNat 43 24
def paSaddr (e : ArrCmd) : Nat := fld e.w1.toNat 23 0

/-- The checks on PASS against the widths and sets of its half. An FP32 pass whose other set no longer holds lo(a) is
refused as one whose SET holds no valid load: the model's choice (log 109). -/
def passCheck (h : Half) (width : Nat) (e : ArrCmd) : Option Byte :=
  let i := arSet e
  let x := h.set i
  let y := h.set (1 - i)
  if fld e.w0.toNat 31 24 ≠ 0 ∨ e.w1.getLsbD 44 then some Code.badParam
  else if paRows e = 0 ∨ paCols e = 0 ∨ 128 < paRows e ∨ width < paCols e then some Code.badParam
  else if 512 < paRow e + paM e ∨ arAddr e % 64 ≠ 0 ∨ paStride e % 64 ≠ 0 ∨ paSaddr e % 4 ≠ 0 then some Code.badParam
  else if !pairingOk (paFs e) (paFm e) then some Code.badParam
  else if !x.valid ∨ x.fmt ≠ paFs e ∨ x.lo then some Code.badParam
  else if paFs e = 10 ∧ (!y.valid ∨ !y.lo) then some Code.badParam
  else if paM e = 0 then some Code.okEmpty
  else none

/-- The source ranges of moving vector k: its elements, and its scales if it is MX (R73). -/
def passRanges (e : ArrCmd) (k : Nat) : List (Nat × Nat) :=
  (arAddr e + k * paStride e, fmtBytes (paFm e) (paRows e)) ::
  (if fmtMx (paFm e) then [(paSaddr e + 4 * k, (paRows e + 31) / 32)] else [])

/-- Containers of the pass's target rows and columns; in whole mode logical column j is accumulator column j, in split
mode the east half starts at 64 (R80). -/
def passKeys (m : Mxa) (h : Nat) (e : ArrCmd) : List Nat :=
  (upFrom (paRow e) (paM e)).flatMap fun r => (upFrom (m.base h) (paCols e)).map fun j => accKey r j

/-- The moving elements of vector k, as values, or for FP32 and INT8 as bits. -/
def passBits (s : State) (c : Nat) (e : ArrCmd) (k : Nat) : List Nat :=
  let bs := s.ws c (arAddr e + k * paStride e) (fmtBytes (paFm e) (paRows e))
  (List.range (paRows e)).map fun i => packedElem (paFm e) bs i
def passValues (s : State) (c : Nat) (e : ArrCmd) (k : Nat) : List FVal :=
  let sc (i : Nat) : Byte := if fmtMx (paFm e) then s.byte (wsPa c (paSaddr e + 4 * k + i / 32)) else 0
  if paFm e = 10 then (passBits s c e k).map fmtFP32.decode
  else (List.range (paRows e)).zipWith (fun i b => fmtValue (paFm e) (sc i) b) (passBits s c e k)

/-- A stationary register's value in a set. -/
def Mxa.cellValue (m : Mxa) (f set i p : Nat) : FVal :=
  fmtValue f (look 0 (cellKey set i p) m.scales) (look 0 (cellKey set i p) m.cells).toNat

/-- The product of a stationary FP32 operand, given by its halves, with a moving one in pass n (R45, R46). -/
def fp32Cell (n : Nat) (hi lo b : FVal) : FVal × Bool :=
  if n = 2 then fmul hi (fp32Hi b)
  else if hi.isFinite && b.isFinite then (if n = 0 then fmul hi (fp32Lo b) else fmul lo (fp32Hi b))
  else (.num (dyZero false), false)

/-- One container after one moving vector: what column sums make of it, and the flags (R41 to R46). -/
def passCell (m : Mxa) (e : ArrCmd) (p : Nat) (old : Option W64) (vals : List FVal) (bits : List Nat) : W64 × Byte :=
  let set := arSet e
  let rows := List.range (paRows e)
  match paFs e with
  | 0 => columnSumInt old (rows.zipWith (fun i b => sext 8 (look 0 (cellKey set i p) m.cells).toNat * sext 8 b) bits)
  | 10 =>
    let prods (n : Nat) : List (FVal × Bool) :=
      rows.zipWith (fun i b => fp32Cell n (m.cellValue 10 set i p) (m.cellValue 10 (1 - set) i p) b) vals
    let r0 := columnSum old (prods 0)
    let r1 := columnSum (some r0.1) (prods 1)
    let r2 := columnSum (some r1.1) (prods 2)
    (r2.1, r0.2 ||| r1.2 ||| r2.2)
  | f => columnSum old (rows.zipWith (fun i b => fmul (m.cellValue f set i p) b) vals)

/-- Every container a pass writes, with the flags its value raises. -/
def passResults (s : State) (c : Nat) (m : Mxa) (h : Nat) (e : ArrCmd) : List (Nat × W64 × Byte) :=
  let cols := m.cols h
  (List.range (paM e)).flatMap fun k =>
    let vals := passValues s c e k
    let bits := passBits s c e k
    (List.range (paCols e)).map fun j =>
      let key := accKey (paRow e + k) (m.base h + j)
      (key, passCell m e (cols.getD j 0) (if paAcc e then some (look 0 key m.acc) else none) vals bits)

/-! ### DRAIN and ZERO (R74 to R76) -/

def drRm (e : ArrCmd) : Nat := fld e.w0.toNat 55 53
def drFmt (e : ArrCmd) : Nat := fld e.w0.toNat 52 49
def drDest (e : ArrCmd) : Bool := e.w0.getLsbD 48
def drRow (e : ArrCmd) : Nat := fld e.w0.toNat 47 39
def drN (e : ArrCmd) : Nat := fld e.w0.toNat 38 29
def drReg (e : ArrCmd) : Nat := fld e.w0.toNat 7 3
def drSlot (e : ArrCmd) : Nat := fld e.w0.toNat 2 0

/-- Bytes of a DFMT's target. -/
def drBytes (e : ArrCmd) : Nat := [8, 4, 2, 2, 1, 1, 4, 1].getD (drFmt e) 1

/-- The checks on DRAIN. -/
def drainCheck (e : ArrCmd) : Option Byte :=
  if fld e.w0.toNat 28 24 ≠ 0 ∨ (drDest e ∧ fld e.w0.toNat 23 8 ≠ 0) then some Code.badParam
  else if 8 ≤ drFmt e ∨ 6 ≤ drRm e then some Code.badParam
  else if drRm e = 5 ∧ (drFmt e < 2 ∨ 5 < drFmt e) then some Code.badParam
  else if drDest e ∧ drFmt e ≠ 1 ∧ drFmt e ≠ 6 then some Code.badParam
  else if drDest e ∧ drN e ≠ 0 ∧ 31 < drReg e + (drSlot e + drN e - 1) / 8 then some Code.badParam
  else if 512 < drRow e + drN e ∨ (!drDest e ∧ arAddr e % 64 ≠ 0) then some Code.badParam
  else if drN e = 0 then some Code.okEmpty
  else none

/-- The rounding mode of a 3-bit code; SR takes its draw (R48, R51). -/
def rmOf (code u : Nat) : RMode :=
  match code with
  | 0 => .rne | 1 => .rz | 2 => .rd | 3 => .ru | 4 => .rna | _ => .sr u

/-- One container converted for a drain (R47, R52, R53). -/
def drainValue (e : ArrCmd) (isInt : Bool) (rm : RMode) (w : W64) : Nat × Byte :=
  let sat := e.w0.getLsbD 56
  let v : FVal := if isInt then .num (dyInt (int48Value w)) else w48Value w
  let fp (f : Fmt) : Nat × Byte := let r := f.convert rm sat v; (r.bits, r.flags)
  match drFmt e with
  | 0 => (w.toNat, 0)
  | 1 => fp fmtFP32
  | 2 => fp fmtBF16
  | 3 => fp fmtFP16
  | 4 => fp fmtE4M3
  | 5 => fp fmtE5M2
  | 6 => let r := toInteger 32 rm v; (toBits 32 r.1, r.2)
  | _ => let r := toInteger 8 rm v; (toBits 8 r.1, r.2)

/-- The values of relative row i: accumulator column, bits and flags (R75). -/
def drainRowValues (m : Mxa) (h : Nat) (e : ArrCmd) (i : Nat) : List (Nat × Nat × Byte) :=
  (upFrom (m.base h) (m.cols h).length).map fun j =>
    let key := accKey (drRow e + i) j
    let rm := rmOf (drRm e) (srDraw m.asrKey.toNat m.asrTag.toNat (e.w1.toNat + i * 128 + j))
    (j, drainValue e (m.accInt.has key) rm (look 0 key m.acc))

/-- Offset of the value of accumulator column j in relative row i (R75). -/
def drainOff (m : Mxa) (h : Nat) (e : ArrCmd) (i j : Nat) : Nat :=
  arAddr e + i * m.width * drBytes e + (j - m.base h) * drBytes e

/-- Sets a drained row to +0 (CLR). -/
def Mxa.clearRow (m : Mxa) (h row : Nat) : Mxa :=
  let keys := (upFrom (m.base h) m.width).map fun j => accKey row j
  { m with acc := putAll 0 (keys.map fun k => (k, 0)) m.acc, accInt := m.accInt.delAll keys,
           accBad := m.accBad.delAll keys, written := m.written.addAll (m.poisonKeys h row 1) }

/-- A byte of the destination lies at or beyond 8 MiB: a check, so nothing is written (R69, R75). -/
def drainBeyond (m : Mxa) (h : Nat) (e : ArrCmd) : Bool :=
  let w := (m.cols h).length
  !drDest e && decide (0 < w) && decide (wsSize < drainOff m h e (drN e - 1) (m.base h + w - 1) + drBytes e)

end Sys2Proof.Machine
end

