-- ==== Sys2Proof/Machine/Array.lean ====
section
/-! DEFINITION. The array commands (R70 to R76, R79 to R85), their faults (R84), their completion (R68), column masks
(R91) and the ramp (R93). -/

namespace Sys2Proof.Machine

/-! ### Commands that stop (R84) -/

/-- What a pass that stops after its first n vectors has done. Rows written hold their results and have raised their
flags; where a column has failed, or the three passes of FP32 are under way, they hold free containers of the pass's kind
and have raised some of their flags (R45, R60, R64, log 11). -/
def stopPass (s : State) (c a : Nat) (m : Mxa) (h : Nat) (e : ArrCmd) (n : Nat) (exact : Bool) : State :=
  let rs := (passResults s c m h e).take (n * paCols e)
  let keys := rs.map (·.1)
  let flags := flagsOr (rs.map (·.2.2)) &&& arrayFlagMask
  let s := s.modMxa c a fun m => { m with written := m.written.addAll (m.poisonKeys h (paRow e) n) }
  let s := s.tally 0 0x04 c a n
  if exact ∧ paFs e ≠ 10 then
    (s.modMxa c a fun m =>
      { m with acc := putAll 0 (rs.map fun p => (p.1, p.2.1)) m.acc, accBad := m.accBad.delAll keys
               accInt := if paFs e = 0 then m.accInt.addAll keys else m.accInt.delAll keys }).modCore c
      fun k => k.flag a flags
  else
    let r := freeFlags s flags
    (freeAcc r.2 c a (paFs e == 0) keys).modCore c fun k => k.flag a r.1

/-- Lanes of a vector engine that relative row i of a drain writes (R75). -/
def drainLane (e : ArrCmd) (i j : Nat) : Nat :=
  let n := drSlot e + i
  (drReg e + n / 8) * 1024 + 128 * (n % 8) + j

/-- The destination of a drain that is aborted holds free values (R84, log 11); with CLR, rows it had read are +0; it has
raised some of its flags. -/
def stopDrain (s : State) (c a : Nat) (m : Mxa) (h : Nat) (e : ArrCmd) : State :=
  let cols := upFrom (m.base h) (m.cols h).length
  let cells := (List.range (drN e)).flatMap fun i => cols.map fun j => (i, j)
  let r := freeNat s
  let n := r.1 % (drN e + 1)
  let q := freeFlags r.2 (flagsOr ((List.range n).flatMap fun i => (drainRowValues m h e i).map (·.2.2)) &&& arrayFlagMask)
  let s := q.2.modCore c fun k => k.flag a q.1
  let s := if e.w0.getLsbD 57 then s.modMxa c a fun m => (upFrom (drRow e) n).foldl (fun m r => m.clearRow h r) m else s
  if drDest e then freeLanes s c a (cells.map fun p => drainLane e p.1 p.2)
  else scrambleAll s ((cells.flatMap fun p => upFrom (drainOff m h e p.1 p.2) (drBytes e)).map (wsPa c))

/-- What a command that is aborted, or stopped by a self-test, leaves behind. Whether a pass had started is open: a free
choice; one that had poisons all its target rows (R84 step 2). A load leaves its set partly written (R79). -/
def abortOne (s : State) (c a q : Nat) (e : ArrCmd) : State :=
  let m := (s.core c).mxa a
  let h := m.span q
  if (commonCheck m e).isSome then s
  else match arOp e with
    | 1 => if ldstCheck e = none then freeCells s c a ((ldstCells s c e (m.cols h)).map (·.1)) else s
    | 2 =>
      let r := freeNat s
      if passCheck (m.half h) (m.cols h).length e ≠ none ∨ r.1 % 2 = 0 then s
      else
        let n := freeNat r.2
        (stopPass n.2 c a m h e (n.1 % (paM e + 1)) true).modMxa c a fun m =>
          { m with poison := m.poison.addAll (m.poisonKeys h (paRow e) (paM e)) }
    | 3 => if drainCheck e = none ∧ !drainBeyond m h e then stopDrain s c a m h e else s
    | _ => s

/-- A command aborted behind a fault ends with E_ABORTED; an LDST leaves its sets invalid (R79, R84 step 2). -/
def abortCmd (s : State) (c a q : Nat) (e : ArrCmd) : State := refuse (abortOne s c a q e) c a q e Code.aborted

/-- Every later command of the queue that has not completed ends with E_ABORTED (R84 step 2). -/
def abortLater (s : State) (c a q : Nat) : State :=
  (((((s.core c).mxa a).half q).queue).filter fun e => e.done.isNone).foldl (fun s e => abortCmd s c a q e) s

/-- A fault of command e: it ends with the status, a pass's rows are poisoned, later commands of its queue are aborted,
the half is fenced, AFLT is written, and the event is recorded (R84). -/
def arrayFault (s : State) (c a q : Nat) (e : ArrCmd) (code : Byte) (col : Nat) : State :=
  let row := if arOp e = 2 then fld e.w1.toNat 53 45 else 0
  let n := if arOp e = 2 then fld e.w1.toNat 63 54 else 0
  let w := afltWord code col row n
  let s := refuse s c a q e code
  let s := s.modMxa c a fun m => { m with poison := m.poison.addAll (m.poisonKeys (m.span q) row n) }
  let s := abortLater s c a q
  let s := s.modMxa c a fun m => m.modHalf (m.span q) fun x => { x with fenced := true, aflt := w }
  record s ⟨0x20, 2, .core, c, a, code, w.toNat, 0⟩

/-! ### LDST (R70, R71) -/

/-- LDST (R70, R71). It waits for the stream's earlier drains to the working store (R107). -/
def execLdst (c a q : Nat) (s : State) : Res :=
  .next (arrStep s c a q (· == 1) fun s m e =>
    let h := m.span q
    match ldstCheck e with
    | some code => if isErr code then refuse s c a q e code else finish s c a q e code
    | none =>
      if (s.core c).drainWaits e.stream e.id then s
      else
        let cols := m.cols h
        match feedAll s c (ldstRanges e cols.length) 0 with
        | (s, some (_, code)) =>
          arrayFault (freeCells s c a ((ldstCells s c e cols).map (·.1))) c a q e code 0xFF
        | (s, none) =>
          let s := s.modMxa c a fun m => (m.load (ldstCells s c e cols)).modHalf h fun x => x.loaded e
          finish s c a q e Code.ok)

/-! ### PASS (R72, R73) -/

/-- The first vector of a pass that meets an unreadable moving byte or, where the pass reads its target rows, a container
with an uncorrectable error (R73, R84); with the vectors before it. -/
def passFeed (s : State) (c : Nat) (m : Mxa) (h : Nat) (e : ArrCmd) : List Nat → State × Option (Byte × Nat)
  | [] => (s, none)
  | k :: ks =>
    match feedAll s c (passRanges e k) 0 with
    | (s, some (_, code)) => (s, some (code, k))
    | (s, none) =>
      if paAcc e && ((upFrom (m.base h) (paCols e)).any fun j => m.accBad.has (accKey (paRow e + k) j)) then
        (s, some (Code.eccUncorr, k))
      else passFeed s c m h e ks

/-- The fault a pass meets: a column the residue check finds (R64), or the first vector that cannot be read or added;
with the vectors that can have been written before it stops. -/
def passFault (s : State) (c : Nat) (m : Mxa) (h : Nat) (e : ArrCmd) (residue : Option Nat) :
    State × Option (Byte × Nat × Nat) :=
  match residue.filter fun p => ((m.cols h).take (paCols e)).contains p with
  | some p => (s, some (Code.arrayFault, p, paM e))
  | none => match passFeed s c m h e (List.range (paM e)) with
    | (s, some (code, k)) => (s, some (code, 0xFF, k))
    | (s, none) => (s, none)

/-- The booking of a pass that starts (R93, R486): at level 0 the level becomes 1; it waits while its booking does not
fit. While no program runs on the core an accepted command still runs to completion (R186), unbooked. -/
def passBook (k : Core) (m : Mxa) (h : Nat) (e : ArrCmd) : Option Half :=
  let x := m.half h
  let c := passCharge m.split (paFs e) (paFm e) (paRows e)
  let lv := max 1 x.level
  if k.prog.isNone then some { x with level := lv, charge := c }
  else if levelBook c lv ≤ k.unbooked + x.book then some { x with level := lv, charge := c, book := levelBook c lv }
  else none

/-- A pass in progress: its fault, after some of the vectors before it were written, or its results (R60, R73, R84). -/
def passRun (s : State) (c a q : Nat) (m : Mxa) (h : Nat) (e : ArrCmd) (residue : Option Nat) : State :=
  let rows := m.poisonKeys h (paRow e) (paM e)
  let keys := passKeys m h e
  match passFault s c m h e residue with
  | (s, some (code, col, k)) =>
    let r := freeNat s
    arrayFault (stopPass r.2 c a m h e (r.1 % (k + 1)) (code != Code.arrayFault)) c a q e code col
  | (s, none) =>
    let rs := passResults s c m h e
    let s := s.modMxa c a fun m =>
      { m with
        acc := putAll 0 (rs.map fun p => (p.1, p.2.1)) m.acc
        accInt := if paFs e = 0 then m.accInt.addAll keys else m.accInt.delAll keys
        accBad := m.accBad.delAll keys
        poison := m.poison.delAll rows
        written := m.written.addAll rows }
    let s := s.modCore c fun k => k.flag a (flagsOr (rs.map (·.2.2)) &&& arrayFlagMask)
    finish (s.tally 0 0x04 c a (paM e)) c a q e Code.ok

/-- PASS (R72, R73, R85). `residue`: the column whose residue check fails, if one does (R64). -/
def execPass (c a q : Nat) (residue : Option Nat) (s : State) : Res :=
  .next (arrStep s c a q (· == 2) fun s m e =>
    let h := m.span q
    match passCheck (m.half h) (m.cols h).length e with
    | some code => finish s c a q e code
    | none =>
      if (s.core c).drainWaits e.stream e.id then s
      else if paAcc e && (m.poisonKeys h (paRow e) (paM e)).any m.poison.has then finish s c a q e Code.arrayFault
      else match passBook (s.core c) m h e with
        | none => s
        | some x => passRun (s.modMxa c a fun m => m.setHalf h x) c a q m h e residue)

/-! ### DRAIN and ZERO (R74 to R76) -/

/-- Writes one row of a drain to its destination: the status of the write. -/
def drainWrite (s : State) (c a : Nat) (m : Mxa) (h : Nat) (e : ArrCmd) (i : Nat) (vs : List (Nat × Nat × Byte)) :
    State × Option Byte :=
  if drDest e then
    (s.modCore c fun k =>
      let x := k.ve a
      k.setVe a { x with v := putAll 0 (vs.map fun p => (drainLane e i p.1, BitVec.ofNat 32 p.2.1)) x.v,
                         bad := x.bad.delAll (vs.map fun p => drainLane e i p.1) }, none)
  else writeCheck s (vs.flatMap fun p => pairs (wsPa c (drainOff m h e i p.1)) (leBytes (drBytes e) p.2.1))

/-- Drains rows in order, up to the first that fails (R75, R84). -/
def drainRows (s : State) (c a : Nat) (m : Mxa) (h : Nat) (e : ArrCmd) : List Nat → State × Option Byte
  | [] => (s, none)
  | i :: is =>
    if (upFrom (m.base h) (m.cols h).length).any fun j => m.accBad.has (accKey (drRow e + i) j) then
      (s, some Code.eccUncorr)
    else
      let vs := drainRowValues m h e i
      match drainWrite s c a m h e i vs with
      | (s, some code) => (s, some code)
      | (s, none) =>
        let s := s.modCore c fun k => k.flag a (flagsOr (vs.map (·.2.2)) &&& arrayFlagMask)
        let s := if e.w0.getLsbD 57 then s.modMxa c a fun m => m.clearRow h (drRow e + i) else s
        drainRows s c a m h e is

/-- DRAIN (R74, R75, R85). A drain to the working store waits while descriptor bytes that it would change are unread
(R234), one to the vector engine while a word issued earlier has not issued there (R106). Poison is tested before the
destination's bounds: the model's choice (log 115). -/
def execDrain (c a q : Nat) (s : State) : Res :=
  .next (arrStep s c a q (· == 3) fun s m e =>
    let h := m.span q
    match drainCheck e with
    | some code => finish s c a q e code
    | none =>
      if !drDest e && (s.core c).hitsDesc e.stream e.id (arAddr e) (drN e * m.width * drBytes e) then s
      else if drDest e && (((s.core c).accOf a).any fun x => decide (x.id < e.id)) then s
      else if (m.poisonKeys h (drRow e) (drN e)).any m.poison.has then finish s c a q e Code.arrayFault
      else if drainBeyond m h e then arrayFault s c a q e Code.xlate 0xFF
      else match drainRows s c a m h e (List.range (drN e)) with
        | (s, some code) => arrayFault s c a q e code 0xFF
        | (s, none) => finish s c a q e Code.ok)

/-- ZERO: all-zero containers in the half's columns; their poison is cleared (R76). -/
def execZero (c a q : Nat) (s : State) : Res :=
  .next (arrStep s c a q (· == 4) fun s m e =>
    let h := m.span q
    if drN e = 0 then finish s c a q e Code.okEmpty
    else if 512 < drRow e + drN e then finish s c a q e Code.badParam
    else
      let s := s.modMxa c a fun m =>
        let rows := m.poisonKeys h (drRow e) (drN e)
        let m := (upFrom (drRow e) (drN e)).foldl (fun m r => m.clearRow h r) m
        { m with poison := m.poison.delAll rows, written := m.written.addAll rows }
      finish s c a q e Code.ok)

/-! ### MODE, AACK and unlisted opcodes -/

/-- MODE: at the head of its queue E_ABORTED while either half is fenced; else it waits until both queues hold no earlier
command (R76). A half fenced while it waits ends it too (log 26). -/
def execModeCmd (c a q : Nat) (s : State) : Res :=
  .next (arrStep s c a q (· == 5) fun s m e =>
    if m.west.fenced ∨ m.east.fenced then finish s c a q e Code.aborted
    else if !((m.west.queue ++ m.east.queue).all fun x => decide (e.id ≤ x.id)) then s
    else finish (s.modMxa c a fun m => m.setMode (e.w0.getLsbD 57)) c a q e Code.ok)

/-- AACK (R76). -/
def execAack (c a q : Nat) (s : State) : Res :=
  .next (arrStep s c a q (· == 6) fun s m e =>
    let key := testKey c a (m.span q)
    let t := look .reset key s.agg.tests
    let s := { s with agg := { s.agg with tests := put .reset key { t with failNext := false } s.agg.tests } }
    finish (s.modMxa c a fun m => m.modHalf (m.span q) Half.unfence) c a q e Code.ok)

/-- An opcode not listed completes with E_BADCMD (R69). -/
def execUnlistedArrayOpcode (c a q : Nat) (s : State) : Res :=
  .next (arrStep s c a q (fun o => o == 0 || decide (6 < o)) fun s _ _ => s)

/-- ARRAY_COMMAND_COMPLETE: the oldest command of a queue, having run, is reported to the stream that issued it (R68);
an error raises an exception but for E_ABORTED (R243). -/
def execArrayCommandComplete (c a q : Nat) (s : State) : Res :=
  .next (
    if !s.coreRuns c || decide (2 ≤ a) || decide (2 ≤ q) then s
    else
      match (((s.core c).mxa a).half q).queue with
      | ⟨_, t, w0, _, some code⟩ :: es =>
        let east := ((s.core c).mxa a).split && q == 1
        let s := s.modMxa c a fun m => m.modHalf q fun h => { h with queue := es }
        if code = Code.aborted then s
        else report s c t ⟨code, 3 + 2 * a + b2n east, fld w0.toNat 63 60, fld w0.toNat 23 0, false⟩
      | _ => s)

/-- COLMASK_APPLY: a pending write takes effect once every command of the array has completed, while no program runs
(R91); while one runs, the next beat start applies it. -/
def execColmaskApply (c a : Nat) (s : State) : Res :=
  let k := s.core c
  let m := k.mxa a
  .next (
    if s.coreRuns c && decide (a < 2) && k.prog.isNone && m.west.queue.isEmpty && m.east.queue.isEmpty then
      s.modMxa c a Mxa.applyMask
    else s)

/-- The level of a half falls by one, and its booking with it (R93, R486). -/
def Half.lower (h : Half) : Half :=
  { h with level := h.level - 1, book := min h.book (levelBook h.charge (h.level - 1)) }

/-- A tail falls by a level at the end of every interval, whatever work follows: to 0 after at most 8 (R487). -/
def Tail.lower (t : Tail) : Tail :=
  { t with level := t.level - 1, units := min t.units (levelBook t.charge (t.level - 1)) }

def Half.lowerTails (h : Half) : Half :=
  { h with tails := (h.tails.map Tail.lower).filter fun t => decide (t.units ≠ 0) }

/-- RAMP_INTERVAL_END: an interval of STEP cycles ends (R93, R487). -/
def execRampIntervalEnd (c a h : Nat) (work : FeederWork) (s : State) : Res :=
  let k := s.core c
  let m := k.mxa a
  let x := (m.half h).lowerTails
  let next := levelBook x.charge (x.level + 1)
  let y : Half :=
    if work.last then
      if x.level < 8 ∧ next ≤ k.unbooked + x.book then { x with level := x.level + 1, book := next } else x
    else if work.any then x
    else x.lower
  .next (
    if !s.coreRuns c || decide (2 ≤ a) || decide (2 ≤ h) || (h == 1 && !m.split) || (x.level == 0 && x.tails.isEmpty) then s
    else decideHead (s.modMxa c a fun m => m.setHalf h y))

end Sys2Proof.Machine
end

