-- ==== Sys2Proof/Machine/Beats.lean ====
section
/-! DEFINITION. Double buffers, the retirement of a beat, the ledger request, the start of a beat, and the progress
watchdog (R176 to R192). -/

namespace Sys2Proof.Machine

/-- DB_WRITE: firmware writes DBn of a core (R177). A core that is absent, or whose die is not in RUN, discards the
write (R7, R481). -/
def execDbWrite (c n : Nat) (val : W64) (s : State) : Res :=
  .next (if s.powered && s.coreOn c && decide (n < 16) then s.modCore c fun k => k.writeDb n val (-1) else s)

/-- Every running stream waits at its SWAP, none with an exception still to be taken (R180 condition 1, R243). -/
def Core.swapped (k : Core) : Bool := k.allSwap && k.runningStreams.all fun t => (k.stream t).pend.isEmpty

/-- The core works on a program. -/
def State.works (s : State) (c : Nat) : Bool := s.coreRuns c && (s.core c).prog.isSome

/-- COMPUTE_SET_RETIRED: the last member of the beat's compute set has retired; the beat's grant is released (R179,
R181). -/
def execComputeSetRetired (c : Nat) (s : State) : Res :=
  let k := s.core c
  .next (if s.works c && k.swapped && k.computeEmpty && !k.csRetired then
      releaseGrant (s.setCore c { k with csRetired := true }) c
    else s)

/-- Conditions 1 to 4 of R180. -/
def Core.beatReady (k : Core) : Bool := k.swapped && k.csRetired && k.pfOut == 0 && k.tokensReady

/-- LEDGER_REQUEST_SEND: conditions 1 to 4 of R180 hold, and the core sends its request; one of 0 units is not sent
(R181). LGRANT.REQ takes the units as sent, and DENIED clears (R189, R494). -/
def execLedgerRequestSend (c : Nat) (s : State) : Res :=
  let k := s.core c
  let u := k.unitsAsked
  .next (if s.works c && k.beatReady && k.lreq == .notSent && u != 0 then
      sendRequest (s.setCore c { k with lreq := .sent, denied := false, lgReq := BitVec.ofNat 16 (min u 65535) })
        (.core c) u
    else s)

/-- A pair with EN = 1 swaps (R177, R180). -/
def swapPair (v : W64) : W64 := if v.getLsbD 62 then v ^^^ 0x8000000000000000 else v

/-- The 16 pairs after a beat start. -/
def swapPairs (db : Table W64) : Table W64 := putAll 0 ((List.range 16).map fun n => (n, swapPair (look 0 n db))) db

/-- Counters in the wait mask fall by 1 (R180). -/
def takeTokens (mask : W64) (tc : Table W16) : Table W16 :=
  putAll 0 ((bitIndices 64 mask.toNat).map fun i => (i, look 0 i tc - 1)) tc

/-- A stream resumes after its SWAP (R180). -/
def Stream.resume (x : Stream) : Stream := if x.st = .swap then { x with st := .run, mask := 0, units := 0 } else x

/-- BEAT_START: pending writes take effect, pairs swap, waited counters fall, BEAT_CNT rises, the streams resume
(R180), and the watchdog measures from now (R185). -/
def Core.startBeat (k : Core) (now : W64) : Core :=
  let mask := k.waitMask
  let k := k.applyPending
  { k with db := swapPairs k.db, tc := takeTokens mask k.tc, beat := k.beat + 1, csRetired := false,
           lreq := .notSent, wdStart := now, wdExc := none, f := k.f.resume, b := k.b.resume, u := k.u.resume }

/-- All five conditions of R180. -/
def Core.beatDue (k : Core) : Bool := k.beatReady && (k.lreq == .granted || k.unitsAsked == 0)

def execBeatStart (c : Nat) (s : State) : Res :=
  let k := s.core c
  .next (if s.works c && k.beatDue then (s.setCore c (k.startBeat s.tbtime)).tally 0 0x01 c 0 1 else s)

/-- The watchdog's time has reached LIMIT: microseconds of TBTIME since it last started, without those in which an
exception awaited acknowledgement (R185). -/
def Core.overdue (k : Core) (now : W64) : Bool :=
  k.wdLimit != 0 && k.wdExc.isNone && decide (k.wdLimit.toNat * 1000 ≤ (now - k.wdStart).toNat)

/-- WATCHDOG_EXPIRY: no beat has started within LIMIT; the core halts, unless its next beat starts in the same cycle
(R185, R186). The record's BSTS is what the core waited on, and BSTS and TWAIT keep showing it. -/
def execWatchdogExpiry (c : Nat) (s : State) : Res :=
  let k := s.core c
  .next (if s.works c && k.overdue s.tbtime && !k.beatDue then
      let s := record s ⟨0x26, 0, .core, c, 0, Code.deadlock, k.bsts.toNat, k.beatDetail.toNat⟩
      (endProgram s c Code.deadlock).modCore c fun x => { x with halted := true, haltSts := k.bsts, haltWait := k.twait }
    else s)

end Sys2Proof.Machine
end

