-- ==== Sys2Proof/Machine/Scalar.lean ====
section
/-! DEFINITION. The scalar, memory and CSR instructions of the control core (R230, R231, R234, R238). -/

namespace Sys2Proof.Machine

/-! ### Shared forms -/

/-- RD = f(sRA, sRB). -/
def aluRR (s : State) (c t op : Nat) (f : W64 → W64 → W64) : State :=
  ccStep s c t op fun k x w => setRd s c t k x (ccRd w) (f (x.reg (ccRa w)) (x.reg (ccRb w)))

/-- RD = f(sRA, word), the word giving the immediate. -/
def aluRI (s : State) (c t op : Nat) (f : W64 → W64 → W64) : State :=
  ccStep s c t op fun k x w => setRd s c t k x (ccRd w) (f (x.reg (ccRa w)) w)

/-- IMM zero-extended. -/
def zimm (w : W64) : W64 := BitVec.ofNat 64 (ccImm w)

/-- An FP32 value in bits [31:0] of a scalar register. -/
def f32 (v : W64) : FVal := fmtFP32.decode (v.toNat % 2 ^ 32)

/-- An FP32 result: RNE, canonical NaN, upper 32 bits zero (R230). -/
def f32Res (r : FVal × Bool) : W64 := BitVec.ofNat 64 (fmtFP32.finish .rne r).bits

/-- RD = an FP32 operation of sRA, sRB and sRC. -/
def fpRRR (s : State) (c t op : Nat) (f : FVal → FVal → FVal → FVal × Bool) : State :=
  ccStep s c t op fun k x w =>
    setRd s c t k x (ccRd w) (f32Res (f (f32 (x.reg (ccRa w))) (f32 (x.reg (ccRb w))) (f32 (x.reg (ccRc w)))))

/-! ### Integer arithmetic -/

/-- ADD (R230). -/
def execAdd (c t : Nat) (s : State) : Res := .next (aluRR s c t 0x80 fun a b => a + b)

/-- SUB (R230). -/
def execSub (c t : Nat) (s : State) : Res := .next (aluRR s c t 0x81 fun a b => a - b)

/-- MUL: the low 64 bits (R230). -/
def execMul (c t : Nat) (s : State) : Res := .next (aluRR s c t 0x82 fun a b => a * b)

/-- AND (R230). -/
def execAnd (c t : Nat) (s : State) : Res := .next (aluRR s c t 0x83 fun a b => a &&& b)

/-- OR (R230). -/
def execOr (c t : Nat) (s : State) : Res := .next (aluRR s c t 0x84 fun a b => a ||| b)

/-- XOR (R230). -/
def execXor (c t : Nat) (s : State) : Res := .next (aluRR s c t 0x85 fun a b => a ^^^ b)

/-- SHL by sRB[5:0] (R230). -/
def execShl (c t : Nat) (s : State) : Res := .next (aluRR s c t 0x86 fun a b => a <<< (b.toNat % 64))

/-- SHR by sRB[5:0] (R230). -/
def execShr (c t : Nat) (s : State) : Res := .next (aluRR s c t 0x87 fun a b => a >>> (b.toNat % 64))

/-- SRA by sRB[5:0] (R230). -/
def execSra (c t : Nat) (s : State) : Res := .next (aluRR s c t 0x88 fun a b => a.sshiftRight (b.toNat % 64))

/-- SLT, signed (R230). -/
def execSlt (c t : Nat) (s : State) : Res := .next (aluRR s c t 0x89 fun a b => if a.slt b then 1 else 0)

/-- SLTU, unsigned (R230). -/
def execSltu (c t : Nat) (s : State) : Res := .next (aluRR s c t 0x8A fun a b => if a.ult b then 1 else 0)

/-- MIN, signed (R230). -/
def execMin (c t : Nat) (s : State) : Res := .next (aluRR s c t 0x8B fun a b => if b.slt a then b else a)

/-- MAX, signed (R230). -/
def execMax (c t : Nat) (s : State) : Res := .next (aluRR s c t 0x8C fun a b => if a.slt b then b else a)

/-- ADDI: sext(IMM) (R230). -/
def execAddi (c t : Nat) (s : State) : Res := .next (aluRI s c t 0x90 fun a w => a + ccSimm w)

/-- ANDI: IMM zero-extended (R230). -/
def execAndi (c t : Nat) (s : State) : Res := .next (aluRI s c t 0x91 fun a w => a &&& zimm w)

/-- ORI (R230). -/
def execOri (c t : Nat) (s : State) : Res := .next (aluRI s c t 0x92 fun a w => a ||| zimm w)

/-- XORI (R230). -/
def execXori (c t : Nat) (s : State) : Res := .next (aluRI s c t 0x93 fun a w => a ^^^ zimm w)

/-- SHLI by IMM[5:0] (R230). -/
def execShli (c t : Nat) (s : State) : Res := .next (aluRI s c t 0x94 fun a w => a <<< (ccImm w % 64))

/-- SHRI by IMM[5:0] (R230). -/
def execShri (c t : Nat) (s : State) : Res := .next (aluRI s c t 0x95 fun a w => a >>> (ccImm w % 64))

/-- SRAI by IMM[5:0] (R230). -/
def execSrai (c t : Nat) (s : State) : Res := .next (aluRI s c t 0x96 fun a w => a.sshiftRight (ccImm w % 64))

/-- LI: RD = sext(IMM) (R230). -/
def execLi (c t : Nat) (s : State) : Res := .next (aluRI s c t 0x97 fun _ w => ccSimm w)

/-- LIH: RD = IMM × 2^32 + sRA[31:0] (R230). -/
def execLih (c t : Nat) (s : State) : Res := .next (aluRI s c t 0x98 fun a w => zimm w <<< 32 ||| (a &&& 0xFFFFFFFF))

/-! ### FP32 on bits [31:0] -/

/-- FADD (R230). -/
def execFadd (c t : Nat) (s : State) : Res := .next (fpRRR s c t 0xA0 fun a b _ => fadd false a b)

/-- FSUB (R230). -/
def execFsub (c t : Nat) (s : State) : Res := .next (fpRRR s c t 0xA1 fun a b _ => fadd false a b.negate)

/-- FMUL (R230). -/
def execFmul (c t : Nat) (s : State) : Res := .next (fpRRR s c t 0xA2 fun a b _ => fmul a b)

/-- FFMA: sRA × sRB + sRC with one rounding (R230). -/
def execFfma (c t : Nat) (s : State) : Res := .next (fpRRR s c t 0xA3 fun a b d => ffma false a b d)

/-- FCVTIF: INT32 to FP32 under RNE (R230). -/
def execFcvtif (c t : Nat) (s : State) : Res :=
  .next (aluRI s c t 0xA4 fun a _ => f32Res (.num (dyInt (sext 32 a.toNat)), false))

/-- FCVTFI: FP32 to INT32 under RNE, clamped, NaN to 0, sign-extended (R230). -/
def execFcvtfi (c t : Nat) (s : State) : Res :=
  .next (aluRI s c t 0xA5 fun a _ => BitVec.ofInt 64 (toInteger 32 .rne (f32 a)).1)

/-! ### Working-store accesses (R231, R234) -/

/-- The offset sRA + sext(IMM) of LD, LDW, ST and STW. -/
def ccOffset (x : Stream) (w : W64) : Nat := (x.reg (ccRa w) + ccSimm w).toNat

/-- A load of n bytes: it waits for drains of the stream whose addresses are not known (R234), and is illegal when
misaligned, out of the working store, or on an uncorrectable word (R231). -/
def ccLoad (s : State) (c t op n : Nat) : State :=
  ccStep s c t op fun k x w =>
    let off := ccOffset x w
    if k.drainWaits t k.issued then s
    else if off % n ≠ 0 then illegal s c t Code.badParam w off
    else if off + n > wsSize then illegal s c t Code.xlate w off
    else
      match wsCheck s c off n with
      | (s, some e) => illegal s c t e w off
      | (s, none) => setRd s c t k x (ccRd w) (BitVec.ofNat 64 (leNat (s.ws c off n)))

/-- A store of n bytes: it waits while a descriptor it would change is unread (R200, R234). -/
def ccStore (s : State) (c t op n : Nat) : State :=
  ccStep s c t op fun k x w =>
    let off := ccOffset x w
    if k.hitsDesc t k.issued off n then s
    else if off % n ≠ 0 then illegal s c t Code.badParam w off
    else if off + n > wsSize then illegal s c t Code.xlate w off
    else
      match writeCheck s (pairs (wsPa c off) (leBytes n (x.reg (ccRb w)).toNat)) with
      | (s, some e) => illegal s c t e w off
      | (s, none) => s.modCore c fun k => k.modStream t Stream.advance

/-- LD: 8 B (R230). -/
def execLd (c t : Nat) (s : State) : Res := .next (ccLoad s c t 0xB0 8)

/-- LDW: 4 B zero-extended (R230). -/
def execLdw (c t : Nat) (s : State) : Res := .next (ccLoad s c t 0xB1 4)

/-- ST: 8 B (R230). -/
def execSt (c t : Nat) (s : State) : Res := .next (ccStore s c t 0xB2 8)

/-- STW: sRB[31:0] (R230). -/
def execStw (c t : Nat) (s : State) : Res := .next (ccStore s c t 0xB3 4)

/-! ### CSRs and summary registers -/

/-- The CSR-space offset of a register of core c (R21, R27). -/
def coreCsr (c off : Nat) : Nat := 0x100000 + c * 0x10000 + off

/-- An access to an unassigned offset of the core's block by a stream is recorded (R27, R529). -/
def noteUnmapped (s : State) (c t off : Nat) (write : Bool) : State :=
  record s ⟨0x01, 0, .core, c, t, 0, coreCsr c off, 1 + b2n write * 4 + 8 * 16⟩

/-- IMM names no aligned register of the block (R231). -/
def csrImmBad (w : W64) : Bool := decide (ccImm w % 8 ≠ 0) || decide (ccImm w ≥ 2 ^ 16)

/-- A CSRR of a summary register or MSTAT waits under R123. -/
def csrWaits (k : Core) (off : Nat) : Bool :=
  if 0x280 ≤ off ∧ off < 0x2C0 then k.summaryWaits ((off - 0x280) / 8) k.issued
  else if off = 0x2C0 then (List.range 8).any fun i => k.summaryWaits i k.issued
  else false

/-- CSRR (R230). -/
def execCsrr (c t : Nat) (s : State) : Res :=
  .next (ccStep s c t 0xB8 fun k x w =>
    let off := ccImm w
    if csrImmBad w then illegal s c t Code.badParam w 0
    else if csrWaits k off then s
    else
      let s := if coreAssigned off then s else noteUnmapped s c t off false
      setRd s c t (s.core c) x (ccRd w) (k.read off))

/-- A gate written by stream U (R262, R264). -/
def Core.writeGate (k : Core) (v : W64) : Core :=
  let step := fld v.toNat 63 32
  let count := fld v.toNat 15 0
  if count = 0 then { k with ugsts := BitVec.ofNat 64 (step * 2 ^ 32 + 1) }
  else { k with ugsts := BitVec.ofNat 64 (step * 2 ^ 32 + 2 ^ 8), gate := some ⟨step, count⟩ }

/-- SE transfers of a stream that have not landed (R385). -/
def Core.unlanded (k : Core) (t : Nat) : List Nat :=
  ((k.seq.filter fun e => e.stream == t && seOp e.w0 != 3).map (·.id)) ++
  ((k.running.filter fun e => e.stream == t).map (·.id))

/-- A stream writes CECMD: the write waits in order; with 8 waiting the stream stalls (R385). -/
def writeCecmd (s : State) (c t : Nat) (v : W64) : State :=
  let k := s.core c
  if k.cecmd.length ≥ 8 then s
  else
    let e : CeWrite := ⟨t, k.ctx.getD 0, v, k.unlanded t⟩
    s.setCore c ({ k with cecmd := k.cecmd ++ [e] }.modStream t Stream.advance)

/-- What a CSRW does once it may issue. -/
def csrwEffect (s : State) (c t off : Nat) (v : W64) : State :=
  if off = 0x1000 then writeCecmd s c t v
  else
    let s := if coreAssigned off then s else noteUnmapped s c t off true
    s.modCore c fun k =>
      let k := k.modStream t Stream.advance
      if off = 0xE08 then (if t = 2 then k.writeGate v else k) else k.write false off v (-1)

/-- CSRW: it issues once every earlier vector word of the stream has issued and every earlier array, SE and copy command of the stream has started (R234). -/
def execCsrw (c t : Nat) (s : State) : Res :=
  .next (ccStep s c t 0xB9 fun k x w =>
    if csrImmBad w then illegal s c t Code.badParam w 0
    else if !k.allStarted t then s
    else csrwEffect s c t (ccImm w) (x.reg (ccRb w)))

/-- MRD: RD = mn, n = FN[2:0], under R123 (R230). -/
def execMrd (c t : Nat) (s : State) : Res :=
  .next (ccStep s c t 0xBC fun k x w =>
    let n := ccFn w % 8
    if k.summaryWaits n k.issued then s else setRd s c t k x (ccRd w) (look 0 n k.m))

/-- MSR: RD = MSTAT, under R123 for every summary register (R230). -/
def execMsr (c t : Nat) (s : State) : Res :=
  .next (ccStep s c t 0xBD fun k x w =>
    if (List.range 8).any fun i => k.summaryWaits i k.issued then s else setRd s c t k x (ccRd w) (k.mstat.setWidth 64))

/-- The byte offset of the front half of a pair, or of the back half (R176). -/
def dbHalf (v : W64) (front : Bool) : W64 :=
  let n := v.toNat
  let isA := front != bitOf n 63
  BitVec.ofNat 64 ((if isA then fld n 40 24 else fld n 57 41) * 64)

/-- DBF: RD = byte offset of the front half of DBn, n = FN (R230). -/
def execDbf (c t : Nat) (s : State) : Res :=
  .next (ccStep s c t 0xBE fun k x w => setRd s c t k x (ccRd w) (dbHalf (look 0 (ccFn w) k.db) true))

/-- DBB: RD = byte offset of the back half of DBn (R230). -/
def execDbb (c t : Nat) (s : State) : Res :=
  .next (ccStep s c t 0xBF fun k x w => setRd s c t k x (ccRd w) (dbHalf (look 0 (ccFn w) k.db) false))

/-! ### Unlisted opcodes -/

/-- The opcodes of R230. -/
def ccListed (op : Nat) : Bool :=
  (decide (0x80 ≤ op) && decide (op ≤ 0x8C)) || (decide (0x90 ≤ op) && decide (op ≤ 0x98)) ||
  (decide (0xA0 ≤ op) && decide (op ≤ 0xA5)) || (decide (0xB0 ≤ op) && decide (op ≤ 0xB3)) ||
  op == 0xB8 || op == 0xB9 || (decide (0xBC ≤ op) && decide (op ≤ 0xBF)) ||
  (decide (0xC0 ≤ op) && decide (op ≤ 0xC9)) || (decide (0xD0 ≤ op) && decide (op ≤ 0xD3)) ||
  (decide (0xE0 ≤ op) && decide (op ≤ 0xE6))

/-- A CC word whose opcode R230 does not list is illegal with E_BADCMD (R231). -/
def execUnlistedCcOpcode (c t : Nat) (s : State) : Res :=
  match fetch s c t with
  | .nothing => .next s
  | .bad code => .next (badFetch s c t code)
  | .word w => .next (if w.getLsbD 63 ∧ !ccListed (ccOp w) then illegal s c t Code.badCmd w 0 else s)

end Sys2Proof.Machine
end

