-- ==== Sys2Proof/Machine/Gate.lean ====
section
/-! DEFINITION. The update gate of stream U (R260 to R266). -/

namespace Sys2Proof.Machine

/-- UGATE_WRITE: stream U's next instruction is a CSRW of UGATE, which performs the gate (R262 to R264). -/
def execUgateWrite (c : Nat) (s : State) : Res :=
  .next (ccStep s c 2 0xB9 fun k x w =>
    if ccImm w ≠ 0xE08 ∨ !k.allStarted 2 then s else csrwEffect s c 2 0xE08 (x.reg (ccRb w)))

/-- Fields of GNF (R260). -/
def gnfStep (g : W64) : Nat := fld g.toNat 63 32
def gnfEcode (g : W64) : Nat := fld g.toNat 31 24
def gnfCnt (g : W64) : Nat := fld g.toNat 23 8
def gnfErr (g : W64) : Bool := g.getLsbD 2
def gnfValid (g : W64) : Bool := g.getLsbD 1
def gnfNf (g : W64) : Bool := g.getLsbD 0

/-- UGSTS with a decision (R264). -/
def ugstsWord (step status : Nat) : W64 := BitVec.ofNat 64 (step * 2 ^ 32 + status)

/-- Stream U behaves as if it issued END at the gate (R263, R241): it stands at the gate, ending; in EXC, where END is
illegal, that is an exception the CC detects (R231, R244). -/
def endAtGate (s : State) (c : Nat) : State :=
  let s := s.modCore c fun k => k.modStream 2 fun x => { x with pc := x.pc - 1 }
  if ((s.core c).stream 2).st = .exc then raise s c 2 ⟨Code.perm, 0, 0xB9, 0, false⟩
  else s.modCore c fun k => k.modStream 2 fun x => { x with ending := true }

/-- GATE_DECIDE: GNF holds COUNT collectives of the gate's step, and the gate decides (R263, R265). -/
def execGateDecide (c : Nat) (s : State) : Res :=
  let k := s.core c
  .next (match k.gate with
    | none => s
    | some g =>
      if s.coreRuns c && k.prog.isSome && k.u.pend.isEmpty && gnfValid k.gnf && decide (gnfStep k.gnf = g.step) &&
          decide (g.count ≤ gnfCnt k.gnf) then
        if gnfErr k.gnf then
          endAtGate (s.setCore c { k with gate := none, ugsts := ugstsWord g.step (gnfEcode k.gnf) }) c
        else if gnfNf k.gnf then
          endAtGate
            (s.setCore c { k with gate := none, ugsts := ugstsWord g.step 0x02, skipcnt := k.skipcnt + 1 }) c
        else s.setCore c { k with gate := none, ugsts := ugstsWord g.step 0 }
      else s)

/-- A gradient collective's completion updates GNF of a core (R261). -/
def gnfUpdate (g : W64) (step : Nat) (nf : Bool) (st : Byte) : W64 :=
  let newer := !gnfValid g || decide (gnfStep g ≠ step)
  if gnfValid g && decide (gnfStep g ≠ step) && decide ((step + 2 ^ 32 - gnfStep g) % 2 ^ 32 ≥ 2 ^ 31) then g
  else
    let cnt := min ((if newer then 0 else gnfCnt g) + 1) 0xFFFF
    let nf' := nf || (!newer && gnfNf g)
    let err0 := !newer && gnfErr g
    let ec0 := if newer then 0 else gnfEcode g
    let isE := decide (st ≥ 0x10)
    let ec := if isE && (!err0 || decide (st.toNat < ec0)) then st.toNat else ec0
    BitVec.ofNat 64 (step * 2 ^ 32 + ec * 2 ^ 24 + cnt * 2 ^ 8 + b2n (err0 || isE) * 4 + 2 + b2n nf')

end Sys2Proof.Machine
end

