-- ==== Sys2Proof/Machine/LinkOps.lean ====
section
/-! DEFINITION. Flits, messages and routing (R355 to R371, R381 to R383). -/

namespace Sys2Proof.Machine

/-! ### Flits (R356, R357) -/

/-- The 12 header bytes of a flit. -/
def flitHeader (f : Flit) : List Byte :=
  leBytes 12 (f.ftype % 16 * 2 ^ 92 + f.vl % 8 * 2 ^ 89 + b2n f.som * 2 ^ 88 + b2n f.eom * 2 ^ 87 + f.hops % 128 * 2 ^ 80 +
    f.seq % 4096 * 2 ^ 68 + f.ack % 4096 * 2 ^ 56 + f.crvl % 16 * 2 ^ 52 + f.crcnt % 4096 * 2 ^ 40 + f.plen % 256 * 2 ^ 32 +
    f.dst % 65536 * 65536 + f.src % 65536)

/-- CRC-32C of bytes (R356, R425). -/
def crc32c (bs : List Byte) : W32 := BitVec.ofNat 32 (crcRun 0x82F63B78 0xFFFFFFFF bs ^^^ 0xFFFFFFFF)

/-- The CRC of a flit's bytes 0 to 251. -/
def flitCrc (f : Flit) : W32 := crc32c (flitHeader f ++ padTo 240 f.payload)

/-- The flit is good: its CRC holds, and no codeword that holds part of it was uncorrectable (R355, R357). -/
def flitGood (f : Flit) (fec : Bool) : Bool := f.crc == flitCrc f && !fec

/-- Byte i of a flit, from byte 12 on. -/
def flitByte (f : Flit) (i : Nat) : Nat := ((f.payload.getD (i - 12) 0)).toNat

/-- A little-endian field of a flit's bytes. -/
def flitField (f : Flit) (i n : Nat) : Nat := fieldAt f.payload (i - 12) n

/-! ### What the receiver takes from every good flit (R357, R360, R361) -/

/-- ACK: every flit up to it is acknowledged, within the 1,024 outstanding. -/
def Link.takeAck (x : Link) (ack : Nat) : Link :=
  match x.replay with
  | [] => x
  | o :: _ =>
    let n := (ack + 4097 - o.seq) % 4096
    if n = 0 ∨ x.replay.length < n then x
    else
      let rest := x.replay.drop n
      let resend := match x.resend with
        | some q => if rest.any fun r => r.seq == q then some q else (rest.head?).map (·.seq)
        | none => none
      { x with replay := rest, resend := resend, lastReplay := none }

/-- CRVL and CRCNT. -/
def Link.takeCredit (x : Link) (vl cnt : Nat) : Link := { x with crcnt := put 0 vl (cnt % 4096) x.crcnt }

def Link.takeHeader (x : Link) (f : Flit) : Link := (x.takeAck f.ack).takeCredit f.crvl f.crcnt

/-- Credits held for a lane (R360). -/
def Link.credits (x : Link) (v : Nat) : Nat :=
  look 0 v x.limit - (look 0 v x.sent + 4096 - look 0 v x.crcnt) % 4096

/-- LIMIT of the lanes in this part's receive buffer of 1,024 flits (R360). -/
def ownLimits : List Nat := [128, 128, 160, 160, 160, 160, 128, 0]

/-- The receive buffer has room for a flit of a lane (R360, R380). -/
def Link.room (x : Link) (v : Nat) : Bool := decide (look 0 v x.held < ownLimits.getD v 0)

/-- A flit of a lane takes a place in the receive buffer. -/
def Link.hold (x : Link) (v : Nat) : Link := { x with held := put 0 v (look 0 v x.held + 1) x.held }

/-- Flits of a lane freed by the receiver, of those it holds (R360). -/
def Link.free (x : Link) (v n : Nat) : Link :=
  let n := min n (look 0 v x.held)
  { x with held := put 0 v (look 0 v x.held - n) x.held, freed := put 0 v ((look 0 v x.freed + n) % 4096) x.freed }

/-- A flit's ACK and credit fields as the transmitter fills them, and CRVL moved to the next lane (R357). -/
def Link.stamp (x : Link) (f : Flit) : Link :=
  let f := { f with ack := x.rxAck, crvl := x.crvl, crcnt := look 0 x.crvl x.freed }
  let f := { f with crc := flitCrc f }
  { x with txLast := some f, crvl := (x.crvl + 1) % 7 }

/-- A CTRL flit with payload bytes (R359); PLEN is 240, as EOM is 0 (R356). -/
def ctrlFlit (bs : List Byte) : Flit := ⟨2, 7, false, false, 0, 0, 0, 0, 0, 240, 0, 0, padTo 240 bs, 0⟩

/-- An IDLE flit (R356, R357). -/
def idleFlit : Flit := ⟨0, 0, false, false, 0, 0, 0, 0, 0, 240, 0, 0, padTo 240 [], 0⟩

/-- The link sends a CTRL flit. -/
def Link.sendCtrl (x : Link) (bs : List Byte) : Link := x.stamp (ctrlFlit bs)

/-- The own PARAM: device ID, link number and credit limits (R359, R365). -/
def Link.sendParam (x : Link) (dev : W16) (l : Nat) : Link :=
  { x.sendCtrl (4 :: leBytes 2 dev.toNat ++ [BitVec.ofNat 8 l] ++ ownLimits.map (BitVec.ofNat 8)) with paramSent := true }

/-- A NAK naming the expected SEQ, unless one was sent less than 2 µs ago (R363). -/
def Link.nak (x : Link) : Link :=
  if x.nakHold then x else { x.sendCtrl (1 :: leBytes 2 x.rxSeq) with nakHold := true }

/-! ### Messages (R358, R381, R382) -/

/-- A message to send. -/
structure Msg where
  vl : Nat
  hops : Nat
  dst : Nat
  src : Nat
  /-- The 16-byte transport header and the data. -/
  body : List Byte
  chunk : Nat
  own : Option (Nat × Nat)
  /-- A forwarded message: the link it came on, and its flits in that link's buffer. -/
  frees : Option (Nat × Nat)
  deriving DecidableEq, Repr

/-- Fields of the transport header (R381). -/
def hdr (body : List Byte) : Nat := fieldAt body 0 16
def hKind (body : List Byte) : Nat := fld (hdr body) 127 124
def hNf (body : List Byte) : Bool := bitOf (hdr body) 123
def hSlow (body : List Byte) : Bool := bitOf (hdr body) 122
def hLast (body : List Byte) : Bool := bitOf (hdr body) 121
def hPost (body : List Byte) : Bool := bitOf (hdr body) 120
def hJob (body : List Byte) : Nat := fld (hdr body) 119 104
def hTag (body : List Byte) : Nat := fld (hdr body) 103 88
def hLow (body : List Byte) (hi lo : Nat) : Nat := fld (hdr body) hi lo
def hData (body : List Byte) : List Byte := body.drop 16

/-- A transport header. -/
def mkHdr (kind : Nat) (nf slow last post : Bool) (job tag low : Nat) : List Byte :=
  leBytes 16 (kind * 2 ^ 124 + b2n nf * 2 ^ 123 + b2n slow * 2 ^ 122 + b2n last * 2 ^ 121 + b2n post * 2 ^ 120 +
    job % 65536 * 2 ^ 104 + tag % 65536 * 2 ^ 88 + low % 2 ^ 88)

/-- The flits of a message: 240 payload bytes in all but the last (R356, R358). -/
def flitCount (n : Nat) : Nat := max 1 ((n + 239) / 240)

def Msg.flits (m : Msg) (mid : Nat) : List TxFlit :=
  let n := flitCount m.body.length
  (List.range n).map fun i =>
    let bs := (m.body.drop (240 * i)).take 240
    ⟨mid, m.vl, i == 0, i + 1 == n, if i = 0 then m.hops else 0, m.dst, m.src, max 1 bs.length, padTo 240 bs,
      hKind m.body, hJob m.body, hTag m.body, m.chunk, m.own,
      m.frees.map fun q => (q.1, if i + 1 = n then q.2 - (n - 1) else 1)⟩

/-- A message joins a link's waiting flits. -/
def queueOn (s : State) (l : Nat) (m : Msg) : State :=
  let n := s.net.mid
  let s := s.modLink l fun x => { x with out := x.out ++ m.flits n }
  { s with net := { s.net with mid := n + 1 } }

/-! ### Routing (R368 to R371) -/

/-- Links of a bond, lowest first. -/
def bondLinks (k : Nat) (b : Bond) : List Nat := (bitIndices 32 b.members.toNat).map (· + (if 16 ≤ k then 32 else 0))

/-- Active members of a bond (R371). -/
def activeMembers (s : State) (k : Nat) : List Nat :=
  let b := look ⟨false, 0⟩ k s.net.bonds
  let up := (bondLinks k b).filter fun l => (s.link l).st == .active
  match up with
  | [] => []
  | l0 :: _ => up.filter fun l => (s.link l).peerDev == (s.link l0).peerDev

/-- Members of enabled bonds that are ACTIVE and not used because their peer is another: bond and link (R371). -/
def misfits (s : State) : List (Nat × Nat) :=
  s.net.bonds.flatMap fun p =>
    if p.2.en then
      ((bondLinks p.1 p.2).filter fun l => (s.link l).st == .active && !(activeMembers s p.1).contains l).map fun l => (p.1, l)
    else []

/-- The event for each member that has become unused for its peer since an earlier state (R371). -/
def noteMisfits (old s : State) : State :=
  (misfits s).foldl (fun s p =>
    if (misfits old).contains p then s
    else record s ⟨0x03, 0, .link, p.2, 0, 0, 0xA00000 + (if 16 ≤ p.1 then 32 else 0) * 0x1000 + 0x900 + p.1 * 8, 0⟩) s

/-- Where a message goes. -/
inductive Route where
  | here
  | via (l : Nat)
  /-- No usable route or link (R370). -/
  | noRoute
  deriving DecidableEq, Repr

/-- The link can carry or will carry a message: ACTIVE, or TRAINING or RECOVERY, where it waits (R370). -/
def LinkState.carries : LinkState → Bool
  | .active | .training | .recovery => true
  | _ => false

/-- The routing of a message (R368 to R371). -/
def routeOf (s : State) (src dst vl : Nat) : Route :=
  if dst = s.net.devId.toNat then .here
  else
    let e := (look 0 dst s.net.route).toNat
    if !bitOf e 15 ∨ fld e 13 6 ≠ 0 then .noRoute
    else if bitOf e 14 then
      let k := fld e 5 0
      if 32 ≤ k ∨ !(look ⟨false, 0⟩ k s.net.bonds).en then .noRoute
      else
        let ms := activeMembers s k
        if ms.isEmpty then .noRoute
        else .via (ms.getD ((((src ^^^ dst) ^^^ (vl * 8192)) % 2 ^ 16) % ms.length) 0)
    else if (s.link (fld e 5 0)).st.carries then .via (fld e 5 0)
    else .noRoute

/-- ROUTESTS of an I/O die counts a message that found no route or no hops (R370, R378), with its event. -/
def countRoute (s : State) (die dst : Nat) (hops : Bool) : State :=
  let n := s.net
  let n :=
    if die = 0 then
      if hops then { n with hopDrop0 := satInc 32 n.hopDrop0 } else { n with noRoute0 := satInc 32 n.noRoute0 }
    else if hops then { n with hopDrop1 := satInc 32 n.hopDrop1 } else { n with noRoute1 := satInc 32 n.noRoute1 }
  record { s with net := n } ⟨0x41, 0, .link, if die = 0 then 0 else 32, 0, Code.link, dst, 0⟩

/-- HOPS of an originated message (R370, R378). -/
def hopMax (s : State) : Nat := if s.net.hopMax = 0 then 1 else s.net.hopMax

/-- A whole message reaches an engine. -/
def deliver (s : State) (e : Nat) (m : InMsg) : State := s.modCe e fun x => { x with inbox := x.inbox ++ [m] }

/-- The engine a local message is for: responses go to the engine that TAG names, others to that of the die they arrive
at (R383). -/
def engineFor (die : Nat) (body : List Byte) : Nat :=
  let k := hKind body
  if k = 3 ∨ k = 4 ∨ k = 5 then hTag body / 32768 else die

/-- An engine sends a message of its own; none: no route (R370). -/
def sendMsg (s : State) (e vl dst : Nat) (body : List Byte) : Option State :=
  let src := s.net.devId.toNat
  match routeOf s src dst vl with
  | .here => some (deliver s (engineFor e body) ⟨none, vl, src, body⟩)
  | .via l => some (queueOn s l ⟨vl, hopMax s, dst, src, body, 0, none, none⟩)
  | .noRoute => none

/-- An engine sends a response or an abort: with no route it is lost, and counted (R370). -/
def sendOrCount (s : State) (e vl dst : Nat) (body : List Byte) : State :=
  match sendMsg s e vl dst body with
  | some s => s
  | none => countRoute s e dst false

/-- An engine sends a message on a link it names (R383). DST is the peer. -/
def sendOn (s : State) (l vl : Nat) (body : List Byte) (chunk : Nat) (own : Option (Nat × Nat)) : State :=
  queueOn s l ⟨vl, hopMax s, (s.link l).peerDev, s.net.devId.toNat, body, chunk, own, none⟩

/-- Kinds of which a drop sends NOROUTE to the origin (R390): the origin's device. -/
def noRouteTo (kind src dst : Nat) : Option Nat :=
  if kind = 1 ∨ kind = 2 then some src else if kind = 3 then some dst else none

/-- NOROUTE for a dropped message, where it can be routed (R390). -/
def sendNoRoute (s : State) (die kind job tag src dst : Nat) : State :=
  match noRouteTo kind src dst with
  | none => s
  | some way => (sendMsg s die 1 way (mkHdr 5 false false false false job tag (kind * 2 ^ 84))).getD s

/-- A message of n flits that arrived on link l goes on towards its DST (R370). Its flits are freed as they are sent on,
or when it is discarded (R360). -/
def forward (s : State) (l n : Nat) (hops src dst vl : Nat) (body : List Byte) : State :=
  let die := ceOf l
  let gone (s : State) : State := s.modLink l fun x => x.free vl n
  if hops = 0 then countRoute (gone s) die dst true
  else match routeOf s src dst vl with
    | .via m => queueOn s m ⟨vl, hops - 1, dst, src, body, 0, none, some (l, n)⟩
    | _ => sendNoRoute (countRoute (gone s) die dst false) die (hKind body) (hJob body) (hTag body) src dst

/-- Kinds that travel one link and are never forwarded (R383). -/
def oneLink (kind : Nat) : Bool := kind == 8 || kind == 9 || kind == 11 || kind == 12

/-- A whole message has arrived on a link: it stays in the receive buffer until its engine consumes it, or it is
forwarded (R360, R368, R383). -/
def arrived (s : State) (l vl hops src dst n : Nat) (body : List Byte) : State :=
  if oneLink (hKind body) ∨ dst = s.net.devId.toNat then
    deliver s (if oneLink (hKind body) then ceOf l else engineFor (ceOf l) body) ⟨some l, vl, src, body⟩
  else forward s l n hops src dst vl body

/-- A consumed message frees its flits in the receive buffer (R360). -/
def consume (s : State) (m : InMsg) : State :=
  match m.link with
  | some l => s.modLink l fun x => x.free m.vl (flitCount m.body.length)
  | none => s

/-- An accepted DATA flit joins its lane's message (R358): the state, with the whole message delivered at EOM. -/
def accept (s : State) (l : Nat) (f : Flit) : State :=
  let x := s.link l
  let a := look .none f.vl x.arriving
  let bad (s : State) : State := s.modLink l fun x => { x with framing := satInc 32 x.framing }
  let setA (s : State) (a : Arriving) : State := s.modLink l fun x => { x with arriving := put .none f.vl a x.arriving }
  let freeN (s : State) (n : Nat) : State := s.modLink l fun x => x.free f.vl n
  if f.som then
    let s := if a.flits.isEmpty then s else freeN (bad s) a.flits.length
    if f.eom then
      arrived (setA s .none) l f.vl f.hops f.src f.dst 1 (f.payload.take f.plen)
    else setA s ⟨[f], false⟩
  else if a.drop then freeN (setA s (if f.eom then .none else a)) 1
  else if a.flits.isEmpty ∨ 64 ≤ a.flits.length then
    freeN (setA (bad s) (if f.eom then .none else ⟨[], true⟩)) (a.flits.length + 1)
  else if f.eom then
    let fs := a.flits ++ [f]
    let h := a.flits.headD f
    arrived (setA s .none) l f.vl h.hops h.src h.dst fs.length (fs.flatMap fun g => g.payload.take g.plen)
  else setA s ⟨a.flits ++ [f], false⟩

end Sys2Proof.Machine
end

