-- ==== Sys2Proof/Machine/CeOps.lean ====
section
/-! DEFINITION. Shared operations of the collective engines: completing puts and gets (R390), aborting instances (R408
to R410), and what follows when a link fails (R367) or a stack closes (R335). -/

namespace Sys2Proof.Machine

/-! ### CEFLT and CEDROP (R414) -/

/-- CEFLT. `src`: 0 CECMD, 1 put or get, 2 instance. -/
def ceFlt (code : Byte) (src handle core info : Nat) : W64 :=
  BitVec.ofNat 64 (code.toNat * 2 ^ 56 + src * 2 ^ 48 + handle % 256 * 2 ^ 40 + core % 256 * 2 ^ 32 + info % 2 ^ 32)

def setFlt (s : State) (e : Nat) (w : W64) : State := s.modCe e fun x => { x with flt := w }

/-- A message is discarded and counted (R382, R390, R410). -/
def ceStale (s : State) (e : Nat) : State := s.modCe e fun x => { x with stale := satInc 32 x.stale }

/-! ### Puts and gets at their origin (R390) -/

/-- W4 of a descriptor at completion (R386). -/
def w4Bytes (status : Byte) : List Byte := leBytes 8 (status.toNat * 2 ^ 56 + 2 ^ 55)

/-- Where W4 lies. -/
def XferOrigin.w4 : XferOrigin → Nat
  | .core c off => wsPa c (off + 32)
  | .host _ _ w4 => w4

/-- A put or get ends: W4, the local post whatever the status, and for a host's its packet (R390). -/
def endXfer (s : State) (origin : XferOrigin) (lpen : Bool) (core ctr : Nat) (status : Byte) : State :=
  let s := (writeStop s (pairs origin.w4 (w4Bytes status))).1
  let s := if lpen then post s core ctr else s
  match origin with
  | .host pid _ _ => completePkt s pid status 0
  | .core _ _ => s

/-- The operation of a tag. -/
def Ce.xfer (x : Ce) (tag : Nat) : Option Xfer := x.xfers.find? fun f => f.tag == tag

/-- The operation of a tag completes with a status. -/
def xferDone (s : State) (e tag : Nat) (status : Byte) : State :=
  match (s.ce e).xfer tag with
  | none => s
  | some f =>
    endXfer (s.modCe e fun x => { x with xfers := x.xfers.filter fun g => g.tag != tag }) f.origin f.lpen f.lpcore f.lpctr
      status

/-! ### Plans (R393, R394) -/

def Plan.w (p : Plan) (i : Nat) : Nat := p.h.getD i 0
def Plan.type (p : Plan) : Nat := fld (p.w 0) 63 60
def Plan.rop (p : Plan) : Nat := fld (p.w 0) 59 56
def Plan.etype (p : Plan) : Nat := fld (p.w 0) 55 53
def Plan.grad (p : Plan) : Bool := bitOf (p.w 0) 52
def Plan.mayDetach (p : Plan) : Bool := bitOf (p.w 0) 51
def Plan.vlane (p : Plan) : Nat := fld (p.w 0) 50 49
def Plan.nstep (p : Plan) : Nat := fld (p.w 0) 47 32
def Plan.npart (p : Plan) : Nat := fld (p.w 0) 31 16
def Plan.rank (p : Plan) : Nat := fld (p.w 0) 15 0
def Plan.collid (p : Plan) : Nat := fld (p.w 1) 63 48
def Plan.trign (p : Plan) : Nat := fld (p.w 1) 47 40
def Plan.chunkB (p : Plan) : Nat := fld (p.w 1) 31 0
def Plan.srcva (p : Plan) : Nat := fld (p.w 2) 47 0
def Plan.dstva (p : Plan) : Nat := fld (p.w 3) 47 0
def Plan.sfirst (p : Plan) : Nat := fld (p.w 4) 63 32
def Plan.snchunk (p : Plan) : Nat := fld (p.w 4) 31 0
def Plan.dfirst (p : Plan) : Nat := fld (p.w 5) 63 32
def Plan.dnchunk (p : Plan) : Nat := fld (p.w 5) 31 0
def Plan.tmo (p : Plan) : Nat := fld (p.w 6) 63 32
def Plan.straggle (p : Plan) : Nat := fld (p.w 6) 31 0
def Plan.pen (p : Plan) : Bool := bitOf (p.w 7) 63
def Plan.pcore (p : Plan) : Nat := fld (p.w 7) 62 56
def Plan.pctr (p : Plan) : Nat := fld (p.w 7) 55 50
def Plan.gnfMask (p : Plan) : Nat := p.w 8 + fld (p.w 9) 31 0 * 2 ^ 64
def Plan.recva (p : Plan) : Nat := fld (p.w 10) 47 0
def Plan.parva (p : Plan) : Nat := fld (p.w 11) 47 0

def PlanStep.opc (x : PlanStep) : Nat := fld x.w0 63 60
def PlanStep.akind (x : PlanStep) : Nat := fld x.w0 59 58
def PlanStep.toSend (x : PlanStep) : Bool := bitOf x.w0 57
def PlanStep.toBuf (x : PlanStep) : Bool := bitOf x.w0 56
def PlanStep.toDst (x : PlanStep) : Bool := bitOf x.w0 55
def PlanStep.inlink (x : PlanStep) : Nat := fld x.w0 53 48
def PlanStep.outlink (x : PlanStep) : Nat := fld x.w0 47 42
def PlanStep.buf (x : PlanStep) : Nat := fld x.w0 41 34
def PlanStep.xmask (x : PlanStep) : Nat := fld x.w0 33 2
def PlanStep.chunk (x : PlanStep) : Nat := fld x.w1 63 32
def PlanStep.nch (x : PlanStep) : Nat := fld x.w1 31 0

def Plan.step (p : Plan) (k : Nat) : PlanStep := p.steps.getD k ⟨0, 0⟩

/-- MOVE, RECV and RCOMB move data; FSEND and FRECV flags (R395). -/
def PlanStep.isData (x : PlanStep) : Bool := decide (x.opc ≤ 3)
def PlanStep.receives (x : PlanStep) : Bool := x.opc == 2 || x.opc == 3 || x.opc == 5

/-- Links a step sends on, lowest first: OUTLINK and those of XMASK on the engine's die (R394, R395). -/
def PlanStep.outs (x : PlanStep) (e : Nat) : List Nat :=
  if x.opc = 4 then [x.outlink]
  else if x.isData ∧ x.toSend then
    (upFrom (32 * e) 32).filter fun l => l == x.outlink || bitOf x.xmask (l - 32 * e)
  else []

/-- Links a step uses. -/
def PlanStep.links (x : PlanStep) (e : Nat) : List Nat := (if x.receives then [x.inlink] else []) ++ x.outs e

def Ce.plan (x : Ce) (h : Nat) : Option Plan := look none h x.plans
def Ce.inst (x : Ce) (h : Nat) : Option Inst := look none h x.running
def Ce.setInst (x : Ce) (h : Nat) (i : Option Inst) : Ce := { x with running := put none h i x.running }

/-- INST of a message: the low 16 bits of the step tag (R382). -/
def Inst.inst (i : Inst) : Nat := i.tag % 65536

/-- Handles of running instances. -/
def Ce.handles (x : Ce) : List Nat := x.running.map (·.1)

/-- JOB of a context in an engine (R391, R415). -/
def Ce.job (x : Ce) (n : Nat) : Nat := fld (look 0 n x.jobs).toNat 15 0
def Ce.jobOn (x : Ce) (n : Nat) : Bool := (look 0 n x.jobs).getLsbD 63

/-- The context an incoming message is accepted for: the lowest with EN = 1 and that JOB (R391). -/
def Ce.ctxOf (x : Ce) (job : Nat) : Option Nat := (List.range 32).find? fun n => x.jobOn n && decide (x.job n = job)

/-! ### Aborts (R408 to R410) -/

/-- The other participants, in rank order starting after the own rank (R409). -/
def Plan.others (p : Plan) : List Nat :=
  (List.range (p.npart - 1)).map fun i => p.parts.getD ((p.rank + 1 + i) % p.npart) 0

/-- ABORT to every other participant (R409). -/
def sendAborts (s : State) (e : Nat) (p : Plan) (inst : Nat) (status : Byte) : State :=
  let body := mkHdr 10 false false false false ((s.ce e).job p.ctx) p.collid (status.toNat * 2 ^ 24 + inst)
  p.others.foldl (fun s d => sendOrCount s e 6 d body) s

/-- A running instance ends with an error of its own, and its part originates an abort (R408, R409). -/
def abortInst (s : State) (e h : Nat) (status : Byte) : State :=
  let x := s.ce e
  match x.plan h, x.inst h with
  | some p, some i =>
    if i.aborted.isSome then s
    else
      let s := s.setCe e
        { x.setInst h (some { i with aborted := some status }) with
          aborts := satInc 32 x.aborts, flt := ceFlt status 2 h 0 i.tag }
      sendAborts s e p i.inst status
  | _, _ => s

/-- Aborts the instances of an engine that a test picks. -/
def abortWhere (s : State) (e : Nat) (status : Byte) (f : Plan → Inst → Bool) : State :=
  (s.ce e).handles.foldl (fun s h =>
    match (s.ce e).plan h, (s.ce e).inst h with
    | some p, some i => if f p i then abortInst s e h status else s
    | _, _ => s) s

/-- A page of a plan's source, destination or RECVA. -/
def Plan.names (p : Plan) (page : Nat) : Bool :=
  let meets (va n : Nat) : Bool := decide (0 < n) && decide (va / 4096 ≤ page) && decide (page ≤ (va + n - 1) / 4096)
  meets p.srcva (p.snchunk * p.chunkB) || meets p.dstva (p.dnchunk * p.chunkB) || (p.recva != 0 && meets p.recva 16)

/-- An instance touches a stack when a page of its source, destination or RECVA lies there (R404). -/
def Inst.touches (i : Inst) (p : Plan) (k : Nat) : Bool :=
  i.xl.any fun q => p.names q.1 && (match region (q.2 * 4096) with | .hbm j _ => j == k | _ => false)

/-- A stack that starts to close ends every collective that uses it (R335). -/
def abortStack (s : State) (k : Nat) : State :=
  let s := abortWhere s 0 Code.thermal fun p i => i.touches p k
  abortWhere s 1 Code.thermal fun p i => i.touches p k

/-- A link that leaves ACTIVE for OFF or FAILED ends every instance a step of which uses it (R408). -/
def abortLink (s : State) (l : Nat) : State :=
  let e := ceOf l
  abortWhere s e Code.link fun p _ => p.steps.any fun x => (x.links e).contains l

/-! ### Failing links (R367) -/

/-- The link is an active member of an enabled bond. -/
def bonded (s : State) (l : Nat) : Bool :=
  s.net.bonds.any fun p => p.2.en && (activeMembers s p.1).contains l

/-- DLSTS (R375). -/
def dlsts (s : State) (l : Nat) : W64 :=
  let x := s.link l
  BitVec.ofNat 64 (x.peerDev % 65536 * 2 ^ 48 + x.peerLink % 64 * 2 ^ 42 + x.freason % 16 * 2 ^ 32 + b2n (bonded s l) * 8 +
    x.st.code)

/-- The timebase's source leaves ACTIVE: SYNC clears, and HOLD stands until the next valid TSRSP (R373). -/
def sourceLost (s : State) (l : Nat) : State :=
  let n := s.net
  if !n.tbMaster ∧ n.tbSrc = l ∧ (s.link l).st = .active then
    { s with net := { n with tbSync := false, tbHold := true, tbSlew := 0, tbSlewed := 0 } }
  else s

/-- The first flit of each message that a link holds unacknowledged or waiting. -/
def Link.messages (x : Link) : List TxFlit :=
  let fs := x.replay.map (·.flit) ++ x.out
  (List.range fs.length).filterMap fun i =>
    match fs[i]? with
    | some f => if (fs.take i).any fun g => g.mid == f.mid then none else some f
    | none => none

/-- A dropped message: an operation of this part that awaited it ends with E_LINK; the origin of a forwarded one is told
(R367, R390). -/
def dropMessage (s : State) (l : Nat) (f : TxFlit) : State :=
  if f.src = s.net.devId.toNat then
    if f.kind = 1 ∨ f.kind = 2 then xferDone s (f.tag / 32768) f.tag Code.link else s
  else sendNoRoute s (ceOf l) f.kind f.job f.tag f.src f.dst

/-- The flits of other links' buffers that forwarded flits waiting on a link hold are freed as those are dropped
(R360). -/
def freeDropped (s : State) (fs : List TxFlit) : State :=
  fs.foldl (fun s f => match f.frees with | some (l, n) => s.modLink l fun x => x.free f.vl n | none => s) s

/-- Instances of this part that await a message waiting on a link (R367). -/
def abortWaiting (s : State) (fs : List TxFlit) (l : Nat) : State :=
  (fs.filterMap (·.own)).eraseDups.foldl (fun s q => if q.1 = ceOf l then abortInst s q.1 q.2 Code.link else s) s

/-- A link fails, to FAILED with a reason or to OFF because it was disabled (R365 to R367, R375). -/
def failLink (old : State) (l : Nat) (st : LinkState) (reason : Option Nat) : State :=
  let s := sourceLost old l
  let x := s.link l
  let s := if x.st = .training then dropGrant (withdrawRequest s (.link l)) (.link l) else s
  let s := s.setLink l
    { x with st := st, replay := [], out := [], resend := none, arriving := [], param := none, paramSent := false,
             retrain := false, nakHold := false, freason := reason.getD x.freason, fails := satInc 32 x.fails }
  let s := record s ⟨0x40, 2, .link, l, 0, Code.link, (dlsts s l).toNat, (s.link l).freason⟩
  let s := noteMisfits old s
  let s := x.messages.foldl (fun s f => dropMessage s l f) (freeDropped s x.out)
  if x.st = .active ∨ x.st = .recovery then abortLink s l else abortWaiting s x.out l

end Sys2Proof.Machine
end

