-- ==== Sys2Proof/Machine/PutGet.lean ====
section
/-! DEFINITION. Puts and gets (R384 to R391). -/

namespace Sys2Proof.Machine

/-! ### Issuing (R386 to R390) -/

/-- Largest data of a message (R381). -/
abbrev msgData : Nat := 15344

/-- Offsets at which n bytes are cut into messages. -/
def cuts (n : Nat) : List Nat := (List.range ((n + msgData - 1) / msgData)).map (· * msgData)

/-- A tag that no outstanding operation of the engine has, and that none timed out with less than 10 ms ago (R390). The
part chooses it; the model takes the next free one from a counter. -/
def tagFree (s : State) (e tag : Nat) : Bool :=
  ((s.ce e).xfer tag).isNone &&
  match look none tag (s.ce e).quarantine with
  | some t => decide (10000000 ≤ (s.tbtime - t).toNat)
  | none => true

def freshTag (s : State) (e : Nat) : Option Nat :=
  ((upFrom (s.ce e).nextTag 32768).map fun i => e * 32768 + i % 32768).find? (tagFree s e)

/-- The checks of R387 on a descriptor's words. -/
def xferCheck (s : State) (e ctx : Nat) (w : List Nat) : Option Byte :=
  let g (i : Nat) : Nat := w.getD i 0
  let op := fld (g 0) 63 60
  if op ≠ 1 ∧ op ≠ 2 then some Code.badCmd
  else if fld (g 0) 57 48 ≠ 0 ∨ fld (g 2) 37 24 ≠ 0 ∨ fld (g 3) 63 32 ≠ 0 ∨ g 5 ≠ 0 ∨ g 6 ≠ 0 ∨ g 7 ≠ 0 ∨
      (op = 2 ∧ bitOf (g 0) 59) ∨ fld (g 1) 63 48 = 0xFFFF ∨ s.net.devId = 0xFFFF then some Code.badParam
  else if (bitOf (g 0) 58 ∧ !s.hasCore (fld (g 2) 50 44)) ∨ (bitOf (g 0) 59 ∧ 95 < fld (g 2) 63 57) then some Code.unsupported
  else if !(s.ce e).jobOn ctx then some Code.perm
  else none

/-- The PUT messages of a put (R381, R388): each names its own target VA, the last has LAST and POST. -/
def putMessages (job tag rva core ctr : Nat) (rpen : Bool) (bs : List Byte) : List (List Byte) :=
  (cuts bs.length).map fun o =>
    let last := decide (bs.length ≤ o + msgData)
    mkHdr 1 false false last rpen job tag ((rva + o) % 2 ^ 48 * 2 ^ 40 + core % 128 * 2 ^ 25 + ctr % 64 * 2 ^ 19) ++
      (bs.drop o).take msgData

/-- Sends messages in order; none: a route failed. -/
def sendAll (s : State) (e vl dst : Nat) : List (List Byte) → Option State
  | [] => some s
  | m :: ms =>
    match sendMsg s e vl dst m with
    | some s => sendAll s e vl dst ms
    | none => none

/-- A checked descriptor is issued: local pages are translated, a tag is taken, and the messages are sent; a route that
fails ends it with E_LINK at once (R387 to R390). -/
def issueXfer (s : State) (e ctx : Nat) (origin : XferOrigin) (w : List Nat) : State :=
  let g (i : Nat) : Nat := w.getD i 0
  let put := fld (g 0) 63 60 == 1
  let lva := fld (g 0) 47 0
  let len := fld (g 2) 23 0
  let dst := fld (g 1) 63 48
  let lpen := bitOf (g 0) 58
  let core := fld (g 2) 50 44
  let ctr := fld (g 2) 43 38
  let fin (s : State) (code : Byte) : State := endXfer s origin lpen core ctr code
  match xferCheck s e ctx w with
  | some code => endXfer s origin false 0 0 code
  | none =>
    if len = 0 then fin s Code.okEmpty
    else match xlate s ctx (if put then upFrom lva len else []) (if put then [] else upFrom lva len) with
      | (s, .err code _ _) => endXfer s origin false 0 0 code
      | (s, .ok xl) =>
        match if put then readCheck s ((upFrom lva len).map (viaXl xl)) else (s, none) with
        | (s, some code) => fin s code
        | (s, none) =>
          match freshTag s e with
          | none => s
          | some tag =>
            let job := (s.ce e).job ctx
            let s := s.modCe e fun x =>
              { x with nextTag := (tag + 1) % 32768, xfers := x.xfers ++ [⟨tag, ctx, origin, put, lpen, core, ctr, lva, len, xl, 0⟩] }
            let msgs :=
              if put then
                putMessages job tag (fld (g 1) 47 0) (fld (g 2) 63 57) (fld (g 2) 56 51) (bitOf (g 0) 59)
                  ((upFrom lva len).map fun a => s.byte (viaXl xl a))
              else [mkHdr 2 false false false false job tag (fld (g 1) 47 0 * 2 ^ 40 + len)]
            match sendAll s e 0 dst msgs with
            | some s => s
            | none => xferDone (countRoute s e dst false) e tag Code.link

/-! ### Messages in an engine's inbox -/

/-- The first message that passes a test among those that are first of their link and lane. -/
def inboxFirst (x : Ce) (sel : InMsg → Bool) : Option (InMsg × List InMsg) :=
  ((List.range x.inbox.length).filterMap fun i =>
    match x.inbox[i]? with
    | some m =>
      if sel m && !((x.inbox.take i).any fun g => g.link == m.link && g.vl == m.vl) then
        some (m, x.inbox.take i ++ x.inbox.drop (i + 1))
      else none
    | none => none).head?

/-- The same of a kind. -/
def inboxHead (x : Ce) (sel : Nat → Bool) : Option (InMsg × List InMsg) := inboxFirst x fun m => sel (hKind m.body)

/-- Takes such a message and consumes it, then does f. In the package safe state the engines stand still (R524). -/
def msgStep (s : State) (e : Nat) (sel : Nat → Bool) (f : State → InMsg → State) : State :=
  if decide (2 ≤ e) || s.agg.safe then s
  else match inboxHead (s.ce e) sel with
    | some (m, rest) => f (consume (s.modCe e fun x => { x with inbox := rest }) m) m
    | none => s

/-! ### At the target (R388, R389, R391) -/

/-- What a PUT message's bytes meet: written, or the status that discards it. -/
def putBytes (s : State) (e : Nat) (m : InMsg) : State × Byte :=
  let va := hLow m.body 87 40
  let bs := hData m.body
  match (s.ce e).ctxOf (hJob m.body) with
  | none => (s, Code.perm)
  | some n =>
    match xlate s n [] (upFrom va bs.length) with
    | (s, .err code _ _) => (s, code)
    | (s, .ok xl) =>
      match writeStop s ((List.range bs.length).zipWith (fun i b => (viaXl xl (va + i), b)) bs) with
      | (s, some code) => (s, code)
      | (s, none) => (s, Code.ok)

/-- The target's record of a put, with one more message's status. -/
def notePut (x : Ce) (m : InMsg) (st : Byte) : Ce :=
  let job := hJob m.body
  let tag := hTag m.body
  let upd (p : TargetPut) : TargetPut :=
    { p with status := if p.status = Code.ok then st else p.status, last := hLast m.body, post := hPost m.body,
             pcore := hLow m.body 31 25, pctr := hLow m.body 24 19 }
  if x.tputs.any fun p => p.src == m.src && p.tag == tag && !p.last then
    { x with tputs := x.tputs.map fun p => if p.src == m.src && p.tag == tag && !p.last then upd p else p }
  else
    { x with tputs := x.tputs ++ [upd ⟨x.nextPut, m.src, tag, job, Code.ok, false, false, 0, 0⟩], nextPut := x.nextPut + 1 }

/-- PUT: the message is translated in the context its JOB maps to, and written or discarded (R388, R391). -/
def execPut (e : Nat) (s : State) : Res :=
  .next (msgStep s e (· == 1) fun s m =>
    let r := putBytes s e m
    r.1.modCe e fun x => notePut x m r.2)

/-- PUT_LANDED_AT_TARGET: after the LAST message the target posts and sends ACK; an absent core gives E_UNSUPPORTED
(R388). -/
def execPutLandedAtTarget (e id : Nat) (s : State) : Res :=
  .next (
    if decide (2 ≤ e) || s.agg.safe then s
    else match (s.ce e).tputs.find? fun p => p.id == id && p.last with
      | none => s
      | some p =>
        let st := if p.status = Code.ok ∧ p.post ∧ !s.hasCore p.pcore then Code.unsupported else p.status
        let s := s.modCe e fun x => { x with tputs := x.tputs.filter fun q => q.id != id }
        let s := if p.post ∧ st = Code.ok then post s p.pcore p.pctr else s
        sendOrCount s e 1 p.src (mkHdr 4 false false false false p.job p.tag (st.toNat * 2 ^ 32)))

/-- GETRSP messages of a get's bytes, in ascending offset (R389). -/
def getResponses (job tag : Nat) (bs : List Byte) : List (List Byte) :=
  if bs.isEmpty then [mkHdr 3 false false true false job tag 0]
  else (cuts bs.length).map fun o =>
    mkHdr 3 false false (decide (bs.length ≤ o + msgData)) false job tag (o * 2 ^ 64) ++ (bs.drop o).take msgData

/-- GETREQ: the bytes are returned, or a single response with the error (R389, R391). -/
def execGetreq (e : Nat) (s : State) : Res :=
  .next (msgStep s e (· == 2) fun s m =>
    let job := hJob m.body
    let tag := hTag m.body
    let va := hLow m.body 87 40
    let len := hLow m.body 23 0
    let fail (s : State) (code : Byte) : State :=
      sendOrCount s e 1 m.src (mkHdr 3 false false true false job tag (code.toNat * 2 ^ 32))
    match (s.ce e).ctxOf job with
    | none => fail s Code.perm
    | some n =>
      match xlate s n (upFrom va len) [] with
      | (s, .err code _ _) => fail s code
      | (s, .ok xl) =>
        match readCheck s ((upFrom va len).map (viaXl xl)) with
        | (s, some code) => fail s code
        | (s, none) =>
          (getResponses job tag ((upFrom va len).map fun a => s.byte (viaXl xl a))).foldl
            (fun s b => sendOrCount s e 1 m.src b) s)

/-! ### At the origin (R389, R390) -/

/-- A response for an operation that is outstanding; another is discarded and counted (R390). -/
def originStep (s : State) (e : Nat) (m : InMsg) (put : Option Bool) (f : State → Xfer → State) : State :=
  match (s.ce e).xfer (hTag m.body) with
  | some x => if put = none ∨ put = some x.put then f s x else ceStale s e
  | none => ceStale s e

/-- GETRSP: data is written at LVA; the get completes when all LEN bytes have landed, or with an error (R389, R390). -/
def execGetrsp (e : Nat) (s : State) : Res :=
  .next (msgStep s e (· == 3) fun s m =>
    originStep s e m (some false) fun s x =>
      let st : Byte := BitVec.ofNat 8 (hLow m.body 39 32)
      if st.toNat ≥ 0x10 then xferDone s e x.tag st
      else
        let bs := hData m.body
        let off := hLow m.body 87 64
        if x.len < off + bs.length then ceStale s e
        else match writeStop s ((List.range bs.length).zipWith (fun i b => (viaXl x.xl (x.lva + off + i), b)) bs) with
          | (s, some code) => xferDone s e x.tag code
          | (s, none) =>
            if x.len ≤ x.landed + bs.length then xferDone s e x.tag Code.ok
            else s.modCe e fun c =>
              { c with xfers := c.xfers.map fun y => if y.tag = x.tag then { y with landed := y.landed + bs.length } else y })

/-- ACK: the put completes with its STATUS (R388, R390). -/
def execAck (e : Nat) (s : State) : Res :=
  .next (msgStep s e (· == 4) fun s m =>
    originStep s e m (some true) fun s x => xferDone s e x.tag (BitVec.ofNat 8 (hLow m.body 39 32)))

/-- NOROUTE: the operation ends with E_LINK (R390). -/
def execNoroute (e : Nat) (s : State) : Res :=
  .next (msgStep s e (· == 5) fun s m => originStep s e m none fun s x => xferDone s e x.tag Code.link)

/-- XFER_TIMEOUT: E_TIMEOUT, and the tag is not reused within 10 ms (R390). -/
def execXferTimeout (e tag : Nat) (s : State) : Res :=
  .next (
    if decide (2 ≤ e) || s.agg.safe then s
    else match (s.ce e).xfer tag with
      | some _ =>
        xferDone (s.modCe e fun x => { x with quarantine := put none tag (some s.tbtime) x.quarantine }) e tag Code.timeout
      | none => s)

/-- RESERVED_KIND_MESSAGE: discarded and counted (R382). -/
def execReservedKindMessage (e : Nat) (s : State) : Res :=
  .next (msgStep s e (fun k => k == 0 || k == 6 || k == 7 || decide (13 ≤ k)) fun s _ => ceStale s e)

end Sys2Proof.Machine
end

