-- ==== Sys2Proof/Machine/Control.lean ====
section
/-! DEFINITION. Branches, jumps, issue of commands to the units, and the control instructions of the control core
(R230, R231, R236 to R245). -/

namespace Sys2Proof.Machine

/-! ### Branches and jumps -/

/-- The stream goes to word n. -/
def redirect (s : State) (c t : Nat) (k : Core) (x : Stream) (n : Nat) : State := s.setCore c (k.setStream t { x with pc := n })

/-- PC + sext(IMM) as a signed integer (R231). -/
def relTarget (x : Stream) (w : W64) : Int := (x.pc : Int) + (ccSimm w).toInt

/-- A jump of a signed target; illegal below 0 and at or above CODELEN (R231). -/
def jump (s : State) (c t : Nat) (k : Core) (x : Stream) (w : W64) (tg : Int) : State :=
  if tg < 0 ∨ (k.codeLen : Int) ≤ tg then illegal s c t Code.badParam w 0 else redirect s c t k x tg.toNat

/-- A branch; the target of one not taken is not checked (R231). -/
def branch (s : State) (c t op : Nat) (f : W64 → W64 → Bool) : State :=
  ccStep s c t op fun k x w =>
    if f (x.reg (ccRa w)) (x.reg (ccRb w)) then jump s c t k x w (relTarget x w) else s.setCore c (k.setStream t x.advance)

/-- FP32 comparison of bits [31:0]: none when an operand is NaN (R230). -/
def fpCmp (a b : W64) : Option Ordering :=
  match fmtFP32.decode (a.toNat % 2 ^ 32), fmtFP32.decode (b.toNat % 2 ^ 32) with
  | .nan _, _ => none
  | _, .nan _ => none
  | .inf n, .inf m => some (if n = m then .eq else if n then .lt else .gt)
  | .inf n, .num _ => some (if n then .lt else .gt)
  | .num _, .inf m => some (if m then .gt else .lt)
  | .num p, .num q => some (p.cmp q)

/-- BEQ (R230). -/
def execBeq (c t : Nat) (s : State) : Res := .next (branch s c t 0xC0 fun a b => a == b)

/-- BNE (R230). -/
def execBne (c t : Nat) (s : State) : Res := .next (branch s c t 0xC1 fun a b => a != b)

/-- BLT, signed (R230). -/
def execBlt (c t : Nat) (s : State) : Res := .next (branch s c t 0xC2 fun a b => a.slt b)

/-- BGE, signed (R230). -/
def execBge (c t : Nat) (s : State) : Res := .next (branch s c t 0xC3 fun a b => !a.slt b)

/-- BLTU (R230). -/
def execBltu (c t : Nat) (s : State) : Res := .next (branch s c t 0xC4 fun a b => a.ult b)

/-- BGEU (R230). -/
def execBgeu (c t : Nat) (s : State) : Res := .next (branch s c t 0xC5 fun a b => !a.ult b)

/-- BFLT: never taken when an operand is NaN (R230). -/
def execBflt (c t : Nat) (s : State) : Res := .next (branch s c t 0xC6 fun a b => fpCmp a b == some .lt)

/-- BFGE: never taken when an operand is NaN (R230). -/
def execBfge (c t : Nat) (s : State) : Res :=
  .next (branch s c t 0xC7 fun a b => fpCmp a b == some .gt || fpCmp a b == some .eq)

/-- JAL: RD = PC + 1, then PC = PC + sext(IMM) (R230). -/
def execJal (c t : Nat) (s : State) : Res :=
  .next (ccStep s c t 0xC8 fun k x w =>
    jump s c t k (x.setReg (ccRd w) (BitVec.ofNat 64 (x.pc + 1))) w (relTarget x w))

/-- JR: PC = sRA[13:0] (R230). -/
def execJr (c t : Nat) (s : State) : Res :=
  .next (ccStep s c t 0xC9 fun k x w => jump s c t k x w ((x.reg (ccRa w)).toNat % 16384 : Nat))

/-- VTGT (R230); FN[1:0] = 0b11 is illegal (R231). -/
def execVtgt (c t : Nat) (s : State) : Res :=
  .next (ccStep s c t 0xD0 fun k x w =>
    let n := ccFn w % 4
    if n = 3 then illegal s c t Code.badParam w 0 else s.setCore c (k.setStream t { x with vtgt := n }.advance))

/-! ### Commands to the units -/

/-- Rows first to first + n − 1 reach GBASE or beyond (R237). -/
def rowsReach (k : Core) (first n : Nat) : Bool := decide (n ≠ 0) && decide (k.cfgGbase < first + n)

/-- The rows an array command names (R237). -/
def cmdRows (w0 w1 : W64) : Nat × Nat :=
  match fld w0.toNat 63 60 with
  | 2 => (fld w1.toNat 53 45, fld w1.toNat 63 54)
  | 3 => (fld w0.toNat 47 39, fld w0.toNat 38 29)
  | 4 => (fld w0.toNat 47 39, fld w0.toNat 38 29)
  | _ => (0, 0)

/-- An array command is allotted to a stream (R236, R237). -/
def allotted (k : Core) (t a : Nat) (w0 w1 : W64) : Bool :=
  let half := fld w0.toNat 59 58
  let r := cmdRows w0 w1
  (match k.cfgBpath with
    | 1 => if t = 1 then decide (a = 1) else decide (a = 0)
    | 2 => fld w0.toNat 63 60 != 5 && (if t = 1 then decide (half = 2) else decide (half = 1))
    | _ => true) &&
  !(k.cfgGpath && t != 1 && rowsReach k r.1 r.2)

/-- ACMD: issues W0 = sRA, W1 = sRB to MXA(FN[0]); the stream waits at a full queue (R230, R233, R68). A command with the
reserved HALF = 0b11 enters queue 0: the model's choice (log 115). -/
def execAcmd (c t : Nat) (s : State) : Res :=
  .next (ccStep s c t 0xD1 fun k x w =>
    let a := ccFn w % 2
    let w0 := x.reg (ccRa w)
    let w1 := x.reg (ccRb w)
    let q := if fld w0.toNat 59 58 = 2 then 1 else 0
    let m := k.mxa a
    if !allotted k t a w0 w1 then illegal s c t Code.perm w w0.toNat
    else if (m.half q).queue.length ≥ 16 then s
    else
      let k := k.setMxa a (m.modHalf q fun h => { h with queue := h.queue ++ [⟨k.issued, t, w0, w1, none⟩] })
      s.setCore c ({ k with issued := k.issued + 1 }.setStream t x.advance))

/-- SECMD: issues W0 = sRA, W1 = sRB to the SE command queue of 64 entries (R169, R230). A POST waits for every earlier
transfer in the queue, opened or not (R171). -/
def execSecmd (c t : Nat) (s : State) : Res :=
  .next (ccStep s c t 0xD2 fun k x w =>
    let w0 := x.reg (ccRa w)
    let w1 := x.reg (ccRb w)
    if k.seQueue.length ≥ 64 then s
    else
      let e : SeCmd := ⟨k.issued, t, w0, w1, .queued, k.seq.map (·.id) ++ k.running.map (·.id), false⟩
      s.setCore c ({ k with issued := k.issued + 1, seq := k.seq ++ [e] }.setStream t x.advance))

/-- CPCMD: issues W0 = sRA, W1 = sRB to the copy queue of 16 entries which holds the running
copy too (R212, R217, R230). -/
def execCpcmd (c t : Nat) (s : State) : Res :=
  .next (ccStep s c t 0xD3 fun k x w =>
    if k.cpq.length + (if k.copy.isSome then 1 else 0) ≥ 16 then s
    else
      let e : CopyCmd := ⟨k.issued, t, (k.prog.map (·.pid)).getD 0, k.ctx.getD 0, x.reg (ccRa w), x.reg (ccRb w)⟩
      s.setCore c ({ k with issued := k.issued + 1, cpq := k.cpq ++ [e] }.setStream t x.advance))

/-! ### Beats, fences and ends -/

/-- SWAP: the stream's beat ends with mask sRA and ledger request s(RA+1)[15:0] (R178, R230, R240); illegal with
RA = 31 and in state EXC (R231). The PC goes past the SWAP, where the stream resumes. -/
def execSwap (c t : Nat) (s : State) : Res :=
  .next (ccStep s c t 0xE0 fun k x w =>
    if ccRa w = 31 then illegal s c t Code.badParam w 0
    else if x.st = .exc then illegal s c t Code.perm w 0
    else
      s.setCore c (k.setStream t
        { x with st := .swap, mask := x.reg (ccRa w), units := (x.reg (ccRa w + 1)).toNat % 65536 }.advance))

/-- A slot load of stream t waits to write on an engine. -/
def Ve.loadsOf (x : Ve) (t : Nat) : Bool :=
  x.loads.any fun l => match l.origin with | .stream u _ => u == t | .host _ => false

/-- No array command of stream t is outstanding. -/
def Mxa.clearOf (x : Mxa) (t : Nat) : Bool := (x.west.queue ++ x.east.queue).all fun e => e.stream != t

/-- Everything the stream issued to the units named in FN has completed (R239). -/
def Core.fenceClear (k : Core) (t fn : Nat) : Bool :=
  (!bitOf fn 0 || (!k.ve0.loadsOf t && !k.ve1.loadsOf t && k.accWords.all fun a => a.stream != t)) &&
  (!bitOf fn 1 || (k.mxa0.clearOf t && k.mxa1.clearOf t)) &&
  (!bitOf fn 2 || ((k.seq.all fun e => e.stream != t) && k.running.all fun e => e.stream != t)) &&
  (!bitOf fn 3 || ((k.cpq.all fun e => e.stream != t) && (match k.copy with | some r => r.cmd.stream != t | none => true)))

/-- FENCE: waits for the stream's earlier work of the units named in FN (R239). -/
def execFence (c t : Nat) (s : State) : Res :=
  .next (ccStep s c t 0xE1 fun k x w => if k.fenceClear t (ccFn w) then s.setCore c (k.setStream t x.advance) else s)

/-- END: the stream ends once its work has completed, which STREAM_DONE says (R241); illegal in state EXC (R231). -/
def execEndCmd (c t : Nat) (s : State) : Res :=
  .next (ccStep s c t 0xE2 fun k x w =>
    if x.st = .exc then illegal s c t Code.perm w 0 else s.setCore c (k.setStream t { x with ending := true }))

/-- RAISE: the stream takes an exception E_ABORTED with XPC the word after RAISE (R243); in state EXC it ends the
program (R244). -/
def execRaise (c t : Nat) (s : State) : Res :=
  .next (ccStep s c t 0xE3 fun _ x w =>
    if x.st = .exc then exceptionInExc s c t
    else takeException s c t ⟨Code.aborted, 9, ccOp w, ccImm w, false⟩ (x.pc + 1) 0)

/-- XACK: back to RUN, FAULTED of the engine cleared if SRC is 1 or 2, on to XPC or sRA[13:0] (R245); the watchdog
counts again (R185). Illegal outside EXC (R231). -/
def execXack (c t : Nat) (s : State) : Res :=
  .next (ccStep s c t 0xE4 fun k x w =>
    if x.st ≠ .exc then illegal s c t Code.perm w 0
    else
      let v := x.sexc.toNat
      let src := fld v 55 52
      let k := if src = 1 ∨ src = 2 then k.setVe (src - 1) { k.ve (src - 1) with faulted := false } else k
      let pc := if bitOf (ccFn w) 0 then (x.reg (ccRa w)).toNat % 16384 else fld v 45 32
      s.setCore c ((k.setStream t { x with st := .run, pc := pc }).resumeWatchdog s.tbtime))

/-- XRD: RD = the stream's own SEXC (R230). -/
def execXrd (c t : Nat) (s : State) : Res := .next (ccStep s c t 0xE5 fun k x w => setRd s c t k x (ccRd w) x.sexc)

/-- CNOP (R230). -/
def execCnop (c t : Nat) (s : State) : Res := .next (ccStep s c t 0xE6 fun k x _ => s.setCore c (k.setStream t x.advance))

end Sys2Proof.Machine
end

