-- ==== Sys2Proof/Machine/Exceptions.lean ====
section
/-! DEFINITION. A stream's end, its taking an exception, and the lockstep of the control core (R241 to R247). -/

namespace Sys2Proof.Machine

/-- A stream named in STREAMS is DONE or not named (R242). -/
def Core.allDone (k : Core) : Bool := [0, 1, 2].all fun t => !k.named t || (k.stream t).st == .done

/-- With SEQ = 1, the next named stream starts, in the same beat (R235). -/
def Core.startNext (k : Core) : Core :=
  if k.cfgSeq then
    match [0, 1, 2].find? fun t => (k.stream t).st == .wait with
    | some t => k.modStream t fun x => { x with st := .run }
    | none => k
  else k

/-- Everything stream t has issued has completed (R241); its CECMD writes that wait count as commands (log 24). -/
def Core.endClear (k : Core) (t : Nat) : Bool := k.fenceClear t 15 && k.cecmd.all fun e => e.stream != t

/-- STREAM_DONE: a stream that has issued END and whose work has all completed is DONE (R241); the next sequential
stream starts (R235), and a program whose streams are all DONE ends with OK (R242). -/
def execStreamDone (c t : Nat) (s : State) : Res :=
  let k := s.core c
  let x := k.stream t
  .next (
    if k.prog.isSome && s.coreRuns c && decide (t < 3) && x.ending && x.pend.isEmpty && k.endClear t then
      let k := (k.setStream t { x with st := .done, ending := false }).startNext
      let s := s.setCore c k
      if k.allDone then endProgram s c Code.ok else s
    else s)

/-- Of exceptions that reach a stream together, the one with the lowest SRC, the first of them at a tie (R244). -/
def lowestSrc (e : PendExc) (es : List PendExc) : PendExc := es.foldl (fun a b => if b.src < a.src then b else a) e

/-- Exceptions that wait when the stream takes one have reached it together (log 61): the one with the lowest SRC is
recorded, the others are counted. An illegal instruction of a stream in EXC ends the program instead (R244). -/
def takePending (s : State) (c t : Nat) : State :=
  let k := s.core c
  let x := k.stream t
  match x.pend with
  | [] => s
  | e :: es =>
    if x.st = .exc then exceptionInExc s c t
    else
      let e := lowestSrc e es
      takeException s c t e (if e.src = 0 then x.pc else resumePc k t) es.length

/-- STREAM_EXCEPTION: an exception that waits for the stream is taken (R243, R244). -/
def execStreamException (c t : Nat) (s : State) : Res :=
  .next (if (s.core c).prog.isSome && s.coreRuns c && decide (t < 3) then takePending s c t else s)

/-- An event that takes a core out of work: it enters TESTING, and at the second within 1 s OUT_OF_SERVICE
(R518, R521). -/
def coreFaultEvent (s : State) (c : Nat) : State :=
  let last := look none c s.agg.coreEvt
  let now := s.tbtime
  let again := match last with | some t0 => decide ((now - t0).toNat < 1000000000) | none => false
  let a := { s.agg with coreEvt := put none c (some now) s.agg.coreEvt }
  { s with agg := if again then { a with oos := a.oos.add c, tst := a.tst.del c } else { a with tst := a.tst.add c } }

/-- CC_LOCKSTEP_MISMATCH: the program ends with E_ABORTED, no handler runs, and a lockstep event is recorded in place of
a stream-exception event (R247, R516, R521). -/
def execCcLockstepMismatch (c t : Nat) (s : State) : Res :=
  .next (
    if (s.core c).prog.isSome && s.coreRuns c then
      let s := record s ⟨0x23, 2, .core, c, t, Code.aborted, ((s.core c).stream t).pc, t⟩
      coreFaultEvent (endProgram s c Code.aborted) c
    else s)

end Sys2Proof.Machine
end

