-- ==== Sys2Proof/Machine/VecOps.lean ====
section
/-! DEFINITION. Shared operations of the vector engines: lanes and elements (R97 to R101), legality (R103), issue,
faults (R127, R131), summaries (R121 to R123), tile views and broadcast (R108, R109), and element-wise forms. -/

namespace Sys2Proof.Machine

/-! ### Registers and lanes -/

/-- Lane l of register r. -/
def Ve.lane (x : Ve) (r l : Nat) : W32 := look 0 (r * 1024 + l) x.v

/-- Bit l of predicate q; p0 reads all ones (R97). -/
def Ve.pbit (x : Ve) (q l : Nat) : Bool := q == 0 || x.p.has (q * 1024 + l)

/-- Writes lanes of a register; a written lane holds no error any more (R127). -/
def Ve.setLanes (x : Ve) (r : Nat) (ls : List (Nat × W32)) : Ve :=
  { x with v := putAll 0 (ls.map fun p => (r * 1024 + p.1, p.2)) x.v
           bad := ls.foldl (fun b p => b.del (r * 1024 + p.1)) x.bad }

/-- Writes bits of a predicate. -/
def Ve.setPreds (x : Ve) (q : Nat) (ls : List (Nat × Bool)) : Ve :=
  { x with p := putAll false (ls.map fun p => (q * 1024 + p.1, p.2)) x.p }

/-! ### Elements (R101) -/

/-- Elements per lane of a TYPE. -/
def perLane : Nat → Nat
  | 3 => 2 | 4 => 2 | 5 => 4 | 6 => 4 | 7 => 4 | _ => 1

/-- The elements of a lane, element 0 first. -/
def elemsOf (ty : Nat) (v : W32) : List Nat :=
  let k := perLane ty
  (List.range k).map fun e => v.toNat / 2 ^ (32 / k * e) % 2 ^ (32 / k)

/-- The lane that holds elements. -/
def laneOf (ty : Nat) (es : List Nat) : W32 :=
  let w := 32 / perLane ty
  BitVec.ofNat 32 (es.foldr (fun x n => x % 2 ^ w + 2 ^ w * n) 0)

/-- The floating-point format of a TYPE. -/
def typeFmt : Nat → Fmt
  | 3 => fmtBF16 | 4 => fmtFP16 | 5 => fmtE4M3 | 6 => fmtE5M2 | _ => fmtFP32

/-- TYPE names a floating-point type. -/
def typeFloat (ty : Nat) : Bool := ty == 0 || (decide (3 ≤ ty) && decide (ty ≤ 6))

/-! ### Legality (R103) -/

/-- What an opcode accepts. -/
structure VSpec where
  /-- Bit t: TYPE t is accepted (R101, R572). -/
  types : Nat
  /-- IMM bits the opcode defines. -/
  imm : Nat
  /-- The destination is a predicate. -/
  pdest : Bool
  /-- The instruction reads SX and SX + 1. -/
  pair : Bool
  /-- RM = SR is accepted (R49). -/
  sr : Bool
  /-- A condition of the opcode's own fails. -/
  bad : Bool

/-- TYPE masks: any defined; 32-bit ones; floating-point arithmetic; with INT32; float and 32-bit integers. -/
def tyAll : Nat := 0xFF
def ty32 : Nat := 0x07
def tyFloat : Nat := 0x19
def tyArith : Nat := 0x1B
def tyOrder : Nat := 0x1F

/-- An opcode with no field of its own. -/
def vSpec (types : Nat) : VSpec := ⟨types, 0, false, false, false, false⟩

/-- Some condition of R103 makes the instruction illegal with E_BADPARAM. -/
def vBad (sp : VSpec) (w : W64) : Bool :=
  decide (8 ≤ vType w) || !bitOf sp.types (vType w) || decide (6 ≤ vRm w) || (vRm w == 5 && !sp.sr) || vTw w == 7 ||
  (List.range 10).any (fun i => bitOf (vImm w) i && !bitOf sp.imm i) ||
  (sp.pdest && (vPd w == 0 || fld w.toNat 43 42 != 0)) || (sp.pair && vSx w == 31) ||
  ((vBcb w == 1 || vBcb w == 2) && vTw w == 0) || sp.bad

/-! ### One instruction at one engine -/

/-- What an instruction sees when it issues at an engine. -/
structure VIn where
  c : Nat
  t : Nat
  e : Nat
  w : W64
  x : Ve
  /-- SX and SX + 1. -/
  sx : W64
  sx1 : W64
  /-- Its issue number. -/
  n : Nat

/-- A write of a summary register: VALUE and INDEX, NF and EMPTY (R121, R122). -/
structure Summary where
  m : Nat
  val : W64
  nf : Bool
  empty : Bool

/-- What comes of an instruction at an engine. -/
inductive VOut where
  /-- A vector fault: the status and VFLT.ADDR (R127, R131). -/
  | fault (code : Byte) (addr : Nat)
  /-- The engine afterwards, the flags raised, and a summary write. -/
  | done (x : Ve) (flags : Byte) (sum : Option Summary)

/-- VFLT (R131). -/
def vfltWord (addr : Nat) (code : Byte) (op t : Nat) : W64 :=
  BitVec.ofNat 64 (addr % 2 ^ 24 * 2 ^ 32 + code.toNat * 2 ^ 24 + op * 2 ^ 16 + t)

/-- A vector fault at an engine: recorded, and raised for the stream; words of the stream that the engine has accepted
since have no effect (R127, R243). -/
def vectorFault (s : State) (c t e : Nat) (w : W64) (code : Byte) (addr : Nat) : State :=
  let s := s.modCore c fun k =>
    (k.setVe e { k.ve e with faulted := true, vflt := vfltWord addr code (vOp w) t }).setAcc e
      ((k.accOf e).filter fun a => a.stream != t)
  raise s c t ⟨code, 1 + e, vOp w, 0, false⟩

/-- Writes a summary register and its two flags (R121, R122). -/
def Core.summary (k : Core) (u : Summary) : Core :=
  { k with m := put 0 u.m u.val k.m
           mstat := BitVec.ofNat 16 (setFld k.mstat.toNat (2 * u.m + 1) (2 * u.m) (2 * b2n u.nf + b2n u.empty)) }

/-- An engine with its results, the flags and the summary. -/
def Core.vdone (k : Core) (e : Nat) (x : Ve) (flags : Byte) (sum : Option Summary) : Core :=
  let k := (k.setVe e x).flag (2 + e) flags
  match sum with
  | some u => k.summary u
  | none => k

/-- A form's effect at an engine. -/
abbrev VBody := State → VIn → State × VOut

/-- The engines a stream's vector words go to (R229). -/
def Stream.targets (x : Stream) : List Nat := if x.vtgt = 2 then [0, 1] else [x.vtgt]

/-- A residue mismatch at an engine: a DATAPATH event, and the program ends with E_ABORTED; the instruction writes
nothing (R518, R521). -/
def datapathMismatch (s : State) (c t e : Nat) (w : W64) : State :=
  let s := record s ⟨0x22, 2, .core, c, e, Code.aborted, vOp w, t⟩
  coreFaultEvent (errorEnd s c t Code.aborted) c

/-- What word w of stream t, with issue number n, meets at engine e (R102). -/
def engineIn (s : State) (c t e n : Nat) (w : W64) : VIn :=
  let x := (s.core c).stream t
  ⟨c, t, e, w, (s.core c).ve e, x.reg (vSx w), x.reg (vSx w + 1), n⟩

/-- One more issue fits in the engine's window of 64 cycles: above 32 it takes 6 units of the grant, and where they are
not free the engine holds issue until the next window (R483, R486). Accepted words of a program that has ended run
unbooked (R186). -/
def Core.windowOpen (k : Core) (e : Nat) : Bool :=
  let n := look 0 e k.winIssued
  decide (n < 32) || (decide (n < 64) && (k.prog.isNone || (k.ve e).book != 0 || decide (6 ≤ k.unbooked)))

/-- An engine issues: the cycle counts in its window, and the issue that exceeds 32 books (R486). -/
def Core.countIssue (k : Core) (e : Nat) : Core :=
  let n := look 0 e k.winIssued
  let k := { k with winIssued := put 0 e (n + 1) k.winIssued }
  if 32 ≤ n ∧ k.prog.isSome ∧ (k.ve e).book = 0 then k.setVe e { k.ve e with book := 6 } else k

/-- What a vector opcode waits for and what it does. `mm`: the engine whose residue check fails, if one does. `wait`: it
cannot issue yet at an engine. `regs`: the vector registers it reads or writes, which a drain to the engine issued
earlier holds until its rows are written (R106). -/
structure VForm where
  mm : Option Nat
  wait : State → VIn → Bool
  regs : W64 → List Nat
  body : VBody

/-- The word may issue at the engine. -/
def VForm.ready (f : VForm) (s : State) (c t e n : Nat) (w : W64) : Bool :=
  (s.core c).windowOpen e && !((drainRegs ((s.core c).mxa e) n).any (f.regs w).contains) && !f.wait s (engineIn s c t e n w)

/-- The word issues at the engine and has its effect there (R104). -/
def VForm.issue (f : VForm) (s : State) (c t e n : Nat) (w : W64) : State :=
  let s := s.modCore c fun k => k.countIssue e
  if f.mm = some e then datapathMismatch s c t e w
  else
    let s := match f.body s (engineIn s c t e n w) with
      | (s, .fault code addr) => vectorFault s c t e w code addr
      | (s, .done y fl sum) => s.modCore c fun k => k.vdone e y fl sum
    s.tally 0 0x06 c e 1

/-- The word goes to engines, which accept it independently: it issues at once, or waits in the acceptance queue
(R104, R229, R233). -/
def VForm.enter (f : VForm) (s : State) (c t n : Nat) (w : W64) : List Nat → State
  | [] => s
  | e :: es =>
    let s :=
      if ((s.core c).accOf e).isEmpty && f.ready s c t e n w then f.issue s c t e n w
      else s.modCore c fun k => k.setAcc e (k.accOf e ++ [⟨n, t, w⟩])
    f.enter s c t n w es

/-- An engine whose oldest accepted word is of stream t and opcode op and may issue. -/
def VForm.oldest (f : VForm) (s : State) (c t op : Nat) : Option (Nat × AccWord) :=
  if s.coreRuns c then
    [0, 1].findSome? fun e => match (s.core c).accOf e with
      | a :: _ => if a.stream = t ∧ vOp a.w = op ∧ f.ready s c t e a.id a.w then some (e, a) else none
      | [] => none
  else none

/-- One vector instruction of opcode op: the oldest word an engine has accepted issues if it is one and may; else the
stream's next word, if it is one, issues to the engines it targets. A stream that meets a full acceptance queue stalls
(R104, R229, R233). -/
def vecStep (s : State) (c t op : Nat) (mm : Option Nat) (wait : State → VIn → Bool) (regs : W64 → List Nat)
    (body : VBody) : State :=
  let f : VForm := ⟨mm, wait, regs, body⟩
  match f.oldest s c t op with
  | some (e, a) => f.issue (s.modCore c fun k => k.setAcc e ((k.accOf e).drop 1)) c t e a.id a.w
  | none =>
    match fetch s c t with
    | .nothing => s
    | .bad code => badFetch s c t code
    | .word w =>
      let k := s.core c
      let x := k.stream t
      if w.getLsbD 63 ∨ vOp w ≠ op then s
      else if vSmen w ∧ x.vtgt = 2 then illegal s c t Code.badParam w 0
      else if x.targets.any fun e => decide (8 ≤ (k.accOf e).length) then s
      else
        f.enter (s.modCore c fun k => { k with issued := k.issued + 1 }.modStream t Stream.advance) c t k.issued w x.targets

/-- No wait of its own. -/
def noWait (_ : State) (_ : VIn) : Bool := false

/-- A form that touches only its engine: legal, or illegal with E_BADPARAM. -/
def vecPure (s : State) (c t op : Nat) (mm : Option Nat) (regs : W64 → List Nat) (sp : W64 → VSpec) (f : VIn → VOut) :
    State :=
  vecStep s c t op mm noWait regs fun s i => (s, if vBad (sp i.w) i.w then .fault Code.badParam 0 else f i)

/-! ### Active lanes, tile views and broadcast -/

/-- W of a TW code, and R (R108). -/
def tileW (tw : Nat) : Nat := 1024 / 2 ^ tw

/-- Lane l is active (R98). -/
def VIn.active (i : VIn) (l : Nat) : Bool := decide (l < i.x.vl.val) && i.x.pbit (vPred i.w) l

/-- Active lanes. -/
def VIn.lanes (i : VIn) : List Nat := (List.range i.x.vl.val).filter fun l => i.x.pbit (vPred i.w) l

/-- Lanes below VL whose predicate bit is 0, zeroed when Z = 1 (R99). -/
def VIn.zeroed (i : VIn) : List Nat :=
  if vZ i.w then (List.range i.x.vl.val).filter fun l => !i.x.pbit (vPred i.w) l else []

/-- Operand B of lane l (R109). -/
def VIn.b (i : VIn) (l : Nat) : W32 :=
  let w := tileW (vTw i.w)
  match vBcb i.w with
  | 0 => i.x.lane (vVb i.w) l
  | 1 => i.x.lane (vVb i.w) (l % w)
  | 2 => i.x.lane (vVb i.w) (l / w)
  | _ => i.sx.setWidth 32

/-- The lanes of VB that operand B takes; broadcast source lanes are read whatever VL and PRED are (R109, R127). -/
def VIn.bLanes (i : VIn) : List Nat :=
  let w := tileW (vTw i.w)
  match vBcb i.w with
  | 0 => i.lanes
  | 1 => List.range w
  | 2 => List.range (1024 / w)
  | _ => []

/-- Some of these lanes of a register hold an uncorrectable error. -/
def VIn.badLanes (i : VIn) (r : Nat) (ls : List Nat) : Bool := ls.any fun l => i.x.bad.has (r * 1024 + l)

/-- An operand set of an element-wise form. -/
structure Uses where
  a : Bool
  b : Bool
  c : Bool

/-- An operand the form reads holds an uncorrectable lane. -/
def VIn.ecc (i : VIn) (u : Uses) : Bool :=
  (u.a && i.badLanes (vVa i.w) i.lanes) || (u.b && i.badLanes (vVb i.w) i.bLanes) || (u.c && i.badLanes (vVc i.w) i.lanes)

/-- Registers of an element-wise form. -/
def Uses.regs (u : Uses) (dest : Bool) (w : W64) : List Nat :=
  (if dest then [vVd w] else []) ++ (if u.a then [vVa w] else []) ++ (if u.b && vBcb w != 3 then [vVb w] else []) ++
  (if u.c then [vVc w] else [])

/-- An element-wise form: f gives each active lane's result and flags from lanes a, b and c (R99). -/
def VIn.elementwise (i : VIn) (u : Uses) (f : Nat → W32 → W32 → W32 → W32 × Byte) : VOut :=
  if i.ecc u then .fault Code.eccUncorr 0
  else
    let rs := i.lanes.map fun l => (l, f l (i.x.lane (vVa i.w) l) (i.b l) (i.x.lane (vVc i.w) l))
    .done (i.x.setLanes (vVd i.w) (rs.map (fun p => (p.1, p.2.1)) ++ i.zeroed.map fun l => (l, 0)))
      (flagsOr (rs.map (·.2.2))) none

/-- A form whose results are predicate bits (R99). -/
def VIn.predwise (i : VIn) (u : Uses) (f : Nat → W32 → W32 → Bool × Byte) : VOut :=
  if i.ecc u then .fault Code.eccUncorr 0
  else
    let rs := i.lanes.map fun l => (l, f l (i.x.lane (vVa i.w) l) (i.b l))
    .done (i.x.setPreds (vPd i.w) (rs.map (fun p => (p.1, p.2.1)) ++ i.zeroed.map fun l => (l, false)))
      (flagsOr (rs.map (·.2.2))) none

/-- Rounding mode of an arithmetic instruction. -/
def vRound (w : W64) : RMode :=
  match vRm w with
  | 0 => .rne | 1 => .rz | 2 => .rd | 3 => .ru | _ => .rna

/-- The 32-bit draw of R124 at position q. -/
def draw32 (key tag c3 q : Nat) : Nat :=
  let q := q % 2 ^ 64
  (philox key (q / 4 % 2 ^ 32) (q / 4 / 2 ^ 32) tag c3).getD (q % 4) 0

end Sys2Proof.Machine
end

