-- ==== Sys2Proof/Machine/Vector.lean ====
section
/-! DEFINITION. The vector instructions that touch only their engine's registers: moves, arithmetic, compares,
conversions, predicates, permutes and random numbers (R100, R110 to R115, R124 to R126). -/

namespace Sys2Proof.Machine

/-! ### Moves -/

/-- An element-wise instruction with no arithmetic. -/
def vecMove (s : State) (c t op : Nat) (u : Uses) (f : VIn → Nat → W32 → W32 → W32) : State :=
  vecPure s c t op none (u.regs true) (fun _ => vSpec tyAll) fun i =>
    i.elementwise u fun l a b _ => (f i l a b, 0)

/-- VNOP (R126). -/
def execVnop (c t : Nat) (s : State) : Res :=
  .next (vecPure s c t 0x00 none (fun _ => []) (fun _ => vSpec tyAll) fun i => .done i.x 0 none)

/-- VSETVL: VL = min(SX, 1,024) (R100). -/
def execVsetvl (c t : Nat) (s : State) : Res :=
  .next (vecPure s c t 0x01 none (fun _ => []) (fun _ => vSpec tyAll) fun i =>
    .done { i.x with vl := ⟨min i.sx.toNat 1024, by omega⟩ } 0 none)

/-- VMOV (R126). -/
def execVmov (c t : Nat) (s : State) : Res := .next (vecMove s c t 0x02 ⟨true, false, false⟩ fun _ _ a _ => a)

/-- VBCAST: SX[31:0] in every active lane (R126). -/
def execVbcast (c t : Nat) (s : State) : Res :=
  .next (vecMove s c t 0x03 ⟨false, false, false⟩ fun i _ _ _ => i.sx.setWidth 32)

/-- VIOTA (R126). -/
def execViota (c t : Nat) (s : State) : Res :=
  .next (vecMove s c t 0x04 ⟨false, false, false⟩ fun _ l _ _ => BitVec.ofNat 32 l)

/-- VSEL under the select predicate VC[26:24] (R126). -/
def execVsel (c t : Nat) (s : State) : Res :=
  .next (vecMove s c t 0x05 ⟨true, true, false⟩ fun i l a b => if i.x.pbit (vPc i.w) l then a else b)

/-! ### Arithmetic (R110, R111, R56, R57) -/

/-- A floating-point operation element by element. -/
def floatLane (w : W64) (f : Fmt → Nat → Nat → Nat → Nat × Byte) (a b c : W32) : W32 × Byte :=
  let ty := vType w
  let fm := typeFmt ty
  let rs := ((elemsOf ty a).zip ((elemsOf ty b).zip (elemsOf ty c))).map fun p => f fm p.1 p.2.1 p.2.2
  (laneOf ty (rs.map (·.1)), flagsOr (rs.map (·.2)))

/-- An operation on exact values rounded once under RM. With SAT = 1 an overflow saturates as in a conversion: the model's
choice (R102, R110, log 113). -/
def exactLane (w : W64) (g : FVal → FVal → FVal → FVal × Bool) (a b c : W32) : W32 × Byte :=
  floatLane w (fun fm x y z =>
    let r := fm.finishSat (vRound w) (vSat w) (g (fm.decode x) (fm.decode y) (fm.decode z))
    (r.bits, r.flags)) a b c

/-- An INT32 result: its low 32 bits, or clamped with SAT (R111). -/
def intLane (sat : Bool) (r : Int) : W32 × Byte :=
  let lo : Int := -2147483648
  let hi : Int := 2147483647
  if sat && decide (r < lo) then (BitVec.ofInt 32 lo, flagSat)
  else if sat && decide (hi < r) then (BitVec.ofInt 32 hi, flagSat)
  else (BitVec.ofInt 32 r, 0)

/-- An arithmetic instruction with operands A and B, and C if `useC`; `g` for floating-point types, `h` for INT32. -/
def vecArith (s : State) (c t op : Nat) (mm : Option Nat) (useC : Bool) (types : Nat)
    (g : RMode → FVal → FVal → FVal → FVal × Bool) (h : Int → Int → Int) : State :=
  vecPure s c t op mm ((⟨true, true, useC⟩ : Uses).regs true) (fun _ => vSpec types) fun i =>
    i.elementwise ⟨true, true, useC⟩ fun _ a b d =>
      if vType i.w = 1 then intLane (vSat i.w) (h a.toInt b.toInt)
      else exactLane i.w (g (vRound i.w)) a b d

/-- VADD (R110, R111). -/
def execVadd (c t : Nat) (mm : Option Nat) (s : State) : Res :=
  .next (vecArith s c t 0x10 mm false tyArith (fun rm a b _ => fadd rm.zeroSign a b) (· + ·))

/-- VSUB (R110, R111). -/
def execVsub (c t : Nat) (mm : Option Nat) (s : State) : Res :=
  .next (vecArith s c t 0x11 mm false tyArith (fun rm a b _ => fadd rm.zeroSign a b.negate) (· - ·))

/-- VMUL (R110, R111). -/
def execVmul (c t : Nat) (mm : Option Nat) (s : State) : Res :=
  .next (vecArith s c t 0x12 mm false tyArith (fun _ a b _ => fmul a b) (· * ·))

/-- VFMA: a × b + c, one rounding (R110, R57). -/
def execVfma (c t : Nat) (mm : Option Nat) (s : State) : Res :=
  .next (vecArith s c t 0x13 mm true tyFloat (fun rm a b d => ffma rm.zeroSign a b d) (fun _ _ => 0))

/-- VFMS: a × b − c (R110). -/
def execVfms (c t : Nat) (mm : Option Nat) (s : State) : Res :=
  .next (vecArith s c t 0x14 mm true tyFloat (fun rm a b d => ffma rm.zeroSign a b d.negate) (fun _ _ => 0))

/-- VNFMA: −(a × b) + c (R110). -/
def execVnfma (c t : Nat) (mm : Option Nat) (s : State) : Res :=
  .next (vecArith s c t 0x15 mm true tyFloat (fun rm a b d => ffma rm.zeroSign a.negate b d) (fun _ _ => 0))

/-- How two values order for VMAX, VMIN and reductions: −0 below +0 (R110, R118). Neither is a NaN. -/
def totalCmp (a b : FVal) : Ordering :=
  match a, b with
  | .inf n, .inf m => if n = m then .eq else if n then .lt else .gt
  | .inf n, _ => if n then .lt else .gt
  | _, .inf m => if m then .gt else .lt
  | .num p, .num q =>
    if p.m = 0 ∧ q.m = 0 then (if p.neg = q.neg then .eq else if p.neg then .lt else .gt) else p.cmp q
  | _, _ => .eq

/-- The larger, or the smaller, of two elements: the canonical NaN if either is a NaN (R110). -/
def pickFloat (mx : Bool) (fm : Fmt) (x y : Nat) : Nat × Byte :=
  let a := fm.decode x
  let b := fm.decode y
  if a.isNan || b.isNan then (fm.nanBits, flagIf (a.isSnan || b.isSnan) flagInv)
  else if ((totalCmp a b != .lt) == mx) then (x, 0) else (y, 0)

/-- VMAX and VMIN: INT32 signed, UINT32 unsigned (R111). -/
def vecPick (s : State) (c t op : Nat) (mm : Option Nat) (mx : Bool) : State :=
  vecPure s c t op mm ((⟨true, true, false⟩ : Uses).regs true) (fun _ => vSpec tyOrder) fun i =>
    i.elementwise ⟨true, true, false⟩ fun _ a b d =>
      if vType i.w = 1 then (if (b.sle a) == mx then a else b, 0)
      else if vType i.w = 2 then (if (b.ule a) == mx then a else b, 0)
      else floatLane i.w (fun fm x y _ => pickFloat mx fm x y) a b d

/-- VMAX (R110, R111). -/
def execVmax (c t : Nat) (mm : Option Nat) (s : State) : Res := .next (vecPick s c t 0x16 mm true)

/-- VMIN (R110, R111). -/
def execVmin (c t : Nat) (mm : Option Nat) (s : State) : Res := .next (vecPick s c t 0x17 mm false)

/-- VABS and VNEG change only the sign bit (R110). -/
def vecSign (s : State) (c t op : Nat) (flip : Bool) : State :=
  vecPure s c t op none ((⟨true, false, false⟩ : Uses).regs true) (fun _ => vSpec tyFloat) fun i =>
    i.elementwise ⟨true, false, false⟩ fun _ a _ _ =>
      let sg : W32 := if perLane (vType i.w) = 2 then 0x80008000 else 0x80000000
      (if flip then a ^^^ sg else a &&& ~~~sg, 0)

/-- VABS (R110). -/
def execVabs (c t : Nat) (s : State) : Res := .next (vecSign s c t 0x18 false)

/-- VNEG (R110). -/
def execVneg (c t : Nat) (s : State) : Res := .next (vecSign s c t 0x19 true)

/-- A VCMP condition on an ordering; none: an operand is NaN (R112). -/
def condHolds (cond : Nat) (o : Option Ordering) : Bool :=
  match cond, o with
  | 0, o => o == some .eq
  | 1, o => o != some .eq
  | 2, o => o == some .lt
  | 3, o => o == some .lt || o == some .eq
  | 4, o => o == some .gt
  | 5, o => o == some .gt || o == some .eq
  | 6, o => o.isNone
  | _, o => o.isSome

/-- VCMP (R112). -/
def execVcmp (c t : Nat) (s : State) : Res :=
  .next (vecPure s c t 0x1A none ((⟨true, true, false⟩ : Uses).regs false)
    (fun _ => { vSpec ty32 with imm := 0x7, pdest := true }) fun i =>
      i.predwise ⟨true, true, false⟩ fun _ a b =>
        let o : Option Ordering :=
          match vType i.w with
          | 1 => some (compare a.toInt b.toInt)
          | 2 => some (compare a.toNat b.toNat)
          | _ => fpCmp (a.setWidth 64) (b.setWidth 64)
        let sn := vType i.w == 0 && ((fmtFP32.decode a.toNat).isSnan || (fmtFP32.decode b.toNat).isSnan)
        (condHolds (vImm i.w % 8) o, flagIf sn flagInv))

/-- VSCALE: a × 2^b, one rounding; b is the INT32 of the lane, or the INT16 of the element (R110). -/
def execVscale (c t : Nat) (mm : Option Nat) (s : State) : Res :=
  .next (vecPure s c t 0x1B mm ((⟨true, true, false⟩ : Uses).regs true) (fun _ => vSpec tyFloat) fun i =>
    i.elementwise ⟨true, true, false⟩ fun _ a b d =>
      floatLane i.w (fun fm x y _ =>
        let n := sext (32 / perLane (vType i.w)) y
        let n := max (-600) (min 600 n)
        let v : FVal := match fm.decode x with | .num q => .num (q.scale n) | z => z
        let r := fm.convert (vRound i.w) (vSat i.w) v
        (r.bits, r.flags)) a b d)

/-! ### Bit operations (R111, R126) -/

/-- A bit operation on 32-bit lanes. -/
def vecBits (s : State) (c t op types : Nat) (f : W32 → W32 → W32) : State :=
  vecPure s c t op none ((⟨true, true, false⟩ : Uses).regs true) (fun _ => vSpec types) fun i =>
    i.elementwise ⟨true, true, false⟩ fun _ a b _ => (f a b, 0)

/-- VAND. -/
def execVand (c t : Nat) (s : State) : Res := .next (vecBits s c t 0x20 0x04 fun a b => a &&& b)

/-- VOR. -/
def execVor (c t : Nat) (s : State) : Res := .next (vecBits s c t 0x21 0x04 fun a b => a ||| b)

/-- VXOR. -/
def execVxor (c t : Nat) (s : State) : Res := .next (vecBits s c t 0x22 0x04 fun a b => a ^^^ b)

/-- VSHL by the low 5 bits of B. -/
def execVshl (c t : Nat) (s : State) : Res := .next (vecBits s c t 0x23 0x06 fun a b => a <<< (b.toNat % 32))

/-- VSHR. -/
def execVshr (c t : Nat) (s : State) : Res := .next (vecBits s c t 0x24 0x06 fun a b => a >>> (b.toNat % 32))

/-- VSRA. -/
def execVsra (c t : Nat) (s : State) : Res := .next (vecBits s c t 0x25 0x06 fun a b => a.sshiftRight (b.toNat % 32))

/-! ### Conversions (R113, R114) -/

/-- Types a VCVT accepts as source and as target (R101). -/
def tyConvert : Nat := 0xFB

/-- The mode a conversion of output element n rounds under (R51, R113). -/
def VIn.cvtMode (i : VIn) (n : Nat) : RMode :=
  if vRm i.w = 5 then .sr (srDraw i.x.keySr.toNat (i.sx1.toNat % 2 ^ 32) (i.sx.toNat + n)) else vRound i.w

/-- One element converted (R47 to R53). -/
def cvtElem (src dst : Nat) (rm : RMode) (sat : Bool) (x : Nat) : Nat × Byte :=
  let v : FVal :=
    match src with
    | 1 => .num (dyInt (sext 32 x))
    | 7 => .num (dyInt (sext 8 x))
    | _ => (typeFmt src).decode x
  match dst with
  | 1 => let r := toInteger 32 rm v; (toBits 32 r.1, r.2)
  | 7 => let r := toInteger 8 rm v; (toBits 8 r.1, r.2)
  | _ => let r := (typeFmt dst).convert rm sat v; (r.bits, r.flags)

/-- A conversion that keeps the packing: element-wise (R113). -/
def VIn.cvtSame (i : VIn) (src dst : Nat) : VOut :=
  i.elementwise ⟨true, false, false⟩ fun l a _ _ =>
    let k := perLane dst
    let rs := (List.range k).zipWith (fun e x => cvtElem src dst (i.cvtMode (k * l + e)) (vSat i.w) x) (elemsOf src a)
    (laneOf dst (rs.map (·.1)), flagsOr (rs.map (·.2)))

/-- A conversion that changes the packing: every element of lanes 0 to VL − 1, packed densely, as far as lane 1,023 of
VD reaches; PRED and Z are ignored (R113). -/
def VIn.cvtDense (i : VIn) (src dst : Nat) : VOut :=
  let ks := perLane src
  let kd := perLane dst
  let n := min (ks * i.x.vl.val) (1024 * kd)
  if i.badLanes (vVa i.w) (List.range ((n + ks - 1) / ks)) then .fault Code.eccUncorr 0
  else
    let elem (j : Nat) : Nat := (elemsOf src (i.x.lane (vVa i.w) (j / ks))).getD (j % ks) 0
    let rs := (List.range n).map fun j => cvtElem src dst (i.cvtMode j) (vSat i.w) (elem j)
    let lanes := (List.range ((n + kd - 1) / kd)).map fun l =>
      (l, laneOf dst ((List.range kd).map fun e => (rs.map (·.1)).getD (kd * l + e) 0))
    .done (i.x.setLanes (vVd i.w) lanes) (flagsOr (rs.map (·.2))) none

/-- VCVT (R113). -/
def execVcvt (c t : Nat) (mm : Option Nat) (s : State) : Res :=
  .next (vecPure s c t 0x30 mm ((⟨true, false, false⟩ : Uses).regs true)
    (fun w =>
      let dst := vImm w % 16
      { types := tyConvert, imm := 0xF, pdest := false, pair := vRm w == 5,
        sr := decide (3 ≤ dst) && decide (dst ≤ 6), bad := !bitOf tyConvert dst })
    fun i =>
      let dst := vImm i.w % 16
      if perLane (vType i.w) = perLane dst then i.cvtSame (vType i.w) dst else i.cvtDense (vType i.w) dst)

/-- The element format of a code, and its emax (R54). -/
def mxFmt : Nat → Fmt
  | 3 => fmtE4M3 | 4 => fmtE5M2 | 5 => fmtE3M2 | 6 => fmtE2M3 | _ => fmtE2M1
def mxEmax : Nat → Int
  | 3 => 8 | 4 => 15 | 5 => 4 | _ => 2

/-- Thirty-two values converted to one MX block: the scale byte, the element codes and the flags (R54). `rm j` is the
mode of element j. -/
def mxBlock (f : Nat) (rm : Nat → RMode) (xs : List FVal) : Nat × List Nat × Byte :=
  if xs.any fun x => !x.isFinite then (255, List.replicate 32 0, flagInv)
  else
    let ds := xs.map fun x => match x with | .num d => d | _ => dyZero false
    let lg : Option Int := ds.foldl (fun h d =>
      if d.m = 0 then h else match h with | none => some d.log2 | some y => some (max y d.log2)) none
    let e : Int := match lg with | none => -127 | some y => max (-127) (y - mxEmax f)
    let rs := (List.range 32).zipWith (fun j d => (mxFmt f).roundNum (rm j) true (d.scale (-e))) ds
    ((e + 127).toNat, rs.map (·.bits), flagsOr (rs.map (·.flags)))

/-- Bytes as the lanes of a register. -/
def byteLanes (bs : List Byte) : List (Nat × W32) :=
  (List.range 1024).map fun l => (l, BitVec.ofNat 32 (fieldAt bs (4 * l) 4))

/-- VCVTMX (R114). -/
def execVcvtmx (c t : Nat) (mm : Option Nat) (s : State) : Res :=
  .next (vecPure s c t 0x31 mm (fun w => [vVd w, vVa w, vVc w])
    (fun w => { types := 0x01, imm := 0xF, pdest := false, pair := vRm w == 5, sr := true,
                bad := decide (vImm w % 16 < 3) || decide (7 < vImm w % 16) })
    fun i =>
      let f := vImm i.w % 16
      if i.badLanes (vVa i.w) (List.range i.x.vl.val) then .fault Code.eccUncorr 0
      else
        let nb := (i.x.vl.val + 31) / 32
        let blocks := (List.range nb).map fun b =>
          mxBlock f (fun j => i.cvtMode (32 * b + j))
            ((upFrom (32 * b) 32).map fun l =>
              if l < i.x.vl.val then fmtFP32.decode (i.x.lane (vVa i.w) l).toNat else .num (dyZero false))
        let w := fmtBits f
        let bytes := blocks.flatMap fun q => leBytes (4 * w) (q.2.1.foldr (fun x n => x + 2 ^ w * n) 0)
        let scales := blocks.map fun q => BitVec.ofNat 8 q.1
        let x := i.x.setLanes (vVd i.w) (byteLanes bytes)
        .done (x.setLanes (vVc i.w) (byteLanes scales)) (flagsOr (blocks.map (·.2.2))) none)

/-! ### Predicates -/

/-- A predicate from predicates pa and pb (R126). -/
def vecPred (s : State) (c t op : Nat) (f : Bool → Bool → Bool) : State :=
  vecPure s c t op none (fun _ => []) (fun _ => { vSpec tyAll with pdest := true }) fun i =>
    i.predwise ⟨false, false, false⟩ fun l _ _ => (f (i.x.pbit (vPa i.w) l) (i.x.pbit (vPb i.w) l), 0)

/-- PAND. -/
def execPand (c t : Nat) (s : State) : Res := .next (vecPred s c t 0x38 fun a b => a && b)

/-- POR. -/
def execPor (c t : Nat) (s : State) : Res := .next (vecPred s c t 0x39 fun a b => a || b)

/-- PXOR. -/
def execPxor (c t : Nat) (s : State) : Res := .next (vecPred s c t 0x3A fun a b => a != b)

/-- PANDN: pa & ~pb. -/
def execPandn (c t : Nat) (s : State) : Res := .next (vecPred s c t 0x3B fun a b => a && !b)

/-- PFROMV: lane l of VA is not 0 (R126). -/
def execPfromv (c t : Nat) (s : State) : Res :=
  .next (vecPure s c t 0x3C none (fun w => [vVa w]) (fun _ => { vSpec tyAll with pdest := true }) fun i =>
    i.predwise ⟨true, false, false⟩ fun _ a _ => (a != 0, 0))

/-- VFROMP: pa[l] as UINT32 (R126). -/
def execVfromp (c t : Nat) (s : State) : Res :=
  .next (vecMove s c t 0x3D ⟨false, false, false⟩ fun i l _ _ => if i.x.pbit (vPa i.w) l then 1 else 0)

/-! ### Permutes (R115) -/

/-- A permute: `src l k` is the lane read for index k in lane l, none when it is out of range. -/
def vecPermute (s : State) (c t op : Nat) (src : VIn → Nat → Nat → Option Nat) : State :=
  vecPure s c t op none (fun w => [vVd w, vVa w, vVb w]) (fun _ => vSpec tyAll) fun i =>
    let idx := i.lanes.map fun l => (l, src i l (i.x.lane (vVb i.w) l).toNat)
    if i.badLanes (vVb i.w) i.lanes || i.badLanes (vVa i.w) (idx.filterMap (·.2)) then .fault Code.eccUncorr 0
    else
      let rs := idx.map fun p => (p.1, match p.2 with | some j => i.x.lane (vVa i.w) j | none => 0)
      .done (i.x.setLanes (vVd i.w) (rs ++ i.zeroed.map fun l => (l, 0)))
        (flagIf (idx.any fun p => p.2.isNone) flagPermOor) none

/-- VPERM (R115). -/
def execVperm (c t : Nat) (s : State) : Res :=
  .next (vecPermute s c t 0x40 fun i _ k => if k < i.x.vl.val then some k else none)

/-- VPERMR: within rows of width W (R115). -/
def execVpermr (c t : Nat) (s : State) : Res :=
  .next (vecPermute s c t 0x41 fun i l k =>
    let w := tileW (vTw i.w)
    if k < w ∧ w * (l / w) + k < i.x.vl.val then some (w * (l / w) + k) else none)

/-! ### Random numbers and dropout (R124, R125) -/

/-- The draw of element n. -/
def VIn.draw (i : VIn) (c3 n : Nat) : Nat := draw32 i.x.keyRng.toNat (i.sx1.toNat % 2 ^ 32) c3 (i.sx.toNat + n)

/-- VRNG (R125). -/
def execVrng (c t : Nat) (s : State) : Res :=
  .next (vecPure s c t 0x58 none (fun w => [vVd w]) (fun _ => { vSpec ty32 with imm := 0x1, pair := true }) fun i =>
    i.elementwise ⟨false, false, false⟩ fun l _ _ _ =>
      let u := i.draw 0x524E0000 l
      if bitOf (vImm i.w) 0 then (BitVec.ofNat 32 (fmtFP32.roundNum .rne false ⟨false, u / 256, -24⟩).bits, 0)
      else (BitVec.ofNat 32 u, 0))

/-- VDROP: an element is dropped when its draw is below D = SX + 1[63:32] (R125). -/
def execVdrop (c t : Nat) (s : State) : Res :=
  .next (vecPure s c t 0x59 none (fun w => [vVd w]) (fun _ => { vSpec tyOrder with pair := true }) fun i =>
    i.elementwise ⟨false, false, false⟩ fun l _ _ _ =>
      let k := perLane (vType i.w)
      let es := (List.range k).map fun e =>
        if i.draw 0x44520000 (k * l + e) < i.sx1.toNat / 2 ^ 32 then 0 else 2 ^ (32 / k) - 1
      (laneOf (vType i.w) es, 0))

/-- VDROPP: the keep decision as a predicate (R125). -/
def execVdropp (c t : Nat) (s : State) : Res :=
  .next (vecPure s c t 0x5A none (fun _ => []) (fun _ => { vSpec ty32 with pdest := true, pair := true }) fun i =>
    i.predwise ⟨false, false, false⟩ fun l _ _ => (decide (i.sx1.toNat / 2 ^ 32 ≤ i.draw 0x44520000 l), 0))

/-! ### Unlisted opcodes -/

/-- The vector opcodes of R126, R151 and R157. -/
def vListed (op : Nat) : Bool :=
  decide (op ≤ 0x05) || (decide (0x10 ≤ op) && decide (op ≤ 0x1B)) || (decide (0x20 ≤ op) && decide (op ≤ 0x25)) ||
  op == 0x30 || op == 0x31 || (decide (0x38 ≤ op) && decide (op ≤ 0x3D)) || op == 0x40 || op == 0x41 ||
  (decide (0x48 ≤ op) && decide (op ≤ 0x4B)) || op == 0x50 || op == 0x51 || (decide (0x58 ≤ op) && decide (op ≤ 0x5A)) ||
  (decide (0x60 ≤ op) && decide (op ≤ 0x63)) || (decide (0x70 ≤ op) && decide (op ≤ 0x77))

/-- A vector word whose opcode is not listed is a vector fault with E_BADCMD (R103). -/
def unlistedStep (s : State) (c t op : Nat) : State :=
  vecStep s c t op none noWait (fun _ => []) fun s _ => (s, .fault Code.badCmd 0)

/-- Opcodes not listed at the heads of the acceptance queues, of stream t. -/
def Core.unlistedHeads (k : Core) (t : Nat) : List Nat :=
  [0, 1].filterMap fun e => match k.accOf e with
    | a :: _ => if a.stream = t ∧ !vListed (vOp a.w) then some (vOp a.w) else none
    | [] => none

/-- UNLISTED_VECTOR_OPCODE. -/
def execUnlistedVectorOpcode (c t : Nat) (s : State) : Res :=
  match (s.core c).unlistedHeads t with
  | op :: _ => .next (unlistedStep s c t op)
  | [] =>
    match fetch s c t with
    | .word w => if vListed (vOp w) then .next s else .next (unlistedStep s c t (vOp w))
    | .bad code => .next (badFetch s c t code)
    | .nothing => .next s

end Sys2Proof.Machine
end

