-- ==== Sys2Proof/Machine/CollOps.lean ====
section
/-! DEFINITION. Shared operations of collective instances: pieces of steps, combining, matching, triggers, and Evohild's
field and records (R394 to R405, R419 to R425). -/

namespace Sys2Proof.Machine

/-! ### GF(2⁸) with polynomial 0x11D (R419) -/

/-- Twice an element. -/
def gdbl (a : Nat) : Nat := if 128 ≤ a then (2 * a) ^^^ 0x11D else 2 * a

/-- a times the low n bits of b. -/
def gmulBits : Nat → Nat → Nat → Nat
  | 0, _, _ => 0
  | n + 1, a, b => (if b % 2 = 1 then a else 0) ^^^ gmulBits n (gdbl a) (b / 2)

def gmul (a b : Nat) : Nat := gmulBits 8 a b

/-- g^n. -/
def gpow : Nat → Nat
  | 0 => 1
  | n + 1 => gdbl (gpow n)

/-- The inverse: a^254. -/
def ginv (a : Nat) : Nat :=
  let a2 := gmul a a
  let a4 := gmul a2 a2
  let a8 := gmul a4 a4
  let a16 := gmul a8 a8
  let a32 := gmul a16 a16
  let a64 := gmul a32 a32
  gmul (gmul a64 a64) (gmul a64 (gmul a32 (gmul a16 (gmul a8 (gmul a4 a2)))))

/-- A byte multiplied by a field element. -/
def gmulByte (k : Nat) (b : Byte) : Byte := BitVec.ofNat 8 (gmul k b.toNat)

/-! ### Elements and combining (R393, R399, R403) -/

/-- Bytes of an element type. -/
def etSize (t : Nat) : Nat := [4, 2, 2, 4, 4, 1].getD t 1
def etFloat (t : Nat) : Bool := decide (t < 3)
def etFmt (t : Nat) : Fmt := if t = 0 then fmtFP32 else if t = 1 then fmtBF16 else fmtFP16

/-- a ⊕ b on the bits of one element (R399). -/
def combine (rop t a b : Nat) : Nat :=
  let fm := etFmt t
  match rop with
  | 1 => if etFloat t then (fm.finish .rne (fadd false (fm.decode a) (fm.decode b))).bits else (a + b) % 2 ^ 32
  | 2 => if etFloat t then (pickFloat true fm a b).1 else if t = 3 then (if sext 32 b ≤ sext 32 a then a else b) else max a b
  | 3 => if etFloat t then (pickFloat false fm a b).1 else if t = 3 then (if sext 32 a ≤ sext 32 b then a else b) else min a b
  | 4 => a &&& b
  | 5 => a ||| b
  | 6 => a ^^^ b
  | _ => b

/-- Elements of a byte list. -/
def elems (t : Nat) (bs : List Byte) : List Nat :=
  (List.range (bs.length / etSize t)).map fun i => fieldAt bs (i * etSize t) (etSize t)

/-- Element by element. -/
def combineBytes (rop t : Nat) (a b : List Byte) : List Byte :=
  ((elems t a).zipWith (combine rop t) (elems t b)).flatMap (leBytes (etSize t))

/-- Some element is Inf or NaN; never for integers and bytes (R403). -/
def anyNonFinite (t : Nat) (bs : List Byte) : Bool :=
  etFloat t && (elems t bs).any fun v => !((etFmt t).decode v).isFinite

/-! ### Addresses and translations -/

/-- One address in each page of a range: its first, then every page's start. -/
def pageStarts (lo n : Nat) : List Nat :=
  if n = 0 then [] else lo :: (upFrom (lo / 4096 + 1) ((lo + n - 1) / 4096 - lo / 4096)).map (· * 4096)

/-- Context address of byte o of a source or destination chunk (R393). -/
def Plan.srcAt (p : Plan) (c o : Nat) : Nat := p.srcva + (c - p.sfirst) * p.chunkB + o
def Plan.dstAt (p : Plan) (c o : Nat) : Nat := p.dstva + (c - p.dfirst) * p.chunkB + o

/-- Bytes of the source, of the destination. -/
def Plan.srcLen (p : Plan) : Nat := p.snchunk * p.chunkB
def Plan.dstLen (p : Plan) : Nat := p.dnchunk * p.chunkB

/-! ### Progress of steps (R395, R396) -/

/-- What a step has to reach. -/
def Plan.total (p : Plan) (x : PlanStep) : Nat := if x.isData then x.nch * p.chunkB else 1

def Inst.at (i : Inst) (k : Nat) : Nat := look 0 k i.prog

/-- The step is done; a detached instance's data steps have stopped (R407). -/
def Inst.done (i : Inst) (p : Plan) (k : Nat) : Bool :=
  decide (p.total (p.step k) ≤ i.at k) || (i.detached && (p.step k).isData)

/-- Every step is done. -/
def Inst.allDone (i : Inst) (p : Plan) : Bool := (List.range p.nstep).all fun k => i.done p k

/-- Steps before k that are not done. -/
def Inst.open' (i : Inst) (p : Plan) (k : Nat) : List Nat := (List.range k).filter fun j => !i.done p j

/-- An earlier step writes bytes [o, o + n) of destination chunk c and has not written them all. -/
def Inst.dstWait (i : Inst) (p : Plan) (k c o n : Nat) : Bool :=
  (List.range k).any fun j =>
    let y := p.step j
    y.isData && y.toDst && decide (y.chunk ≤ c) && decide (c < y.chunk + y.nch) &&
    decide (i.at j < (c - y.chunk) * p.chunkB + o + n)

/-- The same of buffer slot b. -/
def Inst.bufWait (i : Inst) (p : Plan) (k b o n : Nat) : Bool :=
  (List.range k).any fun j =>
    let y := p.step j
    y.isData && y.toBuf && decide (y.buf ≤ b) && decide (b < y.buf + y.nch) &&
    decide (i.at j < (b - y.buf) * p.chunkB + o + n)

/-- An earlier step still has to read or write destination chunk c: the chunk is not written before (R400). -/
def Inst.dstBusy (i : Inst) (p : Plan) (k c : Nat) : Bool :=
  (List.range k).any fun j =>
    let y := p.step j
    y.isData && (y.toDst || (y.opc != 2 && y.akind == 1)) && decide (y.chunk ≤ c) && decide (c < y.chunk + y.nch) &&
    decide (i.at j < (c + 1 - y.chunk) * p.chunkB)

/-- The same of buffer slot b. -/
def Inst.bufBusy (i : Inst) (p : Plan) (k b : Nat) : Bool :=
  (List.range k).any fun j =>
    let y := p.step j
    y.isData && (y.toBuf || (y.opc != 2 && y.akind == 2)) && decide (y.buf ≤ b) && decide (b < y.buf + y.nch) &&
    decide (i.at j < (b + 1 - y.buf) * p.chunkB)

/-- Step k may go on: at most 16 are in progress, receives from one link and sends on one link go in plan order
(R396). -/
def Inst.mayStep (i : Inst) (p : Plan) (e k : Nat) : Bool :=
  let x := p.step k
  let before := i.open' p k
  decide (k < p.nstep) && !i.done p k && i.aborted.isNone && decide (before.length < 16) &&
  !(before.any fun j =>
    let y := p.step j
    (x.receives && y.receives && y.inlink == x.inlink) || ((x.outs e).any fun l => (y.outs e).contains l))

/-! ### Skids, SLOW, and held messages (R402, R404, R406) -/

/-- Bytes of an instance that wait on a link. -/
def skidUsed (s : State) (e h l : Nat) : Nat :=
  ((s.link l).out.map fun f => if f.own = some (e, h) then f.plen else 0).sum

/-- Every skid the step sends into has room for n bytes. -/
def skidRoom (s : State) (e h : Nat) (i : Inst) (ls : List Nat) (n : Nat) : Bool :=
  ls.all fun l => i.cut.has l || decide (skidUsed s e h l + n ≤ 65536)

/-- A stack the instance touches is at warm or hot (R404). -/
def instSlow (s : State) (p : Plan) (i : Inst) : Bool :=
  (List.range 8).any fun k => i.touches p k && ((s.stack k).tlevel == 1 || (s.stack k).tlevel == 2)

/-- SLOW or SLOWN came within the last 20 µs (R404). -/
def Inst.suspended (i : Inst) (now : W64) : Bool :=
  match i.slowAt with
  | some t => decide ((now - t).toNat < 20000)
  | none => false

/-- A loaded plan of an engine that a collective message names by JOB and COLLID (R402). -/
def Ce.planOf (x : Ce) (job collid : Nat) : Option Nat :=
  (x.plans.find? fun q => match q.2 with
    | some p => p.collid == collid && x.jobOn p.ctx && x.job p.ctx == job
    | none => false).map (·.1)

/-- The message is one of an instance's. -/
def msgOf (job collid inst : Nat) (m : InMsg) : Bool :=
  hJob m.body == job && hTag m.body == collid && hLow m.body 15 0 == inst

/-- Messages an engine holds from a link. -/
def Ce.heldOn (x : Ce) (l : Nat) : List InMsg := look [] l x.early

/-- The first message held from link l for an instance, and the rest. -/
def Ce.nextHeld (x : Ce) (job : Nat) (p : Plan) (i : Inst) (l : Nat) : Option (InMsg × List InMsg) :=
  match (x.heldOn l).span fun m => !msgOf job p.collid i.inst m with
  | (a, m :: b) => some (m, a ++ b)
  | (_, []) => none

/-- The engine's view of a step. -/
def setStep (s : State) (e h k : Nat) (i : Inst) (n : Nat) : State :=
  s.modCe e fun x => x.setInst h (some { i with prog := put 0 k n i.prog })

/-- A CHUNK or FLAG message of an instance on a link, unless its receiver has been detached (R381, R382, R407). -/
def sendInst (s : State) (e h l : Nat) (p : Plan) (i : Inst) (kind : Nat) (nf : Bool) (low chunk : Nat) (data : List Byte) :
    State :=
  if i.cut.has l then s
  else
    sendOn s l (2 + p.vlane) (mkHdr kind nf (instSlow s p i) false false ((s.ce e).job p.ctx) p.collid (low + i.inst) ++ data)
      chunk (some (e, h))

/-! ### Triggers (R401) -/

/-- A refused CECMD write or trigger: CEFLT and the event (R385, R401, R529). -/
def refuseCe (s : State) (e : Nat) (w : W64) (code : Byte) : State :=
  record (setFlt s e w) ⟨0x48, 0, .ce, e, 0, code, w.toNat, 0⟩

/-- A trigger with a tag reaches a loaded plan. More than 4 waiting instances of a handle are not accepted. -/
def trigger (s : State) (e h tag core : Nat) : State :=
  let x := s.ce e
  match x.plan h with
  | none => s
  | some p =>
    let ws := look [] h x.waiting
    if ws.any fun w => w.tag == tag && decide (w.count < p.trign) then
      let ws' := ws.map fun w => if w.tag = tag ∧ w.count < p.trign then { w with count := w.count + 1 } else w
      s.setCe e { x with waiting := put [] h ws' x.waiting }
    else if 4 ≤ ws.length then refuseCe s e (ceFlt Code.quota 0 h core tag) Code.quota
    else s.setCe e { x with waiting := put [] h (ws ++ [⟨tag, 1⟩]) x.waiting }

/-! ### Evohild records (R421 to R425) -/

def ParityEntry.recAt (y : ParityEntry) (cb slot : Nat) : Nat := y.pva + 2 * y.len * cb + 128 * slot
def ParityEntry.slotAt (y : ParityEntry) (cb slot : Nat) : Nat := y.pva + slot * y.len * cb

/-- The parity area and its records. -/
def ParityEntry.area (y : ParityEntry) (cb : Nat) : Nat := 2 * y.len * cb + 256

/-- Bytes of data piece i: chunk by chunk. -/
def pieceBytes (s : State) (p : Plan) (xl : Table Nat) (y : ParityEntry) (i : Nat) : List Byte :=
  (upFrom (p.dstAt (y.first + i * y.stride) 0) (y.len * p.chunkB)).map fun a => s.byte (viaXl xl a)

/-- The parity row of an entry (R419): P, or Q with coefficient g^i for piece i. -/
def parityRow (row : Bool) (pieces : List (List Byte)) (n : Nat) : List Byte :=
  (List.range n).map fun o =>
    ((List.range pieces.length).map fun i =>
      let b := (pieces.getD i []).getD o 0
      if row then gmulByte (gpow i) b else b).foldl (· ^^^ ·) 0

/-- The 128-byte record (R425). -/
def parityRecord (y : ParityEntry) (cb : Nat) (valid : Bool) (step : Nat) (crcs : List Byte) : List Byte :=
  leBytes 8 (step % 2 ^ 32 * 2 ^ 32 + y.group * 2 ^ 8 + b2n valid * 2 ^ 7) ++
  leBytes 8 (y.k * 2 ^ 59 + y.m * 2 ^ 57 + b2n y.row * 2 ^ 56 + y.len) ++ leBytes 8 cb ++ leBytes 8 0 ++ padTo 96 crcs

/-- Bytes at a place in destination chunk c as an entry's row takes them: for each data piece that holds the chunk, the
context address of the first parity byte and the bytes multiplied for the piece (R419, R424). -/
def ParitySlot.adds (y : ParitySlot) (cb c o : Nat) (bs : List Byte) : List (Nat × List Byte) :=
  let x := y.entry
  ((List.range x.k).filter fun i => decide (x.first + i * x.stride ≤ c) && decide (c < x.first + i * x.stride + x.len)).map
    fun i => (x.slotAt cb y.slot + (c - x.first - i * x.stride) * cb + o, if x.row then bs.map (gmulByte (gpow i)) else bs)

/-- Bytes join a parity row at context addresses from va on: the first contribution to a sector writes it, with zero where
it has nothing, and a later one is combined with it (R424). `lo`, `n`: the slot. -/
def ParitySlot.join (y : ParitySlot) (s : State) (xl : Table Nat) (lo n va : Nat) (bs : List Byte) : List (Nat × Byte) :=
  let secs := upFrom (va / 32) ((va + bs.length + 31) / 32 - va / 32)
  secs.flatMap fun k =>
    (upFrom (32 * k) 32).filterMap fun a =>
      let b := if va ≤ a then bs.getD (a - va) 0 else 0
      if a < lo ∨ lo + n ≤ a then none
      else if y.seen.has k then (if va ≤ a ∧ a < va + bs.length then some (viaXl xl a, s.byte (viaXl xl a) ^^^ b) else none)
      else some (viaXl xl a, b)

end Sys2Proof.Machine
end

