-- ==== Sys2Proof/Machine/Collective.lean ====
section
/-! DEFINITION. Collective instances: start, steps, messages, detaching, aborts and completion (R395 to R411, R423,
R424). -/

namespace Sys2Proof.Machine

/-! ### Start (R401, R402, R409, R423) -/

/-- The slot of a parity entry: the one whose record is not valid, else the one with the lower STEP (R423). -/
def chooseSlot (r0 r1 : List Byte) : Nat :=
  let v (r : List Byte) : Bool := bitOf (fieldAt r 0 8) 7
  let st (r : List Byte) : Nat := fieldAt r 4 4
  if !v r0 then 0 else if !v r1 then 1 else if st r1 < st r0 then 1 else 0

/-- Context addresses an instance needs: source read; destination, record and parity areas written. -/
def Plan.entries (p : Plan) : List ParityEntry := match p.parity with | .traffic es => es | _ => []
def Plan.instReads (p : Plan) : List Nat :=
  pageStarts p.srcva p.srcLen ++ p.entries.flatMap fun y => pageStarts (y.recAt p.chunkB 0) 256
def Plan.instWrites (p : Plan) : List Nat :=
  pageStarts p.dstva p.dstLen ++ (if p.recva = 0 then [] else pageStarts p.recva 16) ++
  p.entries.flatMap fun y => pageStarts y.pva (y.area p.chunkB)

/-- Bytes through translations. -/
def xlBytes (s : State) (xl : Table Nat) (va n : Nat) : List Byte := (upFrom va n).map fun a => s.byte (viaXl xl a)
def xlPairs (xl : Table Nat) (va : Nat) (bs : List Byte) : List (Nat × Byte) :=
  (List.range bs.length).zipWith (fun i b => (viaXl xl (va + i), b)) bs

/-- Parity entries in order: both records are read, a slot is chosen, and its record is written with VALID = 0 before
any parity byte; its STEP and CRCs are free until the record is valid (R423 to R425, log 11). -/
def startParity (s : State) (p : Plan) (xl : Table Nat) :
    List ParityEntry → State × Sum (List ParitySlot) Byte
  | [] => (s, .inl [])
  | y :: ys =>
    match readCheck s ((upFrom (y.recAt p.chunkB 0) 256).map (viaXl xl)) with
    | (s, some code) => (s, .inr code)
    | (s, none) =>
      let k := chooseSlot (xlBytes s xl (y.recAt p.chunkB 0) 128) (xlBytes s xl (y.recAt p.chunkB 1) 128)
      let (step, s) := freeNat s
      let (crcs, s) := freeBytes s (4 * y.k)
      match writeStop s (xlPairs xl (y.recAt p.chunkB k) (parityRecord y p.chunkB false step crcs)) with
      | (s, some code) => (s, .inr code)
      | (s, none) =>
        match startParity s p xl ys with
        | (s, .inl l) => (s, .inl (⟨y, k, []⟩ :: l))
        | (s, .inr code) => (s, .inr code)

/-- A new instance. -/
def Inst.new (tag : Nat) : Inst :=
  { tag, xl := [], prog := [], nfDst := [], nfBuf := [], nf := false, degraded := false, flagStatus := 0, aborted := none,
    detached := false, cut := [], slowAt := none, slots := [] }

/-- Messages still held for an instance that a test picks are discarded and counted (R410). -/
def dropHeld (s : State) (e : Nat) (job : Nat) (p : Plan) (i : Inst) (f : InMsg → Bool) : State :=
  let x := s.ce e
  let mine (m : InMsg) : Bool := msgOf job p.collid i.inst m && f m
  let n := (x.early.map fun q => (q.2.filter mine).length).sum
  let early := (x.early.map fun q => (q.1, q.2.filter fun m => !mine m)).filter fun q => !q.2.isEmpty
  s.setCe e { x with early := early, stale := if x.stale.toNat + n < 2 ^ 32 then x.stale + BitVec.ofNat 32 n else -1 }

/-! ### Detaching (R407) -/

/-- Whole messages of an instance that wait on a link with no flit sent: they can be withdrawn. -/
def Link.withdraw (x : Link) (e h : Nat) : List TxFlit × Link :=
  let started (f : TxFlit) : Bool := !(x.out.any fun g => g.mid == f.mid && g.som)
  let gone (f : TxFlit) : Bool := f.own == some (e, h) && !started f
  (x.out.filter gone, { x with out := x.out.filter fun f => !gone f })

/-- The first chunk not wholly sent on a link: of the withdrawn messages, else of the next step that sends there. -/
def firstUnsent (p : Plan) (i : Inst) (e l : Nat) (gone : List TxFlit) : Nat :=
  match gone.filter fun f => f.kind == 8 with
  | f :: _ => f.chunk
  | [] =>
    match (List.range p.nstep).find? fun k => (p.step k).isData && ((p.step k).outs e).contains l && decide (i.at k < p.total (p.step k)) with
    | some k => (p.step k).chunk + i.at k / max 1 p.chunkB
    | none => 0

/-- Detaches the receiver on a link: the skid is discarded, DETACH names the first chunk not wholly sent, and the
instance's later sends there are as done. -/
def detachLink (s : State) (e h l : Nat) (p : Plan) (i : Inst) : State :=
  let (gone, x) := (s.link l).withdraw e h
  let body := mkHdr 11 false false false false ((s.ce e).job p.ctx) p.collid (firstUnsent p i e l gone * 2 ^ 56 + i.inst)
  sendOn (s.setLink l x) l 6 body 0 none

/-- Links the remaining data steps of an instance would send on. -/
def dataLinks (p : Plan) (i : Inst) (e : Nat) : List Nat :=
  (((List.range p.nstep).filter fun k => (p.step k).isData && decide (i.at k < p.total (p.step k))).flatMap fun k =>
    (p.step k).outs e).eraseDups

/-- A part that receives DETACH stops its data steps and detaches its subtree; what is held for them is discarded, and its
flag steps go on with DEGRADED (R407). -/
def takeDetach (s : State) (e h : Nat) (p : Plan) (i : Inst) : State :=
  let ls := (dataLinks p i e).filter fun l => !i.cut.has l
  let s := ls.foldl (fun s l => detachLink s e h l p i) s
  let s := dropHeld s e ((s.ce e).job p.ctx) p i fun m => hKind m.body == 8
  s.modCe e fun x => x.setInst h (some { i with detached := true, degraded := true })

/-- INSTANCE_START: the first waiting tag of a handle has its triggers, the handle runs no instance and the engine fewer
than 16 (R401). Ranges are translated before anything is sent; a fault aborts (R402, R408); an ABORT held for the
instance completes it at once, and a DETACH held for it takes effect (R407, R409). -/
def execInstanceStart (e h : Nat) (s : State) : Res :=
  let x := s.ce e
  .next (match x.plan h, look [] h x.waiting with
    | some p, w :: ws =>
      if decide (2 ≤ e) || s.agg.safe || decide (w.count < p.trign) || (x.inst h).isSome || decide (16 ≤ x.running.length)
      then s
      else
        let i := Inst.new w.tag
        let job := x.job p.ctx
        let mine (a : HeldAbort) : Bool := a.job == job && a.collid == p.collid && a.inst == i.inst
        let slow (a : HeldSlow) : Bool := a.job == job && a.collid == p.collid && a.inst == i.inst
        let cut (a : HeldDetach) : Bool := a.job == job && a.collid == p.collid && a.inst == i.inst
        let i := { i with slowAt := (x.slows.find? slow).map HeldSlow.at' }
        let detached := x.detaches.any cut
        let x := { x with
          waiting := put [] h ws x.waiting
          dead := put [] h ((look [] h x.dead).filter fun n => n != i.inst) x.dead
          ended := put [] h ((look [] h x.ended).filter fun n => n != i.inst) x.ended
          held := x.held.filter fun a => !mine a
          slows := x.slows.filter fun a => !slow a
          detaches := x.detaches.filter fun a => !cut a }
        match (s.ce e).held.find? mine with
        | some a => s.setCe e (x.setInst h (some { i with aborted := some a.status }))
        | none =>
          let s := s.setCe e (x.setInst h (some i))
          match xlate s p.ctx p.instReads p.instWrites with
          | (s, .err code _ _) => abortInst s e h code
          | (s, .ok xl) =>
            match startParity s p xl p.entries with
            | (s, .inr code) => abortInst (s.modCe e fun x => x.setInst h (some { i with xl := xl })) e h code
            | (s, .inl sl) =>
              let i := { i with xl := xl, slots := sl }
              let s := s.modCe e fun x => x.setInst h (some i)
              if detached then takeDetach s e h p i else s
    | _, _ => s)

/-! ### Steps (R395, R396, R403) -/

/-- Operand A of a piece: chunk c, buffer slot b, offset o, n bytes; with the NF it came with. -/
def operandA (s : State) (e : Nat) (p : Plan) (i : Inst) (x : PlanStep) (c b o n : Nat) :
    State × Sum (List Byte × Bool) Byte :=
  let mem (va : Nat) (nf : Bool) (f : Byte → Byte) : State × Sum (List Byte × Bool) Byte :=
    match readCheck s ((upFrom va n).map (viaXl i.xl)) with
    | (s, some code) => (s, .inr code)
    | (s, none) => (s, .inl ((xlBytes s i.xl va n).map f, nf))
  match x.akind with
  | 0 => mem (p.srcAt c o) false (match p.parity with | .scaled k => gmulByte (gpow k) | _ => id)
  | 1 => mem (p.dstAt c o) (i.nfDst.has c) id
  | _ =>
    let off := b * p.chunkB + o
    if (s.ce e).bufBad.meets (off / 8) ((off + n + 7) / 8 - off / 8) then (s, .inr Code.eccUncorr)
    else (s, .inl (lookRange 0 off n (s.ce e).buf, i.nfBuf.has b))

/-- NF of a chunk or slot: the first piece sets it, later ones join (R403). -/
def joinNf (t : NatSet) (k o : Nat) (nf : Bool) : NatSet :=
  if nf then t.add k else if o = 0 then t.del k else t

/-- A later step writes destination chunk c again. -/
def Plan.rewrites (p : Plan) (k c : Nat) : Bool :=
  (upFrom (k + 1) (p.nstep - (k + 1))).any fun j =>
    let y := p.step j
    y.isData && y.toDst && decide (y.chunk ≤ c) && decide (c < y.chunk + y.nch)

/-- One contribution to one slot's row: EVBYTES counts its data bytes (R424, R439). -/
def addParity (s : State) (e : Nat) (p : Plan) (i : Inst) (y : ParitySlot) (q : Nat × List Byte) :
    State × ParitySlot × Option Byte :=
  let lo := y.entry.slotAt p.chunkB y.slot
  let r := writeStop s (y.join s i.xl lo (y.entry.len * p.chunkB) q.1 q.2)
  let n := q.2.length
  let s := r.1.modCe e fun x =>
    { x with evBytes := if x.evBytes.toNat + n < 2 ^ 64 then x.evBytes + BitVec.ofNat 64 n else -1 }
  (s, { y with seen := (upFrom (q.1 / 32) ((q.1 + n + 31) / 32 - q.1 / 32)).foldl NatSet.add y.seen }, r.2)

/-- The final bytes of a destination chunk join every row that covers them; the first error met, if any (R423, R424). -/
def takeParity (s : State) (e : Nat) (p : Plan) (i : Inst) (c o : Nat) (bs : List Byte) :
    List ParitySlot → State × List ParitySlot × Option Byte
  | [] => (s, [], none)
  | y :: ys =>
    let (s, y, err) := (y.adds p.chunkB c o bs).foldl (fun (r : State × ParitySlot × Option Byte) q =>
      if r.2.2.isSome then r else addParity r.1 e p i r.2.1 q) (s, y, none)
    if err.isSome then (s, y :: ys, err)
    else
      let (s, ys, err) := takeParity s e p i c o bs ys
      (s, y :: ys, err)

/-- A piece's result goes to the outputs the step selects: destination chunk, with the parity rows that take it, buffer
slot, links (R394, R395, R424). -/
def outputs (s : State) (e h k : Nat) (p : Plan) (i : Inst) (x : PlanStep) (c b o : Nat) (bs : List Byte) (nf : Bool) :
    State :=
  let (s, err) := if x.toDst then writeStop s (xlPairs i.xl (p.dstAt c o) bs) else (s, none)
  let (s, slots, err) :=
    if x.toDst && err.isNone && !p.rewrites k c then takeParity s e p i c o bs i.slots else (s, i.slots, err)
  match err with
  | some code => abortInst s e h code
  | none =>
    let i := { i with
      slots := slots
      nf := i.nf || nf
      nfDst := if x.toDst then joinNf i.nfDst c o nf else i.nfDst
      nfBuf := if x.toBuf then joinNf i.nfBuf b o nf else i.nfBuf }
    let s := if x.toBuf then s.modCe e fun y => { y with buf := putRange 0 (b * p.chunkB + o) bs y.buf } else s
    let s := setStep s e h k i (i.at k + bs.length)
    if x.toSend then
      (x.outs e).foldl (fun s l => sendInst s e h l p i 8 nf (c * 2 ^ 56 + o * 2 ^ 32) c bs) s
    else s

/-- A data step's next piece, once its inputs are there, no earlier step still needs what it overwrites, and every skid it
sends into has room (R396, R400, R406). A received
message that does not fit the step aborts the instance (R408). -/
def dataStep (s : State) (e h k : Nat) (p : Plan) (i : Inst) : State :=
  let x := p.step k
  let q := i.at k
  let c := x.chunk + q / p.chunkB
  let b := x.buf + q / p.chunkB
  let o := q % p.chunkB
  let waits (n : Nat) : Bool :=
    (x.opc != 2 && ((x.akind == 1 && i.dstWait p k c o n) || (x.akind == 2 && i.bufWait p k b o n))) ||
    (x.toDst && i.dstBusy p k c) || (x.toBuf && i.bufBusy p k b) || !skidRoom s e h i (x.outs e) n
  if x.opc = 1 then
    let n := min msgData (p.chunkB - o)
    if waits n then s
    else match operandA s e p i x c b o n with
      | (s, .inr code) => abortInst s e h code
      | (s, .inl (a, nf)) => outputs s e h k p i x c b o a (etFloat p.etype && (nf || anyNonFinite p.etype a))
  else match (s.ce e).nextHeld ((s.ce e).job p.ctx) p i x.inlink with
    | none => s
    | some (m, rest) =>
      let bs := hData m.body
      let n := bs.length
      let nfIn := hNf m.body || anyNonFinite p.etype bs
      if hKind m.body ≠ 8 ∨ hLow m.body 87 56 ≠ c ∨ hLow m.body 55 32 ≠ o ∨ n = 0 ∨ p.chunkB < o + n ∨ n % etSize p.etype ≠ 0
      then abortInst s e h Code.badParam
      else if waits n then s
      else
        let s := s.modCe e fun y => { y with early := put [] x.inlink rest y.early }
        if x.opc = 2 then outputs s e h k p i x c b o bs (etFloat p.etype && nfIn)
        else match operandA s e p i x c b o n with
          | (s, .inr code) => abortInst s e h code
          | (s, .inl (a, nf)) =>
            outputs (s.tally 4 0x29 e 0 n) e h k p i x c b o (combineBytes p.rop p.etype a bs)
              (etFloat p.etype && (nf || nfIn || anyNonFinite p.etype a))

/-- The lowest error status of two (R403). -/
def lowStatus (a b : Byte) : Byte :=
  if b.toNat < 0x10 then a else if a.toNat < 0x10 ∨ b.toNat < a.toNat then b else a

/-- FSEND sends the flag record; FRECV merges a received one (R395, R403). -/
def flagStep (s : State) (e h k : Nat) (p : Plan) (i : Inst) : State :=
  let x := p.step k
  if x.opc = 4 then
    if skidRoom s e h i [x.outlink] 16 then
      sendInst (setStep s e h k i 1) e h x.outlink p i 9 i.nf (i.flagStatus.toNat * 2 ^ 24 + b2n i.degraded * 2 ^ 16) 0 []
    else s
  else match (s.ce e).nextHeld ((s.ce e).job p.ctx) p i x.inlink with
    | none => s
    | some (m, rest) =>
      if hKind m.body ≠ 9 then abortInst s e h Code.badParam
      else
        let s := s.modCe e fun y => { y with early := put [] x.inlink rest y.early }
        setStep s e h k
          { i with nf := i.nf || hNf m.body, degraded := i.degraded || bitOf (hLow m.body 16 16) 0
                   flagStatus := lowStatus i.flagStatus (BitVec.ofNat 8 (hLow m.body 31 24)) } 1

/-- COLLECTIVE_STEP: step `step` of a running instance does its next piece (R395, R396). -/
def execCollectiveStep (e h step : Nat) (s : State) : Res :=
  .next (match (s.ce e).plan h, (s.ce e).inst h with
    | some p, some i =>
      if decide (2 ≤ e) || s.agg.safe || !i.mayStep p e step then s
      else if (p.step step).isData then dataStep s e h step p i
      else flagStep s e h step p i
    | _, _ => s)

/-! ### Received CHUNK, FLAG and SLOWN messages (R402 to R404, R410) -/

/-- The instance a message belongs to, where it runs. -/
def instOf (x : Ce) (m : InMsg) : Option (Nat × Plan × Inst) :=
  match x.planOf (hJob m.body) (hTag m.body) with
  | none => none
  | some h =>
    match x.plan h, x.inst h with
    | some p, some i => if i.inst = hLow m.body 15 0 then some (h, p, i) else none
    | _, _ => none

/-- SLOW is noted for the instance, or kept for one that has not started (R404). -/
def noteSlow (s : State) (e : Nat) (m : InMsg) : State :=
  match instOf (s.ce e) m with
  | some (h, _, i) => s.modCe e fun x => x.setInst h (some { i with slowAt := some s.tbtime })
  | none =>
    let a : HeldSlow := ⟨hJob m.body, hTag m.body, hLow m.body 15 0, s.tbtime⟩
    let same (b : HeldSlow) : Bool := b.job == a.job && b.collid == a.collid && b.inst == a.inst
    s.modCe e fun x => { x with slows := (x.slows.filter fun b => !same b) ++ [a] }

/-- No instance takes the message any more: no plan matches, its instance has been aborted, or has stopped its data steps
(R402, R407, R410). -/
def unwanted (x : Ce) (m : InMsg) : Bool :=
  match m.link, x.planOf (hJob m.body) (hTag m.body) with
  | some _, some h =>
    (look [] h x.dead).contains (hLow m.body 15 0) ||
      match instOf x m with | some (_, _, i) => i.aborted.isSome || (i.detached && hKind m.body == 8) | none => false
  | _, _ => true

/-- The early buffer of a message's link has room, or its instance runs and holds nothing before it (R402). -/
def earlyRoom (x : Ce) (m : InMsg) : Bool :=
  let held := x.heldOn (m.link.getD 0)
  decide ((held.map fun g => g.body.length).sum + m.body.length ≤ 65536) ||
    ((instOf x m).isSome && !(held.any (msgOf (hJob m.body) (hTag m.body) (hLow m.body 15 0))))

/-- The message belongs to an instance that starts anew after one of the same INST that completed. -/
def reopened (x : Ce) (m : InMsg) : Ce :=
  match x.planOf (hJob m.body) (hTag m.body), instOf x m with
  | some h, none => { x with ended := put [] h ((look [] h x.ended).filter fun n => n != hLow m.body 15 0) x.ended }
  | _, _ => x

/-- A CHUNK or FLAG message is matched and held for its step, or discarded where no instance takes it; where the early
buffer has no room it stays in the link's buffer, and delays its lane on its link only (R402, R410). -/
def holdMsg (s : State) (e : Nat) (sel : Nat → Bool) (after : State → InMsg → State) : State :=
  if decide (2 ≤ e) || s.agg.safe then s
  else match inboxFirst (s.ce e) fun m => sel (hKind m.body) && (unwanted (s.ce e) m || earlyRoom (s.ce e) m) with
    | none => s
    | some (m, rest) =>
      let x := { s.ce e with inbox := rest }
      if unwanted x m then ceStale (consume (s.setCe e x) m) e
      else
        let x := reopened x m
        let l := m.link.getD 0
        let s := consume (s.setCe e { x with early := put [] l (x.heldOn l ++ [m]) x.early }) m
        after (if hSlow m.body then noteSlow s e m else s) m

/-- CHUNK (R402). -/
def execChunk (e : Nat) (s : State) : Res := .next (holdMsg s e (· == 8) fun s _ => s)

/-- The step of a running instance that takes the next message from a link. -/
def nextRecv (p : Plan) (i : Inst) (e l : Nat) : Option Nat :=
  (List.range p.nstep).find? fun k => (p.step k).receives && (p.step k).inlink == l && !i.done p k && i.mayStep p e k

/-- FLAG: matched and, where its step is next, merged at once (R402, R403). -/
def execFlag (e : Nat) (s : State) : Res :=
  .next (holdMsg s e (· == 9) fun s m =>
    match instOf (s.ce e) m, m.link with
    | some (h, p, i), some l =>
      match nextRecv p i e l with
      | some k => if (p.step k).opc = 5 then flagStep s e h k p i else s
      | none => s
    | _, _ => s)

/-- SLOWN: one that no instance takes any more is discarded and counted (R404, R410, R414). -/
def execSlown (e : Nat) (s : State) : Res :=
  .next (msgStep s e (· == 12) fun s m => if unwanted (s.ce e) m then ceStale s e else noteSlow s e m)

/-- INLINKs of a plan. -/
def Plan.inlinks (p : Plan) : List Nat := ((p.steps.filter PlanStep.receives).map PlanStep.inlink).eraseDups

/-- SLOWN_TIMER: while a touched stack is at warm or hot, SLOWN goes out on each INLINK of the plan (R404). -/
def execSlownTimer (e h : Nat) (s : State) : Res :=
  .next (match (s.ce e).plan h, (s.ce e).inst h with
    | some p, some i =>
      if decide (2 ≤ e) || s.agg.safe || i.aborted.isSome || !instSlow s p i then s
      else
        let body := mkHdr 12 false false false false ((s.ce e).job p.ctx) p.collid i.inst
        p.inlinks.foldl (fun s l => sendOn s l 6 body 0 none) s
    | _, _ => s)

/-! ### STRAGGLE and DETACH (R407) -/

/-- STRAGGLE_TIMEOUT: a skid has stayed full for STRAGGLE µs (R407). A skid is full when it has no room for a message of
the plan. -/
def execStraggleTimeout (e h l : Nat) (s : State) : Res :=
  .next (match (s.ce e).plan h, (s.ce e).inst h with
    | some p, some i =>
      let full := decide (65536 < skidUsed s e h l + min msgData p.chunkB)
      if decide (2 ≤ e) || s.agg.safe || !p.mayDetach || i.aborted.isSome || i.cut.has l || !full ||
          i.suspended s.tbtime then s
      else
        let s := detachLink s e h l p i
        s.modCe e fun x => x.setInst h (some { i with cut := i.cut.add l, degraded := true })
    | _, _ => s)

/-- DETACH: data steps stop, the subtree is detached, the flag steps go on with DEGRADED (R407). For an instance that
has not started it is held; for one that has completed or been aborted it is discarded and counted. -/
def execDetach (e : Nat) (s : State) : Res :=
  .next (msgStep s e (· == 11) fun s m =>
    let x := s.ce e
    if unwanted x m then ceStale s e
    else match x.planOf (hJob m.body) (hTag m.body), instOf x m with
      | some h, some (_, p, i) => takeDetach s e h p i
      | some h, none =>
        let a : HeldDetach := ⟨hJob m.body, hTag m.body, hLow m.body 15 0⟩
        if (look [] h x.ended).contains a.inst then ceStale s e
        else s.setCe e { x with detaches := (x.detaches.filter fun b => b != a) ++ [a] }
      | none, _ => s)

/-! ### Timeouts and aborts (R408 to R410) -/

/-- INSTANCE_TIMEOUT: no step progressed for TMO µs (R408). -/
def execInstanceTimeout (e h : Nat) (s : State) : Res :=
  .next (match (s.ce e).plan h, (s.ce e).inst h with
    | some p, some i =>
      if decide (2 ≤ e) || s.agg.safe || p.tmo == 0 || i.suspended s.tbtime then s else abortInst s e h Code.timeout
    | _, _ => s)

/-- A trigger for the instance of an INST has arrived. -/
def Ce.awaits (x : Ce) (h inst : Nat) : Bool := (look [] h x.waiting).any fun w => w.tag % 65536 == inst

/-- ABORT at the engine whose plan it names: the running instance ends with its STATUS, unless it has one; for one that
has not started it is held; for one that has completed it is ignored (R409). -/
def takeAbort (s : State) (e : Nat) (m : InMsg) : State :=
  let x := s.ce e
  let inst := hLow m.body 15 0
  let st : Byte := BitVec.ofNat 8 (hLow m.body 31 24)
  match x.planOf (hJob m.body) (hTag m.body) with
  | none => ceStale s e
  | some h =>
    match instOf x m with
    | some (_, _, i) =>
      if i.aborted.isSome then ceStale s e else s.setCe e (x.setInst h (some { i with aborted := some st }))
    | none =>
      if (look [] h x.dead).contains inst && !x.awaits h inst then ceStale s e
      else if (look [] h x.ended).contains inst && !x.awaits h inst then s
      else if x.held.any fun a => a.job == hJob m.body && a.collid == hTag m.body && a.inst == inst then s
      else s.setCe e { x with held := x.held ++ [⟨hJob m.body, hTag m.body, inst, st⟩] }

/-- ABORT: routed by DST, it may arrive at the die of the other engine than the plan's (R383, R409). -/
def execAbortMsg (e : Nat) (s : State) : Res :=
  .next (msgStep s e (· == 10) fun s m =>
    let there := ((s.ce e).planOf (hJob m.body) (hTag m.body)).isNone &&
      ((s.ce (1 - e)).planOf (hJob m.body) (hTag m.body)).isSome
    takeAbort s (if there then 1 - e else e) m)

/-! ### Completion (R405, R410, R424) -/

/-- The first destination chunk that a step writes and has not completed. -/
def firstIncomplete (p : Plan) (i : Inst) : Nat :=
  ((upFrom p.dfirst p.dnchunk).find? fun c =>
    (List.range p.nstep).any fun k =>
      let x := p.step k
      x.isData && x.toDst && decide (x.chunk ≤ c) && decide (c < x.chunk + x.nch) &&
      decide (i.at k < (c + 1 - x.chunk) * p.chunkB)).getD 0

/-- The status (R405). -/
def instStatus (p : Plan) (i : Inst) : Byte :=
  match i.aborted with
  | some st => st
  | none =>
    if i.detached then Code.detached
    else if i.degraded then Code.okDegraded
    else if p.nstep = 0 ∨ p.chunkB = 0 then Code.okEmpty
    else Code.ok

/-- Every byte of a destination chunk has its final value. -/
def Inst.chunkDone (p : Plan) (i : Inst) (c : Nat) : Bool :=
  (List.range p.nstep).all fun k =>
    let x := p.step k
    !(x.isData && x.toDst && decide (x.chunk ≤ c) && decide (c < x.chunk + x.nch)) ||
      decide ((c + 1 - x.chunk) * p.chunkB ≤ i.at k)

/-- Every data chunk of an entry has landed, and with it its row. -/
def ParitySlot.whole (y : ParitySlot) (p : Plan) (i : Inst) : Bool :=
  (List.range y.entry.k).all fun n => (upFrom (y.entry.first + n * y.entry.stride) y.entry.len).all (i.chunkDone p)

/-- Records with VALID = 1 for the rows that are complete; the first error met, if any (R424). The row of a detached
instance that has not all its chunks stays incomplete, and its record at VALID = 0. -/
def finishParity (s : State) (p : Plan) (i : Inst) : List ParitySlot → State × Option Byte
  | [] => (s, none)
  | y :: ys =>
    if y.whole p i then
      let crcs := (List.range y.entry.k).flatMap fun n => leBytes 4 (crc32c (pieceBytes s p i.xl y.entry n)).toNat
      match writeStop s (xlPairs i.xl (y.entry.recAt p.chunkB y.slot) (parityRecord y.entry p.chunkB true i.tag crcs)) with
      | (s, some code) => (s, some code)
      | (s, none) => finishParity s p i ys
    else finishParity s p i ys

/-- The slots of an aborted instance are undefined, and their records stay at VALID = 0 (R424, log 11). -/
def undefineParity (s : State) (p : Plan) (i : Inst) : State :=
  i.slots.foldl (fun s y => scrambleAll s ((upFrom (y.entry.slotAt p.chunkB y.slot) (y.entry.len * p.chunkB)).map (viaXl i.xl))) s

/-- An aborted instance's destination and buffer slots are undefined (R410). -/
def undefineInst (s : State) (e : Nat) (p : Plan) (i : Inst) : State :=
  let s := if i.xl.isEmpty then s else scrambleAll s ((upFrom p.dstva p.dstLen).map (viaXl i.xl))
  let slots := p.steps.flatMap fun x =>
    if x.isData ∧ x.toBuf then upFrom (x.buf * p.chunkB) (x.nch * p.chunkB) else []
  let (bs, s) := freeBytes s slots.length
  s.modCe e fun x => { x with buf := putAll 0 (slots.zip bs) x.buf }

/-- The completion record (R405). -/
def instRecord (p : Plan) (i : Inst) : List Byte :=
  let st := instStatus p i
  let f := etFloat p.etype && i.nf
  leBytes 8 (i.tag * 2 ^ 32 + st.toNat * 2 ^ 24 + b2n f) ++
  leBytes 8 (if st = Code.detached then firstIncomplete p i * 2 ^ 32 else 0)

/-- GNF of a core (R261); a PARKED die's cores hold nothing (R481). -/
def updateGnf (s : State) (c tag : Nat) (nf : Bool) (st : Byte) : State :=
  if s.hasCore c && s.dieState (dieOf c) != .parked then s.modCore c fun k => { k with gnf := gnfUpdate k.gnf tag nf st }
  else s

/-- The completion record is written at RECVA. An instance that ended before its ranges were translated has RECVA
translated for it (R405). -/
def writeRecord (s : State) (p : Plan) (i : Inst) : State :=
  if p.recva = 0 then s
  else match if i.xl.isEmpty then xlate s p.ctx [] (pageStarts p.recva 16) else (s, .ok i.xl) with
    | (s, .ok xl) => (writeStop s (xlPairs xl p.recva (instRecord p i))).1
    | (s, .err _ _ _) => s

/-- The instance ends: record, GNF, post, in that order (R405). -/
def completeInst (s : State) (e h : Nat) (p : Plan) (i : Inst) : State :=
  let st := instStatus p i
  let nf := etFloat p.etype && i.nf
  let s := if i.aborted.isSome then undefineParity (undefineInst s e p i) p i else s
  let s := writeRecord s p i
  let s := if p.grad then (bitIndices 96 p.gnfMask).foldl (fun s c => updateGnf s c i.tag nf st) s else s
  let s := if p.pen then post s p.pcore p.pctr else s
  let s := if i.aborted.isSome then dropHeld s e ((s.ce e).job p.ctx) p i (fun _ => true) else s
  let s := s.tally 4 0x28 e 0 1
  let with' (t : Table (List Nat)) : Table (List Nat) := put [] h (i.inst :: look [] h t) t
  s.modCe e fun x =>
    { x.setInst h none with dead := if i.aborted.isSome then with' x.dead else x.dead
                            ended := if i.aborted.isSome then x.ended else with' x.ended }

/-- INSTANCE_COMPLETE: an instance that has not been aborted completes once its records are valid; an error in writing one
ends it under R408 (R405, R424). -/
def execInstanceComplete (e h : Nat) (s : State) : Res :=
  .next (match (s.ce e).plan h, (s.ce e).inst h with
    | some p, some i =>
      if 2 ≤ e ∨ s.agg.safe then s
      else if i.aborted.isSome then completeInst s e h p i
      else if i.allDone p then
        match finishParity s p i i.slots with
        | (s, some code) => abortInst s e h code
        | (s, none) => completeInst s e h p i
      else s
    | _, _ => s)

end Sys2Proof.Machine
end

