-- ==== Sys2Proof/Machine/HostQueues.lean ====
section
/-! DEFINITION. Host memory, doorbells, replies and packet dispatch (R444, R454 to R462, R475). -/

namespace Sys2Proof.Machine

/-! ### Host memory (R444) -/

/-- The port of a context (R442). -/
def portOf (ctx : Nat) : Nat := ctx / 16

/-- The memory of the host behind a port (log 14). -/
def State.hmem (s : State) (p : Nat) : Table Byte := if p = 0 then s.hmem0 else s.hmem1
def State.setHmem (s : State) (p : Nat) (m : Table Byte) : State := if p = 0 then { s with hmem0 := m } else { s with hmem1 := m }

/-- What a host address range meets in the function's address translation. -/
inductive HostWalk where
  | ok
  /-- A page request is out. -/
  | wait
  | fail (addr : Nat)
  deriving DecidableEq, Repr

/-- Host pages of a range, in order. -/
def hostPages (addr n : Nat) : List Nat := if n = 0 then [] else upFrom (addr / 4096) ((addr + n - 1) / 4096 + 1 - addr / 4096)

/-- Translates host pages: a page not cached is requested when PRI is enabled, and fails otherwise, or when its request
has failed (R444). -/
def hostWalk (s : State) (ctx : Nat) : List Nat → State × HostWalk
  | [] => (s, .ok)
  | p :: ps =>
    let x := s.ctx ctx
    if !x.ats || decide (look 0 p x.atc ≠ 0) then hostWalk s ctx ps
    else
      match look none p x.pageReqs with
      | some .failed => (s.setCtx ctx { x with pageReqs := put none p none x.pageReqs }, .fail (p * 4096))
      | some .asked => (s, .wait)
      | none =>
        if x.pri then (s.setCtx ctx { x with pageReqs := put none p (some .asked) x.pageReqs }, .wait)
        else (s, .fail (p * 4096))

/-- The bus address of a host address: what ATS gave, or the address itself. -/
def busAddr (s : State) (ctx addr : Nat) : Nat :=
  let x := s.ctx ctx
  if x.ats then (look 0 (addr / 4096) x.atc - 1) * 4096 + addr % 4096 else addr

/-- Reaches a host range of a context: its pages translate, and none of the requests ends in Unsupported Request or
Completer Abort (R444); a failure names the first address it concerns. An address past 2^64 reaches nothing. -/
def hostXlate (s : State) (ctx addr n : Nat) : State × HostWalk :=
  if 2 ^ 64 < addr + n then (s, .fail addr)
  else
    match hostWalk s ctx (hostPages addr n) with
    | (s, .fail a) => (s, .fail (max addr a))
    | (s, .wait) => (s, .wait)
    | (s, .ok) =>
      match (hostPages addr n).find? fun p => (s.ctx ctx).cfg.dead.contains (busAddr s ctx (p * 4096) / 4096) with
      | some p => (s, .fail (max addr (p * 4096)))
      | none => (s, .ok)

/-- Bytes of host memory. -/
def hostBytes (s : State) (ctx addr n : Nat) : List Byte :=
  (upFrom addr n).map fun a => look 0 (busAddr s ctx a) (s.hmem (portOf ctx))

/-- Bytes written to host memory. -/
def hostPoke (s : State) (ctx addr : Nat) (bs : List Byte) : State :=
  s.setHmem (portOf ctx) (putAll 0 ((pairs addr bs).map fun p => (busAddr s ctx p.1, p.2)) (s.hmem (portOf ctx)))

/-- CTXFLT records a host-path fault (R474). `agent`: 0 BAR2, 1 DMA, 2 ring fetch or reply write. -/
def ctxFault (s : State) (ctx : Nat) (code : Byte) (agent va : Nat) : State :=
  s.modCtx ctx fun x => { x with flt := ctxfltWord code agent va }

/-- How an access to a context's ring or buffer ends. -/
inductive Access where
  | ok (bs : List Byte)
  | wait
  | err (code : Byte) (va : Nat)
  deriving DecidableEq, Repr

/-- The first address whose check unit cannot be read. -/
def firstBad (s : State) (va n : Nat) (xl : Table Nat) : Nat :=
  ((upFrom va n).find? fun a => !readable s [viaXl xl a]).getD va

/-- The first address of a range that a list of writes cannot write. -/
def firstUnwritten (s : State) (va n : Nat) (xl : Table Nat) (l : List (Nat × Byte)) : Nat :=
  ((upFrom va n).find? fun a => (writeUnit s (unitOf (viaXl xl a)) l).2.isSome).getD va

/-- Reads a range in a context's virtual or host address space. -/
def readSpace (s : State) (ctx : Nat) (host : Bool) (addr n : Nat) : State × Access :=
  if host then
    match hostXlate s ctx addr n with
    | (s, .ok) => (s, .ok (hostBytes s ctx addr n))
    | (s, .wait) => (s, .wait)
    | (s, .fail a) => (s, .err Code.xlate a)
  else
    match xlate s ctx (upFrom addr n) [] with
    | (s, .err c _ va) => (s, .err c va)
    | (s, .ok xl) =>
      match readCheck s ((upFrom addr n).map (viaXl xl)) with
      | (s', some c) => (s', .err c (firstBad s addr n xl))
      | (s', none) => (s', .ok ((upFrom addr n).map fun a => s'.byte (viaXl xl a)))

/-- Reads a range of a context's virtual memory, or answers the status of R204. -/
def readVa (s : State) (ctx va n : Nat) : State × Sum (List Byte) Byte :=
  match readSpace s ctx false va n with
  | (s, .ok bs) => (s, .inl bs)
  | (s, .err c _) => (s, .inr c)
  | (s, .wait) => (s, .inr Code.xlate)

/-- Writes a range in a context's virtual or host address space. -/
def writeSpace (s : State) (ctx : Nat) (host : Bool) (addr : Nat) (bs : List Byte) : State × Access :=
  if host then
    match hostXlate s ctx addr bs.length with
    | (s, .ok) => (hostPoke s ctx addr bs, .ok [])
    | (s, .wait) => (s, .wait)
    | (s, .fail a) => (s, .err Code.xlate a)
  else
    match xlate s ctx [] (upFrom addr bs.length) with
    | (s, .err c _ va) => (s, .err c va)
    | (s, .ok xl) =>
      let l := (pairs addr bs).map fun p => (viaXl xl p.1, p.2)
      match writeStop s l with
      | (s', some c) => (s', .err c (firstUnwritten s addr bs.length xl l))
      | (s', none) => (s', .ok [])

/-- The first n bytes of what an operation writes at a place are written in part: a free number of the 32-byte sectors
they fill (R31, log 22); `host`: host memory, in bytes. -/
def writeSome (s : State) (ctx : Nat) (host : Bool) (addr n : Nat) (bs : List Byte) (xl : Table Nat) : State :=
  let r := freeNat s
  if host then hostPoke r.2 ctx addr (bs.take (r.1 % (n + 1)))
  else
    let l := wholeBefore n ((pairs addr bs).map fun p => (viaXl xl p.1, p.2))
    (writeStop r.2 (firstSectors (r.1 % (sectorCount l + 1)) l)).1

/-! ### Doorbells (R461) -/

/-- The context is the PF of its port. -/
def isPf (ctx : Nat) : Bool := ctx % 16 == 0

/-- The function of a context is enabled, and its port's link is up (R442). -/
def functionEnabled (s : State) (ctx : Nat) : Bool :=
  let p := s.port (portOf ctx)
  p.up && (isPf ctx || (p.vfEn && decide (ctx % 16 ≤ p.numVf)))

/-- A function whose requests have effect: it is enabled, and its port's domain and the fabric's run (R442, R479). -/
def functionOn (s : State) (ctx : Nat) : Bool :=
  decide (ctx < 32) && functionEnabled s ctx && s.clocked (.pcie (portOf ctx)) && s.clocked .fabric

/-- BAR0 and BAR2 serve the function: its Memory Space Enable is 1, and READY has been reached (R442, R497). -/
def hostServed (s : State) (ctx : Nat) : Bool := functionOn s ctx && (s.ctx ctx).cfg.mse && decide (s.pkg = .on)

/-- The context holds the SQ, its own admin queue or one it has created, and no Q_DELETE of it runs (R454, R456). -/
def holdsSq (s : State) (ctx q : Nat) : Bool := decide (q = ctx ∨ (s.sq q).owner = some ctx) && (s.sq q).deleting.isNone
def holdsCq (s : State) (ctx q : Nat) : Bool := decide (q = ctx ∨ (s.cq q).owner = some ctx) && (s.cq q).deleting.isNone

/-- BAR0 offsets of the doorbells (R445). -/
def sqDoorbell (q : Nat) : Nat := 8 * q
def cqDoorbell (q : Nat) : Nat := 0x8000 + 8 * q

/-- A tail doorbell written. -/
def sqDoorbellWrite (s : State) (ctx q : Nat) (val : W64) : State :=
  let i := fld val.toNat 16 0
  let x := s.sq q
  if !holdsSq s ctx q then accessEvent s .pcie ctx 0 (sqDoorbell q) 2 true 8
  else if x.entries ≤ i then discardWrite s .pcie ctx (sqDoorbell q)
  else s.setSq q { x with tail := i }

/-- SQ_TAIL_DOORBELL (R461). -/
def execSqTailDoorbell (ctx q : Nat) (val : W64) (s : State) : Res :=
  .next (if hostServed s ctx && decide (q < 4096) then sqDoorbellWrite s ctx q val else s)

/-- A head doorbell written: it frees the entries before INDEX, and may free only entries that hold replies. -/
def cqDoorbellWrite (s : State) (ctx q : Nat) (val : W64) : State :=
  let i := fld val.toNat 16 0
  let x := s.cq q
  let n := (i + x.entries - x.head) % x.entries
  if !holdsCq s ctx q then accessEvent s .pcie ctx 0 (cqDoorbell q) 2 true 8
  else if x.entries ≤ i ∨ x.used < n then discardWrite s .pcie ctx (cqDoorbell q)
  else s.setCq q { x with head := i, used := x.used - n }

/-- CQ_HEAD_DOORBELL (R461). A CQ whose deletion waits for room still takes it (R456). -/
def execCqHeadDoorbell (ctx q : Nat) (val : W64) (s : State) : Res :=
  .next (if hostServed s ctx && decide (q < 4096) then
      let x := s.cq q
      let i := fld val.toNat 16 0
      let n := (i + x.entries - x.head) % x.entries
      if x.owner = some ctx ∧ x.deleting.isSome ∧ i < x.entries ∧ n ≤ x.used then s.setCq q { x with head := i, used := x.used - n }
      else cqDoorbellWrite s ctx q val
    else s)

/-! ### Replies (R459, R460) -/

/-- The 16 bytes of a status reply (R459). -/
def replyBytes (r : Reply) (phase : Bool) (time : W64) : List Byte :=
  leBytes 8 (r.tag * 2 ^ 48 + r.seq * 2 ^ 32 + r.status.toNat * 2 ^ 24 + r.sq % 4096 * 2 ^ 12 + b2n phase * 2 ^ 11 +
    fld time.toNat 42 32) ++
  leBytes 8 (r.detail.toNat * 2 ^ 32 + fld time.toNat 31 0)

/-- The sequence before which every packet of SQ q has written its reply. -/
def sqLow (s : State) (q : Nat) : Nat :=
  ((s.host.pkts.findSome? fun e => match e.2 with
    | some p => if p.sq = q ∧ !p.stray ∧ !p.silent then some p.seq else none
    | none => none)).getD (s.sq q).expSeq

/-- Every packet of SQ q up to and including sequence n has written its reply (R467). -/
def seqDone (s : State) (q n : Nat) : Bool := decide ((sqLow s q + 131072 - 1 - n) % 65536 < 32768)

/-- QWAITs that a test picks complete with a status. -/
def endQwaits (s : State) (status : Byte) (f : State → Nat → Nat → Bool) : State :=
  (s.host.pkts.map (·.1)).foldl (fun s pid =>
    match s.pkt pid with
    | some p =>
      match p.work with
      | .qwait q n => if f s q n then completePkt s pid status 0 else s
      | _ => s
    | none => s) s

/-- QWAITs whose packets have all replied complete with OK. -/
def settleQwaits (s : State) : State := endQwaits s Code.ok seqDone

/-- The deletion of a CQ completes once its waiting replies are written (R456). -/
def settleCq (s : State) (q : Nat) : State :=
  let x := s.cq q
  match x.deleting, x.replies with
  | some d, [] => completePkt (s.setCq q .free) d Code.ok 0
  | _, _ => s

/-- The oldest reply of a CQ has been written: the entry is used, the interrupt raised, and its packet is over. -/
def replyWritten (s : State) (q : Nat) (r : Reply) (rs : List Reply) : State :=
  let x := s.cq q
  let last := decide (x.entries ≤ x.idx + 1)
  let s := s.setCq q { x with idx := if last then 0 else x.idx + 1, phase := if last then !x.phase else x.phase,
                              used := x.used + 1, replies := rs }
  let s := if x.ien && r.irq then raiseMsix s (x.owner.getD 0) x.vec else s
  let s := (s.tally 6 0x3A (portOf (x.owner.getD 0)) 0 1).tally 6 0x3A (x.owner.getD 0) 1 1
  settleCq (settleQwaits (s.setPkt r.pid none)) q

/-- STATUS_REPLY_WRITE (R460): the next reply is written when the ring has a free entry. One that cannot be written
waits, and the fault is recorded (R474). -/
def execStatusReplyWrite (q : Nat) (s : State) : Res :=
  let x := s.cq q
  .next (match x.owner, x.replies with
    | some ctx, r :: rs =>
      if x.entries ≤ x.used then s
      else
        match writeSpace s ctx x.host (x.ring + 16 * x.idx) (replyBytes r x.phase s.tbtime) with
        | (s, .ok _) => replyWritten s q r rs
        | (s, .wait) => s
        | (s, .err c va) => ctxFault s ctx c 2 va
    | _, _ => s)

/-! ### Admin queues (R454, R475) -/

/-- A power of two within limits. -/
def pow2In (n lo hi : Nat) : Bool := decide (lo ≤ n) && decide (n ≤ hi) && (List.range 17).any fun i => decide (2 ^ i = n)

/-- AQCFG written with AEN = 1 while the admin queues are off. An ASIZE that does not fit leaves AEN at 0. -/
def adminEnable (s : State) (ctx : Nat) (val : W64) : State :=
  let x := s.ctx ctx
  let n := fld val.toNat 12 0
  if x.aen then s
  else if pow2In n 16 4096 then
    let s := s.setCtx ctx { x with aen := true, asize := n }
    let s := s.setSq ctx ⟨some ctx, x.asqBase.toNat, true, n, 0, 0, 0, false, ctx, none⟩
    s.setCq ctx ⟨some ctx, x.acqBase.toNat, true, n, true, 0, true, 0, 0, 0, [], none⟩
  else s.setCtx ctx { x with asize := n }

/-- ADMIN_QUEUE_ENABLE (R475). -/
def execAdminQueueEnable (ctx : Nat) (val : W64) (s : State) : Res :=
  .next (if hostServed s ctx && val.getLsbD 63 then adminEnable s ctx val else s)

/-- Packets that a test picks: those that have not completed run on and leave no reply; replies not yet written go. -/
def silence (s : State) (f : Pkt → Bool) : State :=
  (s.host.pkts.map (·.1)).foldl (fun s pid =>
    match s.pkt pid with
    | some p => if f p then s.setPkt pid (if p.work = .replied then none else some { p with silent := true }) else s
    | none => s) s

/-- The admin queues stop at once: packets dispatched and replies waiting leave no reply (R475). -/
def adminDisable (s : State) (ctx : Nat) : State :=
  let s := endQwaits s Code.aborted fun _ q _ => q == ctx
  let gone := (s.cq ctx).replies.map (·.pid)
  let s := silence s fun p => decide (p.sq = ctx)
  let s := gone.foldl (fun s pid => s.setPkt pid none) s
  ((s.modCtx ctx fun x => { x with aen := false }).setSq ctx .free).setCq ctx .free

/-- ADMIN_QUEUE_DISABLE (R475). -/
def execAdminQueueDisable (ctx : Nat) (val : W64) (s : State) : Res :=
  .next (if hostServed s ctx && !val.getLsbD 63 then
      if (s.ctx ctx).aen then adminDisable s ctx
      else s.modCtx ctx fun x => { x with asize := fld val.toNat 12 0 }
    else s)

/-! ### Dispatch (R457, R458, R462) -/

/-- Who may issue an opcode (R448). -/
inductive Right where
  | any | portPf | steward | otherPf
  deriving DecidableEq, Repr

/-- What the checks of R458 need of an opcode: its code, PLEN, who may issue it, the bits of W1 on that carry
parameters, and whether it names an absent unit. -/
structure Op where
  code : Nat
  plen : Nat
  right : Right
  used : List Nat

/-- The context is the steward's PF (R449). -/
def isSteward (s : State) (ctx : Nat) : Bool := s.host.stValid && isPf ctx && decide (portOf ctx = s.host.stPort)

/-- The issuing function has the right (R448, R449). -/
def hasRight (s : State) (ctx : Nat) : Right → Bool
  | .any => true
  | .portPf => isPf ctx
  | .steward => isSteward s ctx
  | .otherPf => isPf ctx && !isSteward s ctx

/-- The bits of some fields, as a mask. -/
def bitsMask (l : List (Nat × Nat)) : Nat := (l.map fun p => 2 ^ (p.1 + 1) - 2 ^ p.2).sum

/-- Reserved header bits, PLEN and reserved parameter bits are as they must be (R457, R458). -/
def Op.formOk (o : Op) (ws : List W64) : Bool :=
  let w (i : Nat) : Nat := (ws.getD i 0).toNat
  decide (fld (w 0) 53 48 = 0) && decide (fld (w 0) 15 0 = o.plen) &&
  (List.range o.used.length).all fun i => decide (w (i + 1) &&& (2 ^ 64 - 1 - o.used.getD i 0) = 0)

/-- The status with which every new packet completes in the package safe state (R524). -/
def safeStatus (s : State) : Byte := if s.agg.cause = 1 then Code.thermal else Code.aborted

/-- The SQ may dispatch its next packet (R453, R454, R458, R460). -/
def canDispatch (s : State) (q : Nat) : Bool :=
  let x := s.sq q
  let k := s.cq x.cq
  match x.owner with
  | some ctx =>
    functionOn s ctx && decide (s.pkg = .on) && !(s.ctx ctx).td && !x.error && decide (x.head ≠ x.tail) && x.deleting.isNone &&
    decide (k.replies.length ≤ k.entries - k.used)
  | none => false

/-- The eight words of a packet. -/
def packetWords (bs : List Byte) : List W64 := (List.range 8).map fun i => BitVec.ofNat 64 (fieldAt bs (8 * i) 8)

/-- Some earlier packet of the SQ that a test picks is not over. -/
def sqHas (s : State) (q : Nat) (f : Pkt → Bool) : Bool :=
  s.host.pkts.any fun e => match e.2 with
    | some p => decide (p.sq = q) && f p
    | none => false

/-- A packet leaves the ring and becomes number pid. -/
def takePacket (s : State) (q ctx : Nat) (ws : List W64) (stray : Bool) : Nat × State :=
  let x := s.sq q
  let p : Pkt := ⟨q, ctx, ws, .unit, false, stray⟩
  let pid := s.host.pidNext
  let s := s.setSq q { x with head := (x.head + 1) % x.entries, error := stray,
                              expSeq := if stray then x.expSeq else (p.seq + 1) % 65536 }
  (pid, { s with host := { s.host with pidNext := pid + 1, pkts := put none pid (some p) s.host.pkts } })

/-- What a dispatch does with the packet at the front of an SQ whose opcode a test picks: the sequence check, FENCE and
the order after DMA (R458, R462); then `go` with the packet's number. -/
def dispatchFront (q : Nat) (s : State) (sel : Nat → Bool) (go : State → Nat → Pkt → State) : State :=
  let x := s.sq q
  match x.owner with
  | none => s
  | some ctx =>
    if !canDispatch s q then s
    else match readSpace s ctx x.host (x.ring + 64 * x.head) 64 with
      | (s, .wait) => s
      | (s, .err c va) => ctxFault s ctx c 2 va
      | (s', .ok bs) =>
        let ws := packetWords bs
        let w0 := (ws.getD 0 0).toNat
        let op := fld w0 63 56
        if !sel op then s
        else if fld w0 47 32 ≠ x.expSeq then
          let r := takePacket s' q ctx ws true
          completePkt r.2 r.1 Code.badCmd (BitVec.ofNat 32 x.expSeq)
        else if bitOf w0 55 ∧ sqHas s' q (fun p => !p.silent) then s
        else if (op = 0x08 ∨ op = 0x10) ∧ sqHas s' q (fun p => decide (p.opcode = 1) && decide (p.work ≠ .replied)) then s
        else
          let r := takePacket s' q ctx ws false
          if s.agg.safe then completePkt r.2 r.1 (safeStatus s) 0
          else match r.2.pkt r.1 with
            | some p => go r.2 r.1 p
            | none => r.2

/-- Pair 0 changes a device-wide setting for the opcode, or checks one: the steward, quotas, core masks, ledger limits
and RECLAIM (R450). -/
def Op.deviceWide (o : Op) : Bool := o.right == .steward || o.right == .otherPf || [0x40, 0x48, 0x49, 0x58, 0x70].contains o.code

/-- A Casori pair that an opcode of a context needs is halted through the debug port or has no clock: that of the context's port for every
firmware opcode, and pair 0 for a device-wide one (R450, R513). -/
def firmwareHalted (s : State) (o : Op) (ctx : Nat) : Bool :=
  s.mgmt.halted.has (96 + portOf ctx) || !s.clocked .casori || (o.deviceWide && s.mgmt.halted.has 96)

/-- A packet of a listed opcode is dispatched, checked for right, form and absent units (R458), and run. -/
def dispatch (o : Op) (absent : State → Pkt → Bool) (run : State → Nat → Pkt → State) (q : Nat) (s : State) : State :=
  if decide (0x40 ≤ o.code) && firmwareHalted s o ((s.sq q).owner.getD 0) then s
  else dispatchFront q s (· == o.code) fun s pid p =>
    if !hasRight s p.ctx o.right then completePkt s pid Code.perm 0
    else if !o.formOk p.words then completePkt s pid Code.badParam 0
    else if absent s p then completePkt s pid Code.unsupported 0
    else run s pid p

/-- No unit of the opcode can be absent. -/
def noneAbsent (_ : State) (_ : Pkt) : Bool := false

end Sys2Proof.Machine
end

