-- ==== Sys2Proof/Machine/CvuOps.lean ====
section
/-! DEFINITION. The channels of the check-value units: check values, completion, and the end of a running operation
(R544 to R549). -/

namespace Sys2Proof.Machine

def State.cv (s : State) (k : Nat) : CvChan := look .reset k s.cvs
def State.setCv (s : State) (k : Nat) (x : CvChan) : State := { s with cvs := put .reset k x s.cvs }
def State.modCv (s : State) (k : Nat) (f : CvChan → CvChan) : State := s.setCv k (f (s.cv k))

/-! ### Fields of CVCTL (R546) -/

def CvChan.ien (x : CvChan) : Bool := bitOf x.ctl.toNat 55
def CvChan.vec (x : CvChan) : Nat := fld x.ctl.toNat 54 44
def CvChan.sspace (x : CvChan) : Bool := bitOf x.ctl.toNat 39
def CvChan.dspace (x : CvChan) : Bool := bitOf x.ctl.toNat 38
def CvChan.seqinc (x : CvChan) : Bool := bitOf x.ctl.toNat 35
def CvChan.fold (x : CvChan) : Bool := bitOf x.ctl.toNat 34
def CvChan.mode (x : CvChan) : Nat := fld x.ctl.toNat 33 32
def CvChan.wide (x : CvChan) : Bool := bitOf x.ctl.toNat 0
def CvChan.busy (x : CvChan) : Bool := x.run.isSome

/-- The stored fields: IEN, VEC, SSPACE, DSPACE, SEQINC, FOLD, MODE, WIDTH. -/
abbrev cvCtlMask : W64 := 0x00FFF0CF00000001

/-- The PF's context of a channel. -/
def cvCtx (k : Nat) : Nat := 16 * (k / 2)

/-! ### Check values (R544, R545) -/

/-- One bit of CRC-64/ECMA-182, most significant first. -/
def crc64Bit (c : Nat) : Nat :=
  if c / 2 ^ 63 % 2 = 1 then (c * 2 % 2 ^ 64) ^^^ 0x42F0E1EBA9EA3693 else c * 2 % 2 ^ 64

def crc64Bits : Nat → Nat → Nat
  | 0, c => c
  | n + 1, c => crc64Bits n (crc64Bit c)

/-- The register of the check value before any byte. -/
def cvInit (wide : Bool) : Nat := if wide then 0 else 0xFFFFFFFF

/-- The register after bytes: CRC-32C is reflected, CRC-64 is not. -/
def cvRun (wide : Bool) (c : Nat) (bs : List Byte) : Nat :=
  if wide then bs.foldl (fun c b => crc64Bits 8 (c ^^^ (b.toNat * 2 ^ 56))) c else crcRun 0x82F63B78 c bs

/-- The check value of a register. -/
def cvFinal (wide : Bool) (c : Nat) : Nat := if wide then c else c ^^^ 0xFFFFFFFF

/-- CVTAG and CVSEQ as the prefix of FOLD. -/
def CvChan.prefixBytes (x : CvChan) : List Byte := if x.fold then leBytes 8 x.tag.toNat ++ leBytes 4 x.seq.toNat else []

/-- The check value of data on a channel. -/
def CvChan.value (x : CvChan) (bs : List Byte) : Nat :=
  cvFinal x.wide (cvRun x.wide (cvInit x.wide) (x.prefixBytes ++ bs))

/-- w: bytes of the check value. -/
def CvChan.w (x : CvChan) : Nat := if x.wide then 8 else 4

/-- Bytes read and written by MODE (R547). -/
def CvChan.reads (x : CvChan) : Nat := if x.mode = 0 then x.len else x.len + x.w
def CvChan.writes (x : CvChan) : Nat := if x.mode = 0 then x.len + x.w else if x.mode = 2 then x.len else 0

/-! ### Completion (R548) -/

/-- An operation completes: CVSTS is written, and then VEC raised if IEN = 1. -/
def cvDone (s : State) (k : Nat) (status : Byte) : State :=
  let x := s.cv k
  let s := s.setCv k { x with status := status, done := true, run := none
                              seq := if x.seqinc ∧ status = Code.ok then x.seq + 1 else x.seq }
  if x.ien && (s.port (k / 2)).up then raiseMsix s (cvCtx k) x.vec else s

/-- Bytes written at the destination. -/
def cvWrite (s : State) (k : Nat) (xl : Table Nat) (bs : List Byte) : State × Option Byte :=
  let x := s.cv k
  if x.dspace then (hostPoke s (cvCtx k) x.dst.toNat bs, none)
  else writeStop s ((pairs x.dst.toNat bs).map fun q => (viaXl xl q.1, q.2))

/-- A running operation ends from outside: its destination is undefined. -/
def cvEnd (s : State) (k : Nat) (status : Byte) : State :=
  match (s.cv k).run with
  | none => s
  | some xl =>
    let r := freeBytes s (s.cv k).writes
    cvDone (cvWrite r.2 k xl r.1).1 k status

/-- The running operations of a port's channels end. -/
def cvEndPort (s : State) (port : Nat) (status : Byte) : State := cvEnd (cvEnd s (2 * port) status) (2 * port + 1) status

end Sys2Proof.Machine
end

