-- ==== Sys2Proof/Machine/HostOps.lean ====
section
/-! DEFINITION. The hardware opcodes and Q_CREATE (R455, R464 to R467). -/

namespace Sys2Proof.Machine

/-! ### The opcode table (R464) -/

def opNop : Op := ⟨0x00, 0, .any, []⟩
def opDma : Op := ⟨0x01, 24, .any, [2 ^ 64 - 1, 2 ^ 64 - 1, bitsMask [(63, 48), (39, 0)]]⟩
def opLaunch : Op := ⟨0x08, 40, .any, [bitsMask [(47, 0)], 2 ^ 64 - 1, 2 ^ 64 - 1, bitsMask [(31, 0)], bitsMask [(47, 0)]]⟩
def opTokenPost : Op := ⟨0x10, 8, .any, [bitsMask [(63, 51), (15, 0)]]⟩
def opQwait : Op := ⟨0x20, 8, .any, [bitsMask [(43, 32), (15, 0)]]⟩
def opQCreate : Op := ⟨0x40, 16, .any, [2 ^ 64 - 1, bitsMask [(63, 61), (47, 36), (31, 21), (16, 0)]]⟩
def opQDelete : Op := ⟨0x41, 8, .any, [bitsMask [(63, 63), (11, 0)]]⟩
def opQReset : Op := ⟨0x42, 8, .any, [bitsMask [(43, 32), (15, 0)]]⟩
def opCtxSetroot : Op := ⟨0x43, 16, .portPf, [bitsMask [(4, 0)], bitsMask [(47, 0)]]⟩
def opXlateInval : Op := ⟨0x44, 24, .any, [bitsMask [(47, 0)], bitsMask [(63, 63), (33, 0)], bitsMask [(4, 0)]]⟩
def opCtxTeardown : Op := ⟨0x45, 8, .portPf, [bitsMask [(4, 0)]]⟩
def opProgAbort : Op := ⟨0x48, 16, .any, [2 ^ 64 - 1, bitsMask [(31, 0)]]⟩
def opSfLoad : Op := ⟨0x49, 16, .any, [bitsMask [(47, 0)], bitsMask [(13, 0)]]⟩
def opIngestBatch : Op := ⟨0x50, 8, .any, [bitsMask [(47, 0)]]⟩
def opIngestAbort : Op := ⟨0x51, 8, .any, [bitsMask [(43, 32), (15, 0)]]⟩
/-- ST_OPEN, ST_START, ST_STOP, ST_SAVE, ST_RESTORE, ST_RESYNC, ST_CLOSE: i = 0 to 6. -/
def opSt (i : Nat) : Op := ⟨0x58 + i, 16, .any, [bitsMask [(17, 0)], bitsMask [(47, 0)]]⟩
def opPlanLoad : Op := ⟨0x60, 16, .any, [bitsMask [(0, 0)], bitsMask [(47, 0)]]⟩
def opPlanUnload : Op := ⟨0x61, 8, .any, [bitsMask [(15, 8), (0, 0)]]⟩
def opCeTrigger : Op := ⟨0x62, 16, .any, [bitsMask [(15, 8), (0, 0)], bitsMask [(31, 0)]]⟩
def opCeXfer : Op := ⟨0x63, 16, .any, [bitsMask [(0, 0)], bitsMask [(47, 0)]]⟩
def opCeAbort : Op := ⟨0x64, 8, .any, [bitsMask [(15, 8), (0, 0)]]⟩
def opEvDecode : Op := ⟨0x68, 8, .any, [bitsMask [(47, 0)]]⟩
def opEvCheck : Op := ⟨0x69, 24, .any, [bitsMask [(47, 0)], bitsMask [(47, 0)], bitsMask [(12, 0)]]⟩
def opHbmReserve : Op := ⟨0x70, 8, .any, [bitsMask [(13, 8), (2, 0)]]⟩
def opHbmRelease : Op := ⟨0x71, 8, .any, [bitsMask [(13, 8), (2, 0)]]⟩
def opQuotaSet : Op := ⟨0x80, 16, .steward, [bitsMask [(14, 8), (4, 0)], bitsMask [(31, 0)]]⟩
def opReclaim : Op := ⟨0x81, 16, .steward, [bitsMask [(14, 8), (4, 0)], 0]⟩
def opCtxCores : Op := ⟨0x82, 24, .steward, [bitsMask [(4, 0)], 2 ^ 64 - 1, bitsMask [(31, 0)]]⟩
def opCtxJob : Op := ⟨0x83, 8, .portPf, [bitsMask [(31, 16), (8, 8), (4, 0)]]⟩
def opLedgerSet : Op := ⟨0x84, 16, .steward, [bitsMask [(9, 8), (3, 0)], bitsMask [(12, 0)]]⟩
def opTlyGrant : Op := ⟨0x85, 16, .steward, [bitsMask [(18, 7), (4, 0)], 0]⟩
def opStewardRenew : Op := ⟨0x88, 0, .steward, []⟩
def opStewardClaim : Op := ⟨0x89, 0, .otherPf, []⟩
def opStewardHandoff : Op := ⟨0x8A, 0, .steward, []⟩
def opAttest : Op := ⟨0xC0, 16, .any, []⟩
def opKeyPush : Op := ⟨0xC1, 16, .steward, []⟩
def opDebugUnlock : Op := ⟨0xC2, 16, .steward, [bitsMask [(51, 0)], 0]⟩

/-- Every listed opcode. -/
def opList : List Op :=
  [opNop, opDma, opLaunch, opTokenPost, opQwait, opQCreate, opQDelete, opQReset, opCtxSetroot, opXlateInval, opCtxTeardown,
   opProgAbort, opSfLoad, opIngestBatch, opIngestAbort, opSt 0, opSt 1, opSt 2, opSt 3, opSt 4, opSt 5, opSt 6, opPlanLoad,
   opPlanUnload, opCeTrigger, opCeXfer, opCeAbort, opEvDecode, opEvCheck, opHbmReserve, opHbmRelease, opQuotaSet, opReclaim,
   opCtxCores, opCtxJob, opLedgerSet, opTlyGrant, opStewardRenew, opStewardClaim, opStewardHandoff, opAttest, opKeyPush,
   opDebugUnlock]

/-! ### Checks shared by opcodes that name cores -/

/-- The cores of two mask words. -/
def maskCores (lo hi : Nat) : List Nat := bitIndices 64 lo ++ (bitIndices 32 hi).map (64 + ·)

/-- Cores named: absent, outside the context's mask, or out of service, with the detail word (R6, R464, R521). -/
def coresCheck (s : State) (ctx : Nat) (cs : List Nat) : Option (Byte × W32) :=
  if cs.any fun c => !s.hasCore c then some (Code.unsupported, 0)
  else if cs.any fun c => !(s.ctx ctx).cores.getLsbD c then some (Code.perm, 0)
  else match cs.find? fun c => s.agg.oos.has c with
    | some c => some (Code.aborted, BitVec.ofNat 32 c)
    | none => none

/-! ### NOP, TOKEN_POST, QWAIT (R464, R467) -/

/-- NOP. -/
def execNop (q : Nat) (s : State) : Res := .next (dispatch opNop noneAbsent (fun s pid _ => completePkt s pid Code.ok 0) q s)

/-- TOKEN_POST posts COUNT tokens (R467, R183). -/
def tokenPost (s : State) (pid : Nat) (p : Pkt) : State :=
  let c := fld (p.w 1) 63 57
  let n := fld (p.w 1) 15 0
  match coresCheck s p.ctx [c] with
  | some (e, d) => completePkt s pid e d
  | none =>
    if n = 0 then completePkt s pid Code.okEmpty 0
    else completePkt (postMany s c (fld (p.w 1) 56 51) n) pid Code.ok 0

/-- TOKEN_POST. -/
def execTokenPost (q : Nat) (s : State) : Res := .next (dispatch opTokenPost noneAbsent tokenPost q s)

/-- QWAIT waits for the replies of an SQ's packets (R467). -/
def qwait (s : State) (pid : Nat) (p : Pkt) : State :=
  let q := fld (p.w 1) 43 32
  let n := fld (p.w 1) 15 0
  if q = p.sq then completePkt s pid Code.badParam 0
  else if !holdsSq s p.ctx q then completePkt s pid Code.perm 0
  else if seqDone s q n then completePkt s pid Code.ok 0
  else s.setPkt pid (some { p with work := .qwait q n })

/-- QWAIT. -/
def execQwait (q : Nat) (s : State) : Res := .next (dispatch opQwait noneAbsent qwait q s)

/-! ### DMA (R465) -/

def dmaSspace (p : Pkt) : Bool := bitOf (p.w 3) 63
def dmaDspace (p : Pkt) : Bool := bitOf (p.w 3) 62
def dmaPen (p : Pkt) : Bool := bitOf (p.w 3) 61
def dmaCore (p : Pkt) : Nat := fld (p.w 3) 60 54
def dmaCtr (p : Pkt) : Nat := fld (p.w 3) 53 48
def dmaLen (p : Pkt) : Nat := fld (p.w 3) 39 0

/-- The post of a DMA. -/
def dmaPost (s : State) (p : Pkt) : State := if dmaPen p then post s (dmaCore p) (dmaCtr p) else s

/-- The checks of a DMA, in order; one that passes waits to move its bytes. -/
def dmaStart (s : State) (pid : Nat) (p : Pkt) : State :=
  let n := dmaLen p
  let src := p.w 1
  let dst := p.w 2
  if dmaSspace p && dmaDspace p then completePkt s pid Code.badParam 0
  else match if dmaPen p then coresCheck s p.ctx [dmaCore p] else none with
  | some (e, d) => completePkt s pid e d
  | none =>
    if n = 0 then completePkt (dmaPost s p) pid Code.okEmpty 0
    else if !dmaSspace p && !dmaDspace p && decide (src < dst + n) && decide (dst < src + n) then
      completePkt s pid Code.overlap 0
    else
      match xlate s p.ctx (if dmaSspace p then [] else upFrom src n) (if dmaDspace p then [] else upFrom dst n) with
      | (s, .err c _ va) => completePkt (ctxFault s p.ctx c 1 va) pid c 0
      | (s, .ok xl) => s.setPkt pid (some { p with work := .dma xl })

/-- DMA. -/
def execDma (q : Nat) (s : State) : Res := .next (dispatch opDma noneAbsent dmaStart q s)

/-- The DMA stops with a status; CTXFLT records the fault (R465, R474). -/
def dmaStop (s : State) (pid ctx : Nat) (code : Byte) (va : Nat) : State := completePkt (ctxFault s ctx code 1 va) pid code 0

/-- A DMA's bytes at its destination, or the status that stops it and the address it fails at (R474, R573). -/
def dmaWrite (s : State) (p : Pkt) (xl : Table Nat) (bs : List Byte) : State × Option (Byte × Nat) :=
  if dmaDspace p then (hostPoke s p.ctx (p.w 2) bs, none)
  else
    let l := (pairs (p.w 2) bs).map fun q => (viaXl xl q.1, q.2)
    let r := writeStop s l
    (r.1, r.2.map fun c => (c, firstUnwritten s (p.w 2) bs.length xl l))

/-- The source bytes of a DMA from an offset on, whatever their check bits say. -/
def dmaBytes (s : State) (p : Pkt) (xl : Table Nat) (n : Nat) : List Byte :=
  if dmaSspace p then hostBytes s p.ctx (p.w 1) n else (upFrom (p.w 1) n).map fun a => s.byte (viaXl xl a)

/-- Bytes already written remain when a DMA stops before byte n (R465, log 22). -/
def dmaPart (s : State) (p : Pkt) (xl : Table Nat) (n : Nat) : State :=
  writeSome s p.ctx (dmaDspace p) (p.w 2) n (dmaBytes s p xl (dmaLen p)) xl

/-- The bytes of a DMA move. `hostFail`: the host side fails at this byte. -/
def dmaMove (s : State) (pid : Nat) (p : Pkt) (xl : Table Nat) (hostFail : Option Nat) : State :=
  let n := dmaLen p
  let host := if dmaSspace p then p.w 1 else p.w 2
  match if dmaSspace p || dmaDspace p then hostXlate s p.ctx host n else (s, .ok) with
  | (s, .wait) => s
  | (s, .fail a) => dmaStop (dmaPart s p xl (a - host)) pid p.ctx Code.xlate a
  | (s, .ok) =>
    match if dmaSspace p || dmaDspace p then hostFail else none with
    | some k => dmaStop (dmaPart s p xl (min k n)) pid p.ctx Code.xlate (host + min k (n - 1))
    | none =>
      match if dmaSspace p then (s, none) else readCheck s ((upFrom (p.w 1) n).map (viaXl xl)) with
      | (s', some c) =>
        let va := firstBad s (p.w 1) n xl
        dmaStop (dmaPart s' p xl (va - p.w 1)) pid p.ctx c va
      | (s, none) =>
        match dmaWrite s p xl (dmaBytes s p xl n) with
        | (s, some (c, va)) => dmaStop s pid p.ctx c va
        | (s, none) => completePkt (dmaPost s p) pid Code.ok 0

/-- DMA_COMPLETE (R465). -/
def execDmaComplete (pid : Nat) (hostFail : Option Nat) (s : State) : Res :=
  .next (match s.pkt pid with
    | some p =>
      match p.work with
      | .dma xl => dmaMove s pid p xl hostFail
      | _ => s
    | none => s)

/-! ### LAUNCH (R466) -/

/-- A launch reaches each core it names. -/
def sendLaunch (s : State) (pid : Nat) (p : Pkt) (cs : List Nat) : State :=
  cs.foldl (fun s c => s.modCore c fun k =>
    { k with launches := k.launches ++ [⟨pid, p.ctx, fld (p.w 1) 47 0, BitVec.ofNat 64 (p.w 2)⟩] }) s

/-- The checks of a LAUNCH, before any core starts. -/
def launch (s : State) (pid : Nat) (p : Pkt) : State :=
  let cs := maskCores (p.w 3) (fld (p.w 4) 31 0)
  let recva := fld (p.w 5) 47 0
  if cs = [] then completePkt s pid Code.okEmpty 0
  else match coresCheck s p.ctx cs with
  | some (e, d) => completePkt s pid e d
  | none =>
    match if recva = 0 then (s, .ok []) else xlate s p.ctx [] (cs.flatMap fun c => upFrom (recva + 8 * c) 8) with
    | (s, .err c _ _) => completePkt s pid c 0
    | (s, .ok xl) => sendLaunch (s.setPkt pid (some { p with work := .launch cs [] recva xl })) pid p cs

/-- LAUNCH. -/
def execLaunch (q : Nat) (s : State) : Res := .next (dispatch opLaunch noneAbsent launch q s)

/-! ### Q_CREATE (R455) -/

/-- Pool queues a context holds. -/
def poolSqs (s : State) (ctx : Nat) : Nat := (s.host.sqs.filter fun e => decide (32 ≤ e.1) && decide (e.2.owner = some ctx)).length
def poolCqs (s : State) (ctx : Nat) : Nat := (s.host.cqs.filter fun e => decide (32 ≤ e.1) && decide (e.2.owner = some ctx)).length

/-- The lowest free pool queue (R454). -/
def freeSq (s : State) : Option Nat := (upFrom 32 4064).find? fun q => (s.sq q).owner.isNone
def freeCq (s : State) : Option Nat := (upFrom 32 4064).find? fun q => (s.cq q).owner.isNone

/-- The distinct vectors that a context's CQs name (CTXSTS.VECS, R473). -/
def vectorsNamed (s : State) (n : Nat) : List Nat :=
  ((s.host.cqs.filter fun e => decide (e.2.owner = some n)).map fun e => e.2.vec).eraseDups

/-- The context may name a vector in one more CQ: it lies below VECLIM, and the vectors held with it are within the limit
(R455, R470). -/
def vectorOk (s : State) (n vec : Nat) : Bool :=
  decide (vec < (s.ctx n).vecLim) && decide (((vec :: vectorsNamed s n).eraseDups).length ≤ (s.ctx n).vecLim)

/-- The checks of R455 and the new queue. -/
def qCreate (s : State) (pid : Nat) (p : Pkt) : State :=
  let w := p.w 2
  let ring := p.w 1
  let isCq := bitOf w 63
  let host := bitOf w 62
  let n := fld w 16 0
  let cq := fld w 47 36
  let vec := fld w 31 21
  let x := s.ctx p.ctx
  let slot := if isCq then freeCq s else freeSq s
  if !pow2In n 16 65536 || decide (ring % 4096 ≠ 0) then completePkt s pid Code.badParam 0
  else if !isCq && !holdsCq s p.ctx cq then completePkt s pid Code.perm 0
  else if (if isCq then decide (x.cqLim ≤ poolCqs s p.ctx) || !vectorOk s p.ctx vec else decide (x.sqLim ≤ poolSqs s p.ctx))
  then completePkt s pid Code.quota 0
  else match slot with
  | none => completePkt s pid Code.quota 0
  | some q =>
    let bytes := n * (if isCq then 16 else 64)
    match if host then (s, .ok []) else if isCq then xlate s p.ctx [] (upFrom ring bytes) else xlate s p.ctx (upFrom ring bytes) [] with
    | (s, .err c _ _) => completePkt s pid c 0
    | (s, .ok _) =>
      let s :=
        if isCq then s.setCq q ⟨some p.ctx, ring, host, n, bitOf w 61, vec, true, 0, 0, 0, [], none⟩
        else s.setSq q ⟨some p.ctx, ring, host, n, 0, 0, 0, false, cq, none⟩
      completePkt s pid Code.ok (BitVec.ofNat 32 q)

/-- Q_CREATE. -/
def execQCreate (q : Nat) (s : State) : Res := .next (dispatch opQCreate noneAbsent qCreate q s)

/-! ### Unlisted opcodes (R458) -/

/-- UNLISTED_PACKET_OPCODE: E_BADCMD. -/
def execUnlistedPacketOpcode (q : Nat) (s : State) : Res :=
  .next (dispatchFront q s (fun op => !opList.any fun o => o.code == op) fun s pid _ => completePkt s pid Code.badCmd 0)

end Sys2Proof.Machine
end

