-- ==== Sys2Proof/Machine/Plans.lean ====
section
/-! DEFINITION. Host packets for the collective engines: plans, triggers, puts and gets, aborts (R386, R392 to R401,
R408, R420 to R422). -/

namespace Sys2Proof.Machine

/-! ### A plan image (R393, R394) -/

/-- Bytes of a plan image, from its header. -/
def planBytes (npart nstep : Nat) : Nat := 128 + (2 * npart + 7) / 8 * 8 + 16 * nstep

/-- A plan as its image gives it. -/
def planOf (ctx : Nat) (bs : List Byte) (parity : ParityMode) : Plan :=
  let h := wordsOf bs 16
  let npart := fld (h.getD 0 0) 31 16
  let nstep := fld (h.getD 0 0) 47 32
  let at' := 128 + (2 * npart + 7) / 8 * 8
  { ctx, h, parity
    parts := (List.range npart).map fun i => fieldAt bs (128 + 2 * i) 2
    steps := (List.range nstep).map fun k => ⟨fieldAt bs (at' + 16 * k) 8, fieldAt bs (at' + 16 * k + 8) 8⟩ }

/-- Row 2 of R397: reserved fields are zero and no code is reserved. -/
def Plan.codesOk (p : Plan) : Bool :=
  !bitOf (p.w 0) 48 && decide (fld (p.w 1) 39 32 = 0) && decide (fld (p.w 2) 63 48 = 0) && decide (fld (p.w 3) 63 48 = 0) &&
  decide (fld (p.w 7) 49 0 = 0) && decide (fld (p.w 9) 63 32 = 0) && decide (fld (p.w 10) 63 48 = 0) &&
  decide (fld (p.w 11) 63 48 = 0) && (p.h.drop 12).all (· == 0) &&
  decide (1 ≤ p.type) && decide (p.type ≤ 6) && decide (p.rop ≤ 6) && decide (p.etype ≤ 5) &&
  p.steps.all fun x =>
    !bitOf x.w0 54 && decide (fld x.w0 1 0 = 0) && decide (x.akind ≠ 3) && decide (1 ≤ x.opc) && decide (x.opc ≤ 5)

/-- Row 3. -/
def Plan.partsOk (p : Plan) (devId : Nat) : Bool :=
  decide (1 ≤ p.npart) && decide (p.npart ≤ 8192) && decide (p.rank < p.npart) && decide (p.parts.getD p.rank 0 = devId) &&
  decide (p.trign ≠ 0)

/-- Row 4: the links a step uses are the engine's. -/
def Plan.linksOk (p : Plan) (e : Nat) : Bool :=
  p.steps.all fun x =>
    (!x.receives || decide (x.inlink / 32 = e)) && (!((x.isData && x.toSend) || x.opc == 4) || decide (x.outlink / 32 = e))

/-- Chunks [c, c + n) lie in [lo, lo + len). -/
def inChunks (c n lo len : Nat) : Bool := n == 0 || (decide (lo ≤ c) && decide (c + n ≤ lo + len))

/-- Row 5: outputs, ranges, buffer slots and the chunk size. -/
def Plan.rangesOk (p : Plan) : Bool :=
  decide (p.chunkB ≤ 0x1000000) && decide (p.chunkB % etSize p.etype = 0) &&
  p.steps.all fun x =>
    let usesA := x.opc == 1 || x.opc == 3
    !x.isData ||
    ((x.toSend || x.toBuf || x.toDst) &&
     (!(usesA && x.akind == 0) || inChunks x.chunk x.nch p.sfirst p.snchunk) &&
     (!(usesA && x.akind == 1) || inChunks x.chunk x.nch p.dfirst p.dnchunk) &&
     (!x.toDst || inChunks x.chunk x.nch p.dfirst p.dnchunk) &&
     (!(x.toBuf || (usesA && x.akind == 2)) || x.nch == 0 || decide ((x.buf + x.nch) * p.chunkB ≤ 0x800000)))

/-- Row 6: ROP, ETYPE, TYPE, GRAD and DETACH_ALLOWED agree (R398, R399). -/
def Plan.typesOk (p : Plan) : Bool :=
  (if p.rop = 0 then p.steps.all fun x => x.opc != 3
   else if p.rop ≤ 3 then decide (p.etype ≤ 4)
   else decide (3 ≤ p.etype)) &&
  (decide (p.type ≤ 2) == decide (p.rop ≠ 0)) &&
  (!(p.type == 2 || p.type == 5 || p.type == 6) || p.steps.any fun x => decide (4 ≤ x.opc)) &&
  (p.type != 6 || (p.srcva == 0 && p.dstva == 0 && p.chunkB == 0 && p.steps.all fun x => decide (4 ≤ x.opc))) &&
  (!p.grad || (etFloat p.etype && decide (p.type ≤ 2))) && (!p.mayDetach || decide (p.straggle ≠ 0))

/-- Row 7: cores named are present. -/
def Plan.coresOk (p : Plan) (s : State) : Bool :=
  (bitIndices 96 p.gnfMask).all s.hasCore && (!p.pen || s.hasCore p.pcore)

/-- Two ranges share a byte. -/
def meets (a n b m : Nat) : Bool := decide (0 < n) && decide (0 < m) && decide (a < b + m) && decide (b < a + n)

/-- The checks of R397 after the image has been read. -/
def planCheck (s : State) (e : Nat) (p : Plan) (bytes : Nat) : Option Byte :=
  let x := s.ce e
  if !p.codesOk || !p.partsOk s.net.devId.toNat || !p.linksOk e || !p.rangesOk || !p.typesOk then some Code.badParam
  else if !p.coresOk s then some Code.unsupported
  else if meets p.srcva p.srcLen p.dstva p.dstLen then some Code.overlap
  else
    let held := (x.plans.map fun q => match q.2 with | some y => planBytes y.npart y.nstep | none => 0).sum
    if 256 ≤ x.plans.length ∨ 0x400000 < held + bytes then some Code.quota else none

/-! ### A parity descriptor (R420 to R422) -/

/-- Entry n of a descriptor. -/
def parityEntryOf (bs : List Byte) (n : Nat) : ParityEntry :=
  let w (i : Nat) : Nat := fieldAt bs (64 + 32 * n + 8 * i) 8
  { k := fld (w 0) 63 59, m := fld (w 0) 58 57, row := bitOf (w 0) 56, group := fld (w 0) 55 32, first := fld (w 1) 63 32,
    stride := fld (w 1) 31 0, len := fld (w 2) 63 32, pva := fld (w 3) 47 0 }

/-- Reserved fields of an entry are zero. -/
def entryReserved (bs : List Byte) (n : Nat) : Bool :=
  let w (i : Nat) : Nat := fieldAt bs (64 + 32 * n + 8 * i) 8
  decide (fld (w 0) 31 0 = 0) && decide (fld (w 2) 31 0 = 0) && decide (fld (w 3) 63 48 = 0)

/-- An entry's own fields are in range. -/
def ParityEntry.ok (y : ParityEntry) : Bool :=
  decide (4 ≤ y.k) && decide (y.k ≤ 16) && decide (1 ≤ y.m) && decide (y.m ≤ 2) && decide (1 ≤ y.len) &&
  !(y.row && y.m == 1) && decide (y.len ≤ y.stride)

/-- Every chunk of an entry is a destination chunk that some step writes. -/
def ParityEntry.covered (y : ParityEntry) (p : Plan) : Bool :=
  (List.range y.k).all fun i => (upFrom (y.first + i * y.stride) y.len).all fun c =>
    inChunks c 1 p.dfirst p.dnchunk &&
    p.steps.any fun x => x.isData && x.toDst && decide (x.chunk ≤ c) && decide (c < x.chunk + x.nch)

/-- No two numbers of a list are equal. -/
def distinct : List Nat → Bool
  | [] => true
  | a :: l => !l.contains a && distinct l

/-- Pairs of areas do not meet. -/
def areasApart (p : Plan) : List ParityEntry → Bool
  | [] => true
  | y :: ys =>
    let n := y.area p.chunkB
    !meets y.pva n p.srcva p.srcLen && !meets y.pva n p.dstva p.dstLen &&
    ys.all (fun z => !meets y.pva n z.pva (z.area p.chunkB)) && areasApart p ys

/-- The checks of R422 on a descriptor that has been read: its parity, or the status. -/
def parityCheck (p : Plan) (bs : List Byte) : Sum ParityMode Byte :=
  let w := fieldAt bs 0 8
  let mode := fld w 59 58
  let nent := fld w 49 45
  let es := (List.range nent).map (parityEntryOf bs)
  if fld w 63 60 ≠ 2 ∨ fld w 44 0 ≠ 0 ∨ !zeroAt bs 8 56 ∨ !((List.range nent).all (entryReserved bs)) ∨ 1 < mode ∨
      fld w 57 50 = 255 ∨ 16 < nent ∨ (mode = 1 ∧ nent ≠ 0) then .inr Code.badParam
  else if mode = 1 then
    if p.type ≤ 2 ∧ p.rop = 6 ∧ p.etype = 5 then .inl (.scaled (fld w 57 50)) else .inr Code.badParam
  else if !(p.type == 1 || p.type == 3 || p.type == 4) || !es.all ParityEntry.ok || !distinct (es.map (·.group)) ||
      !es.all (·.covered p) then .inr Code.badParam
  else if !areasApart p es then .inr Code.overlap
  else .inl (.traffic es)

/-- The parity of a plan: read and checked. -/
def loadParity (s : State) (p : Plan) : State × Sum ParityMode Byte :=
  if p.parva = 0 then (s, .inl .none)
  else match readVa s p.ctx p.parva 64 with
    | (s, .inr c) => (s, .inr c)
    | (s, .inl hd) =>
      match readVa s p.ctx p.parva (64 + 32 * fld (fieldAt hd 0 8) 49 45) with
      | (s, .inr c) => (s, .inr c)
      | (s, .inl bs) => (s, parityCheck p bs)

/-! ### The opcodes -/

def pktEngine (p : Pkt) : Nat := fld (p.w 1) 0 0
def pktHandle (p : Pkt) : Nat := fld (p.w 1) 15 8

/-- The lowest handle without a plan. -/
def freeHandle (x : Ce) : Option Nat := (List.range 256).find? fun h => (x.plan h).isNone

/-- A plan is read, checked and copied (R392, R397, R422). -/
def planLoad (s : State) (pid : Nat) (q : Pkt) : State :=
  let e := pktEngine q
  let va := fld (q.w 2) 47 0
  match readVa s q.ctx va 128 with
  | (s, .inr c) => completePkt s pid c 0
  | (s, .inl hd) =>
    let n := planBytes (fieldAt hd 2 2) (fieldAt hd 4 2)
    match readVa s q.ctx va n with
    | (s, .inr c) => completePkt s pid c 0
    | (s, .inl bs) =>
      let p := planOf q.ctx bs .none
      match planCheck s e p n with
      | some c => completePkt s pid c 0
      | none =>
        match loadParity s p with
        | (s, .inr c) => completePkt s pid c 0
        | (s, .inl par) =>
          match freeHandle (s.ce e) with
          | none => completePkt s pid Code.quota 0
          | some h =>
            let s := s.modCe e fun x => { x with plans := put none h (some { p with parity := par }) x.plans }
            completePkt s pid Code.ok (BitVec.ofNat 32 h)

/-- PLAN_LOAD (R392). -/
def execPlanLoad (q : Nat) (s : State) : Res := .next (dispatch opPlanLoad noneAbsent planLoad q s)

/-- A packet that names a loaded plan of its context. -/
def onPlan (s : State) (pid : Nat) (q : Pkt) (go : State → Plan → State) : State :=
  match (s.ce (pktEngine q)).plan (pktHandle q) with
  | none => completePkt s pid Code.badParam 0
  | some p => if p.ctx ≠ q.ctx then completePkt s pid Code.perm 0 else go s p

/-- A plan leaves plan memory. -/
def Ce.unload (x : Ce) (h : Nat) : Ce :=
  { x with plans := put none h none x.plans, waiting := put [] h [] x.waiting, running := put none h none x.running,
           dead := put [] h [] x.dead, ended := put [] h [] x.ended }

/-- PLAN_UNLOAD (R392): of a plan no instance of which runs or waits. -/
def execPlanUnload (q : Nat) (s : State) : Res :=
  .next (dispatch opPlanUnload noneAbsent (fun s pid k => onPlan s pid k fun s _ =>
    let e := pktEngine k
    let h := pktHandle k
    if ((s.ce e).inst h).isSome ∨ look [] h (s.ce e).waiting ≠ [] then completePkt s pid Code.badParam 0
    else completePkt (s.modCe e fun x => x.unload h) pid Code.ok 0) q s)

/-- CE_TRIGGER (R401). -/
def execCeTrigger (q : Nat) (s : State) : Res :=
  .next (dispatch opCeTrigger noneAbsent (fun s pid k => onPlan s pid k fun s p =>
    let e := pktEngine k
    let h := pktHandle k
    let tag := fld (k.w 2) 31 0
    let ws := look [] h (s.ce e).waiting
    let full := decide (4 ≤ ws.length) && !(ws.any fun w => w.tag == tag && decide (w.count < p.trign))
    completePkt (trigger s e h tag 0) pid (if full then Code.quota else Code.ok) 0) q s)

/-- A host's put or get: the descriptor is read and W4 must be writable; one that cannot be read is recorded in CEFLT
(R386, R387). -/
def ceXfer (s : State) (pid : Nat) (q : Pkt) : State :=
  let e := pktEngine q
  let va := fld (q.w 2) 47 0
  let bad (s : State) (c : Byte) : State := completePkt (setFlt s e (ceFlt c 1 0 0 va)) pid c 0
  match xlate s q.ctx (upFrom va 64) (upFrom (va + 32) 8) with
  | (s, .err c _ _) => bad s c
  | (s, .ok xl) =>
    match readCheck s ((upFrom va 64).map (viaXl xl)) with
    | (s, some c) => bad s c
    | (s, none) =>
      issueXfer s e q.ctx (.host pid va (viaXl xl (va + 32))) (wordsOf ((upFrom va 64).map fun a => s.byte (viaXl xl a)) 8)

/-- CE_XFER (R387). While 4,096 operations of the engine are outstanding, the packet waits. -/
def execCeXfer (q : Nat) (s : State) : Res :=
  let s' := dispatch opCeXfer noneAbsent ceXfer q s
  .next (if (s'.ce0.xfers.length ≤ 4096 ∧ s'.ce1.xfers.length ≤ 4096) then s' else s)

/-- CE_ABORT (R408): the running instance of a plan ends with E_ABORTED. -/
def execCeAbort (q : Nat) (s : State) : Res :=
  .next (dispatch opCeAbort noneAbsent (fun s pid k => onPlan s pid k fun s _ =>
    completePkt (abortInst s (pktEngine k) (pktHandle k) Code.aborted) pid Code.ok 0) q s)

end Sys2Proof.Machine
end

