-- ==== Sys2Proof/Machine/Evohild.lean ====
section
/-! DEFINITION. Evohild decoding and checking (R432 to R438). -/

namespace Sys2Proof.Machine

/-! ### A decode descriptor (R432) -/

def dcW (d : List Byte) (i : Nat) : Nat := fieldAt d (8 * i) 8
def dcK (d : List Byte) : Nat := fld (dcW d 0) 59 55
def dcM (d : List Byte) : Nat := fld (dcW d 0) 54 53
def dcVerify (d : List Byte) : Bool := bitOf (dcW d 0) 52
def dcRecva (d : List Byte) : Nat := fld (dcW d 0) 47 0
def dcWant (d : List Byte) : List Nat := bitIndices 18 (fld (dcW d 1) 49 32)
def dcPresent (d : List Byte) : List Nat := bitIndices 18 (fld (dcW d 1) 17 0)
def dcPva (d : List Byte) (j : Nat) : Nat := fld (dcW d (2 + j)) 47 0
def dcLen (d : List Byte) : Nat := fld (dcW d 20) 39 0
def dcStep (d : List Byte) : Nat := fld (dcW d 21) 63 32

/-- Row 2 of R434. -/
def dcFormOk (d : List Byte) : Bool :=
  let n := dcK d + dcM d
  decide (fld (dcW d 0) 63 60 = 3) && decide (fld (dcW d 0) 51 48 = 0) && decide (fld (dcW d 1) 63 50 = 0) &&
  decide (fld (dcW d 1) 31 18 = 0) && ((List.range 18).all fun j => decide (fld (dcW d (2 + j)) 63 48 = 0)) &&
  ((List.range 18).all fun j => decide (j < n) || decide (dcPva d j = 0)) &&
  decide (fld (dcW d 20) 63 40 = 0) && decide (fld (dcW d 21) 31 0 = 0) && zeroAt d 176 80 &&
  decide (4 ≤ dcK d) && decide (dcK d ≤ 16) && decide (1 ≤ dcM d) && decide (dcM d ≤ 2) &&
  ((dcWant d ++ dcPresent d).all fun j => decide (j < n) && decide (dcPva d j ≠ 0)) &&
  (dcWant d).all fun j => !(dcPresent d).contains j

/-- The record answers for what is expected (R434). -/
def dcRecordOk (d r : List Byte) : Bool :=
  let w0 := fieldAt r 0 8
  let w1 := fieldAt r 8 8
  bitOf w0 7 && decide (fld w0 63 32 = dcStep d) && decide (fld w1 63 59 = dcK d) && decide (fld w1 58 57 = dcM d) &&
  decide (dcLen d = fld w1 31 0 * fieldAt r 16 4)

/-- The range of a wanted piece meets that of another given piece. -/
def dcOverlap (d : List Byte) : Bool :=
  (dcWant d).any fun i => (dcWant d ++ dcPresent d).any fun j => i != j && meets (dcPva d i) (dcLen d) (dcPva d j) (dcLen d)

/-- The checks of R434 after translation: the end of the packet, or none to start. -/
def dcCheck (d r : List Byte) : Option (Byte × Nat) :=
  if !dcFormOk d then some (Code.badParam, 0)
  else if dcLen d = 0 ∨ dcWant d = [] then some (Code.okEmpty, 0)
  else if (dcPresent d).length < dcK d then some (Code.peerLost, dcK d - (dcPresent d).length)
  else if dcVerify d && !dcRecordOk d r then some (Code.verify, 0)
  else if dcOverlap d then some (Code.overlap, 0)
  else none

/-- The descriptor is read, its pages are translated and it is checked; a decode that may start runs (R434). -/
def evDecode (s : State) (pid : Nat) (q : Pkt) : State :=
  match readVa s q.ctx (fld (q.w 1) 47 0) 256 with
  | (s, .inr c) => completePkt s pid c 0
  | (s, .inl d) =>
    match if dcVerify d then readVa s q.ctx (dcRecva d) 128 else (s, .inl []) with
    | (s, .inr c) => completePkt s pid c 0
    | (s, .inl r) =>
      let reach (js : List Nat) : List Nat := js.flatMap fun j => pageStarts (dcPva d j) (dcLen d)
      match xlate s q.ctx (reach (dcPresent d)) (reach (dcWant d)) with
      | (s, .err c _ _) => completePkt s pid c 0
      | (s, .ok xl) =>
        match dcCheck d r with
        | some (c, n) => completePkt s pid c (BitVec.ofNat 32 n)
        | none => { s with decodes := s.decodes ++ [⟨pid, q.ctx, d, r, xl⟩] }

/-- EV_DECODE (R434). -/
def execEvDecode (q : Nat) (s : State) : Res := .next (dispatch opEvDecode noneAbsent evDecode q s)

/-! ### The decode (R419, R433) -/

/-- XOR of a list of bytes given as numbers. -/
def xorAll (l : List Nat) : Nat := l.foldl (· ^^^ ·) 0

/-- The data bytes of one offset, from the pieces used: the bytes of present data pieces, and of P and Q if used. -/
def dcData (k : Nat) (have' : List Nat) (v : Nat → Nat) : List Nat :=
  let data := (List.range k).filter fun i => have'.contains i
  let lost := (List.range k).filter fun i => !have'.contains i
  let px := v k ^^^ xorAll (data.map v)
  let qx := v (k + 1) ^^^ xorAll (data.map fun i => gmul (gpow i) (v i))
  let solved : List (Nat × Nat) :=
    match lost with
    | [x] => [(x, if have'.contains k then px else gmul (ginv (gpow x)) qx)]
    | [x, y] =>
      let dx := gmul (ginv (gpow x ^^^ gpow y)) (qx ^^^ gmul (gpow y) px)
      [(x, dx), (y, px ^^^ dx)]
    | _ => []
  (List.range k).map fun i => match solved.find? fun p => p.1 == i with | some p => p.2 | none => v i

/-- Byte of piece j from the data bytes: P and Q are recomputed (R419). -/
def dcPiece (k j : Nat) (data : List Nat) : Nat :=
  if j < k then data.getD j 0
  else if j = k then xorAll data
  else xorAll ((List.range k).map fun i => gmul (gpow i) (data.getD i 0))

/-- Every byte a decode writes: (address, byte). -/
def dcWrites (s : State) (x : Decode) : List (Nat × Byte) :=
  let d := x.desc
  let k := dcK d
  let used := (dcPresent d).take k
  (List.range (dcLen d)).flatMap fun o =>
    let data := dcData k used fun j => (s.byte (viaXl x.xl (dcPva d j + o))).toNat
    (dcWant d).map fun j => (viaXl x.xl (dcPva d j + o), BitVec.ofNat 8 (dcPiece k j data))

/-- The device addresses of pieces. -/
def dcReach (x : Decode) (js : List Nat) : List Nat :=
  js.flatMap fun j => (upFrom (dcPva x.desc j) (dcLen x.desc)).map (viaXl x.xl)

/-- The lowest rebuilt data piece whose CRC differs from the record's. -/
def dcBadPiece (s : State) (x : Decode) : Option Nat :=
  (dcWant x.desc).find? fun j =>
    decide (j < dcK x.desc) &&
    decide ((crc32c ((upFrom (dcPva x.desc j) (dcLen x.desc)).map fun a => s.byte (viaXl x.xl a))).toNat ≠
      fieldAt x.rcd (32 + 4 * j) 4)

/-- A decode that has run ends: LASTCODE of both engines, and its packet (R434, R439). -/
def endDecode (s : State) (x : Decode) (code : Byte) (detail : Nat) : State :=
  let s := { s with ce0 := { s.ce0 with evLast := code }, ce1 := { s.ce1 with evLast := code } }
  completePkt s x.pid code (BitVec.ofNat 32 detail)

/-- A decode is carried out (R433, R434). Wanted pieces are undefined after an error (log 11). -/
def runDecode (s : State) (x : Decode) : State :=
  match readCheck s (dcReach x ((dcPresent x.desc).take (dcK x.desc))) with
  | (s, some c) => endDecode (scrambleAll s (dcReach x (dcWant x.desc))) x c 0
  | (s, none) =>
    match writeStop s (dcWrites s x) with
    | (s, some c) => endDecode (scrambleAll s (dcReach x (dcWant x.desc))) x c 0
    | (s, none) =>
      match if dcVerify x.desc then dcBadPiece s x else none with
      | some j => endDecode s x Code.verify j
      | none => endDecode s x Code.ok 0

/-- EV_DECODE_COMPLETE: the oldest decode finishes (R434). -/
def execEvDecodeComplete (s : State) : Res :=
  .next (match s.decodes with
    | x :: xs => runDecode { s with decodes := xs } x
    | [] => s)

/-! ### Checking (R438) -/

/-- The offset of the first byte at which two lists differ. -/
def firstDiff (a b : List Byte) : Option Nat := (List.range a.length).find? fun i => a.getD i 0 != b.getD i 0

/-- EV_CHECK compares two ranges. -/
def evCheck (s : State) (pid : Nat) (q : Pkt) : State :=
  let n := fld (q.w 3) 12 0
  let a := fld (q.w 1) 47 0
  let b := fld (q.w 2) 47 0
  match xlate s q.ctx (upFrom a n ++ upFrom b n) [] with
  | (s, .err c _ _) => completePkt s pid c 0
  | (s, .ok xl) =>
    match readCheck s ((upFrom a n ++ upFrom b n).map (viaXl xl)) with
    | (s, some c) => completePkt s pid c 0
    | (s, none) =>
      let at' (va : Nat) : List Byte := (upFrom va n).map fun x => s.byte (viaXl xl x)
      if 4096 < n then completePkt s pid Code.badParam 0
      else if n = 0 then completePkt s pid Code.okEmpty 0
      else match firstDiff (at' a) (at' b) with
        | some o => completePkt s pid Code.verify (BitVec.ofNat 32 o)
        | none => completePkt s pid Code.ok 0

/-- EV_CHECK (R438). -/
def execEvCheck (q : Nat) (s : State) : Res := .next (dispatch opEvCheck noneAbsent evCheck q s)

end Sys2Proof.Machine
end

