-- ==== Sys2Proof/Machine/Hbm.lean ====
section
/-! DEFINITION. Commands of the HBM controllers: requests, sharing, scrub, refresh and temperature (R322 to R337). -/

namespace Sys2Proof.Machine

/-! ### Sharing (R324, R325) -/

/-- Sectors served per window at the stack's level (R334). -/
def Stack.cap (x : Stack) : Nat := if x.tlevel = 0 then 51200 else if x.tlevel = 1 then 38400 else 25600

/-- Sectors of u share units (R324, R326: units shrink with the level). -/
def Stack.units (x : Stack) (u : Nat) : Nat := u * x.cap / 64

/-- The source's requests are priority requests (R325). -/
def Stack.isPrio (x : Stack) : HbmSource → Bool
  | .ctx n => x.ctxPrio.getLsbD n
  | .firmware => true
  | .repairCopier => true

/-- HRSVn.HELD of a source. -/
def Stack.heldBy (x : Stack) : HbmSource → Nat
  | .ctx n => (x.rsvOf n).held
  | _ => 0

/-- One sector served in the window: the class it is served in is counted (R324). -/
def Stack.serve (x : Stack) (src : HbmSource) : Stack :=
  let w := x.window
  let w := { w with total := w.total + 1 }
  if x.isPrio src && decide (w.prio < x.units (min x.bound.toNat 16)) then { x with window := { w with prio := w.prio + 1 } }
  else match src with
    | .ctx n =>
      if look 0 n w.resv < x.units (x.rsvOf n).held then { x with window := { w with resv := put 0 n (look 0 n w.resv + 1) w.resv } }
      else { x with window := w }
    | _ => { x with window := w }

/-! ### Requests (R329, R330, R335, R338) -/

/-- A request is carried out and its response latched. -/
def runReq (s : State) (k : Nat) : HbmReq → State
  | .read off =>
    match readSector s k (off / 32) 1 with
    | (s, some e) => s.modStack k fun x => { x with rsp := ⟨e, []⟩ }
    | (s, none) => s.modStack k fun x => { x with rsp := ⟨Code.ok, s.bytes (hbmPa k (off / 32 * 32)) 32⟩ }
  | .write off start bytes =>
    match writeSector s k (off / 32) (decide (bytes.length = 32)) with
    | (s, true) =>
      (s.poke (hbmPa k (off / 32 * 32 + start)) bytes).modStack k fun x => { x with rsp := ⟨Code.ok, []⟩ }
    | (s, false) => s.modStack k fun x => { x with rsp := ⟨Code.eccUncorr, []⟩ }

def HbmReq.off : HbmReq → Nat
  | .read off => off
  | .write off _ _ => off

/-- The request names one populated sector, and some of its bytes. -/
def HbmReq.ok (x : Stack) : HbmReq → Bool
  | .read off => decide (off % 32 = 0) && decide (off < x.size)
  | .write off start bytes =>
    decide (off % 32 = 0) && decide (off < x.size) && decide (0 < bytes.length) && decide (start + bytes.length ≤ 32)

/-- The place of a source in the round robin (R324, which names no order of the ring): contexts by number, firmware,
the copier (log 108). -/
def ringOf : HbmSource → Nat
  | .ctx n => n
  | .firmware => 32
  | .repairCopier => 33

/-- The class in which a sector for a source would be served now: 0 priority, 1 reserved, 2 normal (R324). -/
def Stack.classOf (x : Stack) (src : HbmSource) : Nat :=
  if x.isPrio src && decide (x.window.prio < x.units (min x.bound.toNat 16)) then 0
  else match src with
    | .ctx n => if look 0 n x.window.resv < x.units (x.rsvOf n).held then 1 else 2
    | _ => 2

/-- The oldest waiting request of each source: those of one source keep their order (R20, R324). -/
def Stack.heads (x : Stack) : List HbmWait :=
  x.waiting.foldl (fun l w => if l.any fun v => decide (v.src = w.src) then l else l ++ [w]) []

/-- The source that comes first after the one served last (R324). -/
def roundRobin (last : Nat) (l : List HbmWait) : Option HbmWait :=
  let dist (w : HbmWait) : Nat := (ringOf w.src + 33 - last % 34) % 34
  l.foldl (fun best w => match best with
    | none => some w
    | some b => if dist w < dist b then some w else some b) none

/-- The request to serve next: priority requests and normal ones round robin over the sources, reserved ones by age
(R324, log 108). -/
def Stack.pick (x : Stack) : Option HbmWait :=
  let of (c : Nat) : List HbmWait := x.heads.filter fun w => decide (x.classOf w.src = c)
  match roundRobin x.lastPrio (of 0) with
  | some w => some w
  | none =>
    match of 1 with
    | w :: _ => some w
    | [] => roundRobin x.lastNorm (of 2)

/-- A sector for a source is served: its class counts it, and the round robin goes on from there (R324). -/
def Stack.take (x : Stack) (src : HbmSource) : Stack :=
  let c := x.classOf src
  { x.serve src with lastPrio := if c = 0 then ringOf src else x.lastPrio, lastNorm := if c = 2 then ringOf src else x.lastNorm }

/-- A request joins the queue of a pseudo-channel in training, or is held in the fabric when 256 wait there (R338). -/
def Stack.enqueue (x : Stack) (p : Nat) (w : HbmWait) : Stack :=
  let q := x.pc p
  if q.queue.length < 256 then x.setPc p { q with queue := q.queue ++ [w] } else { x with fabric := x.fabric ++ [w] }

/-- Waiting requests are served while the window has sectors left; one for a pseudo-channel that now trains joins that
queue (R324, R334, R338). -/
def serveWaiting : Nat → State → Nat → State
  | 0, s, _ => s
  | fuel + 1, s, k =>
    let x := s.stack k
    if x.cap ≤ x.window.total then s
    else match x.pick with
      | none => s
      | some w =>
        let x := { x with waiting := x.waiting.erase w }
        if x.training = some (x.home w.req.off) then serveWaiting fuel (s.setStack k (x.enqueue (x.home w.req.off) w)) k
        else serveWaiting fuel (runReq (s.setStack k (x.take w.src)) k w.req) k

/-- Waiting requests of a stack are served as far as its window allows. -/
def serveAll (s : State) (k : Nat) : State := serveWaiting (s.stack k).waiting.length s k

/-- A request that the controller accepts: one for a pseudo-channel in training waits in its queue, one that finds
others waiting or the window spent waits for its class, any other is served (R324, R334, R338). -/
def acceptReq (s : State) (k : Nat) (w : HbmWait) : State :=
  let x := s.stack k
  if x.training = some (x.home w.req.off) then s.setStack k (x.enqueue (x.home w.req.off) w)
  else if x.waiting.isEmpty && decide (x.window.total < x.cap) then runReq (s.setStack k (x.take w.src)) k w.req
  else serveAll (s.setStack k { x with waiting := x.waiting ++ [w] }) k

/-- A new request reaches the controller: a closed or closing stack answers an error; one whose source already has a
request held in the fabric is held behind it (R20, R335, R338). -/
def request (s : State) (k : Nat) (src : HbmSource) (r : HbmReq) : State :=
  let x := s.stack k
  if !s.hasStack k || !r.ok x then s
  else match x.gate with
    | some e => s.setStack k { x with rsp := ⟨e, []⟩ }
    | none =>
      if x.fabric.any fun w => decide (w.src = src) then s.setStack k { x with fabric := x.fabric ++ [⟨src, r⟩] }
      else acceptReq s k ⟨src, r⟩

/-- The fabric offers the requests it holds again, in their order (R20, R338). -/
def releaseFabric (s : State) (k : Nat) : State :=
  let held := (s.stack k).fabric
  held.foldl (fun s w => request s k w.src w.req) (s.modStack k fun x => { x with fabric := [] })

/-- HBM_SECTOR_READ (R329): what befalls the sector comes before the read. -/
def execHbmSectorRead (k off : Nat) (rd : SectorRead) (s : State) : Res :=
  .next (
    if s.powered && s.hasStack k && (HbmReq.read off).ok (s.stack k) then
      request (strikeSector s k (off / 32) rd.strike) k rd.src (.read off)
    else s)

/-- HBM_SECTOR_WRITE (R330). -/
def execHbmSectorWrite (k off : Nat) (src : HbmSource) (bytes : List Byte) (start : Nat) (s : State) : Res :=
  .next (if s.powered then request s k src (.write off start bytes) else s)

/-- HBM_SHARE_WINDOW (R324). -/
def execHbmShareWindow (k : Nat) (s : State) : Res :=
  .next (if s.hasStack k then serveAll (s.modStack k fun x => { x with window := ⟨0, [], 0⟩ }) k else s)

/-! ### Scrub and refresh (R331, R332) -/

/-- The controller scrubs the sector at its pointer. -/
def scrub (s : State) (k : Nat) : State :=
  let x := s.stack k
  let sec := x.scrubPtr
  let s := s.setStack k { x with scrubPtr := if (sec + 1) * 32 < x.size then sec + 1 else 0,
                                 window := { x.window with total := x.window.total + 1 } }
  match readSector s k sec 3 with
  | (s, none) => s.modStack k fun y => { y with soft := y.soft.del sec }
  | (s, some _) =>
    if (x.isLost sec || x.uncorr.has sec) && !x.isPoisoned sec then
      s.modStack k fun y => { y with poison := y.poison.add sec, uncorr := y.uncorr.del sec }
    else s

/-- HBM_SCRUB_READ (R331): on an open stack, when scrub is enabled and the sector's pseudo-channel is not in training. -/
def execHbmScrubRead (k : Nat) (s : State) : Res :=
  let x := s.stack k
  .next (if s.hasStack k && decide (x.state = .opened) && !x.closing && decide (x.scrubH ≠ 0) &&
      decide (x.training ≠ some (x.home (x.scrubPtr * 32))) && decide (x.window.total < x.cap)
    then scrub s k else s)

/-- HBM_REFRESH (R332): timing only. -/
def execHbmRefresh (_ _ _ : Nat) (s : State) : Res := .next s

/-! ### Temperature (R333 to R337) -/

/-- The threshold at which a level is entered. -/
def Stack.threshold (x : Stack) (l : Nat) : Nat :=
  if l = 1 then x.warm.toNat else if l = 2 then x.hot.toNat else x.crit.toNat

/-- The level a sample falls to, from level l down (R334). -/
def Stack.fallTo (x : Stack) (t : Nat) : Nat → Nat
  | 0 => 0
  | l + 1 => if t + x.hyst.toNat < x.threshold (l + 1) then x.fallTo t l else l + 1

/-- The level after a sample: risen to the highest threshold reached, else fallen (R334). -/
def Stack.levelAfter (x : Stack) (t : Nat) : Nat :=
  let up := if x.crit.toNat ≤ t then 3 else if x.hot.toNat ≤ t then 2 else if x.warm.toNat ≤ t then 1 else 0
  if x.tlevel ≤ up then up else x.fallTo t x.tlevel

/-- A stack starts to close (R335 steps 1 to 3). A request still held in the fabric has not been accepted and meets the
closed stack. -/
def startClosing (s : State) (k : Nat) : State :=
  let s := s.modStack k fun x =>
    { x with closing := true, tlevel := 3, fabric := [], rsp := if x.fabric.isEmpty then x.rsp else ⟨Code.thermal, []⟩ }
  abortStack (record s ⟨0x32, 2, .hbm, k, 0, Code.thermal, (s.stack k).temp.toNat, 0⟩) k

/-- A temperature as HTEMP holds it (R348). -/
def clampTemp (t : Int) : Nat := min t.toNat 255

/-- A successful readout (R333, R334). -/
def tempSample (s : State) (k t : Nat) : State :=
  let x := s.stack k
  let x1 := { x with seq := x.seq + 1, temp := BitVec.ofNat 8 t, tfail := false, readFails := 0 }
  if x.closing ∨ x.state = .closedThermal then s.setStack k x1
  else
    let l := x.levelAfter t
    let s := s.setStack k { x1 with tlevel := l }
    let s := if l = x.tlevel then s else record s ⟨0x30, 0, .hbm, k, 0, 0, t, l⟩
    if l = 3 ∧ x.state ≠ .closedFault then startClosing s k else s

/-- A failed readout; the third in a row holds the stack at hot (R333). -/
def tempMiss (s : State) (k : Nat) : State :=
  let x := s.stack k
  let n := x.readFails + 1
  let s := s.setStack k { x with readFails := min n 3 }
  if n = 3 then
    let s := s.modStack k fun x => { x with tfail := true, tlevel := if x.tlevel = 3 then 3 else 2 }
    record s ⟨0x31, 1, .hbm, k, 0, 0, 0, 0⟩
  else s

/-- HBM_TEMP_READOUT (R333). -/
def execHbmTempReadout (k : Nat) (reading : Option Int) (s : State) : Res :=
  .next (if !s.powered || !s.hasStack k then s
    else match reading with
      | some t => tempSample s k (clampTemp t)
      | none => tempMiss s k)

/-- STACK_CLOSED (R335 step 4): once no accepted request waits. -/
def execStackClosed (k : Nat) (s : State) : Res :=
  let x := s.stack k
  .next (if s.hasStack k && x.closing && x.waiting.isEmpty && x.pcs.all fun p => p.2.queue.isEmpty then
      s.setStack k { x with state := .closedThermal, closing := false }
    else s)

/-- CSR offset of a register of stack k (R345). -/
def stackCsr (k off : Nat) : Nat := 0x800000 + k * 0x10000 + off

/-- A stack that opens for the first time since reset: its pseudo-channels are trained and its spare band is applied
(R338, R340, R347). -/
def Stack.bring (x : Stack) (now : W64) : Stack :=
  if x.booted then { x with state := .opened }
  else
    let train (t : Table Pc) (j : Nat) := put .reset j { look .reset j t with lastTemp := x.temp.toNat, lastTime := now } t
    { x with state := .opened, spare := x.spareEn, booted := true, pcs := (List.range 64).foldl train x.pcs }

/-- HCTL.OPEN written 1 (R336, R349). While readouts fail the stack opens at hot, where R333 holds it; one that opens at
boot at or above CRIT closes at once (R334, R335). -/
def hctlOpen (s : State) (k : Nat) : State :=
  let x := s.stack k
  let byTemp := if x.warm.toNat ≤ x.temp.toNat then 1 else 0
  match x.state with
  | .down =>
    let l := if x.tfail then 2 else x.levelAfter x.temp.toNat
    let s := s.setStack k { x.bring s.tbtime with tlevel := l }
    if l = 3 then startClosing s k else s
  | .closedThermal =>
    if x.temp.toNat + x.hyst.toNat < x.hot.toNat then
      s.setStack k { x.bring s.tbtime with tlevel := if x.tfail then 2 else byTemp }
    else discardWrite s .hbm k (stackCsr k 0x48)
  | _ => discardWrite s .hbm k (stackCsr k 0x48)

/-- HCTL_OPEN (R336). -/
def execHctlOpen (k : Nat) (s : State) : Res := .next (if s.powered && s.hasStack k && !s.agg.safe then hctlOpen s k else s)

/-- HCTL.CLOSE written 1 (R349): an open stack closes as at critical. -/
def hctlClose (s : State) (k : Nat) : State :=
  if (s.stack k).state = .opened ∧ !(s.stack k).closing then startClosing s k else s

/-- HCTL_CLOSE (R349). -/
def execHctlClose (k : Nat) (s : State) : Res := .next (if s.hasStack k then hctlClose s k else s)

/-- A write of HTHERM (R337, R347): discarded as a whole unless WARM < HOT < CRIT holds after it. -/
def hthermWrite (s : State) (k : Nat) (val : W64) : State :=
  let x := s.stack k
  let v := val.toNat
  if x.thLock then s
  else if fld v 7 0 < fld v 15 8 ∧ fld v 15 8 < fld v 23 16 then
    s.setStack k { x with thLock := val.getLsbD 63, hyst := BitVec.ofNat 8 (fld v 31 24), crit := BitVec.ofNat 8 (fld v 23 16),
                          hot := BitVec.ofNat 8 (fld v 15 8), warm := BitVec.ofNat 8 (fld v 7 0) }
  else discardWrite s .hbm k (stackCsr k 0x10)

/-- HTHERM_WRITE (R337). -/
def execHthermWrite (k : Nat) (val : W64) (s : State) : Res := .next (if s.powered && s.hasStack k then hthermWrite s k val else s)

end Sys2Proof.Machine
end

