-- ==== Sys2Proof/Machine/HbmHost.lean ====
section
/-! DEFINITION. Reservations of HBM bandwidth (R326, R327). -/

namespace Sys2Proof.Machine

def rsvStack (p : Pkt) : Nat := fld (p.w 1) 2 0
def rsvUnits (p : Pkt) : Nat := fld (p.w 1) 13 8

/-- The stack named is absent (R323). -/
def stackAbsent (s : State) (p : Pkt) : Bool := !s.hasStack (rsvStack p)

/-- HRSVn of a stack changed. -/
def Stack.setRsv (x : Stack) (n : Nat) (r : Rsv) : Stack := { x with rsv := put .reset n r x.rsv }

/-- The checks of HBM_RESERVE, in order. -/
def hbmReserve (s : State) (pid : Nat) (p : Pkt) : State :=
  let k := rsvStack p
  let u := rsvUnits p
  let x := s.stack k
  let r := x.rsvOf p.ctx
  if 48 < u then completePkt s pid Code.badParam 0
  else if u = 0 then completePkt s pid Code.okEmpty 0
  else if r.limit < r.held + u then completePkt s pid Code.quota 0
  else if 48 < x.reserved + u then completePkt s pid Code.quota (BitVec.ofNat 32 (48 - x.reserved))
  else completePkt (s.setStack k (x.setRsv p.ctx { r with held := r.held + u })) pid Code.ok 0

/-- HBM_RESERVE (R326). -/
def execHbmReserve (q : Nat) (s : State) : Res := .next (dispatch opHbmReserve stackAbsent hbmReserve q s)

/-- The checks of HBM_RELEASE, in order. -/
def hbmRelease (s : State) (pid : Nat) (p : Pkt) : State :=
  let k := rsvStack p
  let u := rsvUnits p
  let x := s.stack k
  let r := x.rsvOf p.ctx
  if 48 < u then completePkt s pid Code.badParam 0
  else if u = 0 then completePkt s pid Code.okEmpty 0
  else if r.held < u then completePkt s pid Code.badParam 0
  else completePkt (s.setStack k (x.setRsv p.ctx { r with held := r.held - u })) pid Code.ok 0

/-- HBM_RELEASE (R326). -/
def execHbmRelease (q : Nat) (s : State) : Res := .next (dispatch opHbmRelease stackAbsent hbmRelease q s)

/-- A context's reservations are released on a stack, or on every stack (R327, R453). -/
def releaseHbm (s : State) (ctx k : Nat) : State :=
  s.modStack k fun x => x.setRsv ctx { x.rsvOf ctx with held := 0 }

end Sys2Proof.Machine
end

