-- ==== Sys2Proof/Machine/StreamEngine.lean ====
section
/-! DEFINITION. The stream engine: checks at the head of the queue, opening, landing, errors and posts (R169 to R174,
R199 to R210). -/

namespace Sys2Proof.Machine

/-! ### Completions -/

/-- Command e has ended: it leaves the queue or the running transfers, and POSTs that waited for it note an error
(R171). -/
def Core.seEnd (k : Core) (id : Nat) (failed landed : Bool) : Core :=
  let note (e : SeCmd) : SeCmd :=
    if e.waitFor.contains id then { e with waitFor := e.waitFor.filter (fun n => n != id), bad := e.bad || failed } else e
  let seen (w : CeWrite) : CeWrite := if landed then { w with waits := w.waits.filter (fun n => n != id) } else w
  { k with
    seq := (k.seq.filter fun e => e.id != id).map note
    running := k.running.filter fun t => t.id != id
    cecmd := k.cecmd.map seen }

/-- An SE command completes with a status: its post if it asks for one, or the report to its stream (R170, R171,
R243). -/
def seDone (s : State) (c id t : Nat) (w0 : W64) (code : Byte) : State :=
  let s := s.modCore c fun k => k.seEnd id (isErr code) (!isErr code)
  let s := decideHead s
  if isErr code then raise s c t ⟨code, 7, seOp w0, seLaddr w0, sePf w0⟩
  else if sePen w0 then post s (sePcore w0) (sePctr w0)
  else s

/-! ### The head of the queue (R170, R201) -/

/-- The command at the head. -/
def Core.seHead (k : Core) : Option SeCmd := k.seq.find? fun e => e.stage != .posting

/-- The stage of a queued command set. -/
def Core.setStage (k : Core) (id : Nat) (st : SeStage) : Core :=
  { k with seq := k.seq.map fun x => if x.id = id then { x with stage := st } else x }

/-- The checks of R170 before the descriptor's. -/
def seCheck (s : State) (w0 w1 : W64) : Option Byte :=
  let v := w0.toNat
  if seOp w0 = 0 ∨ 3 < seOp w0 then some Code.badCmd
  else if 5 < seWin w0 ∨ fld v 54 48 ≠ 0 ∨ fld v 39 38 ≠ 0 ∨ fld v 31 24 ≠ 0 ∨ fld w1.toNat 63 24 ≠ 0 ∨
      seLaddr w0 % 64 ≠ 0 ∨ seDesc w1 % 64 ≠ 0 ∨ (seOp w0 = 3 ∧ !sePen w0) then some Code.badParam
  else if sePen w0 && !s.hasCore (sePcore w0) then some Code.unsupported
  else none

/-- Near offsets of the elements a transfer reads or writes. -/
def Desc.nearElems (d : Desc) (load : Bool) (laddr : Nat) : List Nat :=
  if load then (d.loadPlan laddr).map (·.1) else (d.storePlan laddr).map (·.1)

/-- The checks of R201 on a descriptor that has been read; none: the transfer may open. -/
def descCheck (d : Desc) (load : Bool) (laddr : Nat) : Option Byte :=
  match (d.checkFar true).orElse fun _ => d.checkNear with
  | some e => some e
  | none =>
    if d.isEmpty then some Code.okEmpty
    else if load && d.pad == 0 && !d.inside then some Code.badParam
    else if !load && d.ownsNothing then some Code.okEmpty
    else if (d.nearElems load laddr).any fun o => decide (wsSize < o + d.esize) then some Code.xlate
    else none

/-- A command of opcode op at the head that has not been checked: `f` is what follows. -/
def seStep (s : State) (c : Nat) (sel : Nat → Bool) (f : Core → SeCmd → State) : State :=
  let k := s.core c
  match k.seHead with
  | some e => if s.coreRuns c && e.stage == .queued && sel (seOp e.w0) then f k e else s
  | none => s

/-- A transfer's check at the head. Its descriptor is read once the stream's earlier stores have completed (R200). -/
def seTransfer (s : State) (c : Nat) (load : Bool) (k : Core) (e : SeCmd) : State :=
  let off := seDesc e.w1
  let fail (s : State) (code : Byte) : State := seDone s c e.id e.stream e.w0 code
  match seCheck s e.w0 e.w1 with
  | some code => fail s code
  | none =>
    if wsSize < off + 128 then fail s Code.xlate
    else if k.drainWaits e.stream e.id then s
    else match wsCheck s c off 128 with
      | (s, some code) => fail s code
      | (s, none) =>
        let bs := s.ws c off 128
        match descCheck (descOf bs) load (seLaddr e.w0) with
        | some code => fail s code
        | none => s.modCore c fun k => k.setStage e.id (.checked bs)

/-- SE_LOAD: a LOAD at the head is checked against its descriptor (R170). -/
def execSeLoad (c : Nat) (s : State) : Res := .next (seStep s c (· == 1) (seTransfer s c true))

/-- SE_STORE: a STORE at the head is checked against its descriptor (R170). -/
def execSeStore (c : Nat) (s : State) : Res := .next (seStep s c (· == 2) (seTransfer s c false))

/-- SE_POST: a POST at the head is checked; it takes no slot and no window, and waits for earlier transfers
(R171, R173). -/
def execSePost (c : Nat) (s : State) : Res :=
  .next (seStep s c (· == 3) fun k e =>
    match seCheck s e.w0 e.w1 with
    | some code => seDone s c e.id e.stream e.w0 code
    | none => s.setCore c (k.setStage e.id .posting))

/-- An opcode not listed completes with E_BADCMD (R170). -/
def execUnlistedSeOpcode (c : Nat) (s : State) : Res :=
  .next (seStep s c (fun o => o == 0 || decide (3 < o)) fun _ e => seDone s c e.id e.stream e.w0 Code.badCmd)

/-- POST_COMPLETE: the oldest POST whose earlier transfers have all ended posts its token with OK, or completes with
E_ABORTED (R171). -/
def execPostComplete (c : Nat) (s : State) : Res :=
  .next (match (s.core c).seq.find? fun e => e.stage == .posting && e.waitFor.isEmpty with
    | some e =>
      if s.coreRuns c then seDone s c e.id e.stream e.w0 (if e.bad then Code.aborted else Code.ok) else s
    | none => s)

/-! ### Opening (R172, R173, R204, R210, R486) -/

/-- The far hull (R210). -/
def Desc.farHull (d : Desc) (load : Bool) (laddr : Nat) : Option (Nat × Nat) :=
  hull (if load then d.loadReads laddr else d.storeWrites laddr)

/-- The near range (R210). -/
def Desc.nearRange (d : Desc) (load : Bool) (laddr : Nat) : Option (Nat × Nat) :=
  hull ((d.nearElems load laddr).flatMap fun o => [o, o + d.esize - 1])

/-- Two transfers conflict (R210). -/
def transfersConflict (w0 : W64) (d : Desc) (w0' : W64) (d' : Desc) : Bool :=
  let ld := seOp w0 == 1
  let ld' := seOp w0' == 1
  ((!ld || !ld') && hullsMeet (d.farHull ld (seLaddr w0)) (d'.farHull ld' (seLaddr w0'))) ||
  ((ld || ld') && hullsMeet (d.nearRange ld (seLaddr w0)) (d'.nearRange ld' (seLaddr w0')))

/-- Burst units an opening transfer books: at most 8 over the engine, and no more than the grant leaves (R483, R486). -/
def Core.burstUnits (k : Core) : Nat := min (8 - (k.running.map fun t => if t.tail then 0 else t.burst).sum) k.unbooked

/-- Working-store words a store reads. -/
def storeWords (c : Nat) (d : Desc) (laddr : Nat) : List Nat :=
  ((d.storePlan laddr).flatMap fun p => wsWords c p.1 d.esize).eraseDups

/-- The near bytes of a store, by working-store offset. -/
def storeData (s : State) (c : Nat) (d : Desc) (laddr : Nat) : Table Byte :=
  putAll 0 ((d.storePlan laddr).flatMap fun p => (upFrom p.1 d.esize).map fun o => (o, s.byte (wsPa c o))) []

/-- How many elements of a store can be read before the first word that cannot. -/
def storeAvail (s : State) (c : Nat) (d : Desc) (laddr : Nat) : Nat :=
  ((d.storePlan laddr).takeWhile fun p => (wsWords c p.1 d.esize).all fun i => !s.wsBad.has i).length

/-- A checked command takes a slot and its window; every page is translated first (R204), and a store reads its near
bytes. A word that cannot be read stops the store, whose bytes already written stay (R168). -/
def openTransfer (s : State) (c : Nat) (k : Core) (e : SeCmd) (bs : List Byte) : State :=
  let d := descOf bs
  let laddr := seLaddr e.w0
  let load := seOp e.w0 == 1
  let n := k.ctx.getD 0
  match xlate s n (if load then d.loadReads laddr else []) (if load then [] else d.storeWrites laddr) with
  | (s, .err code level va) =>
    let s := s.modCore c fun k => { k with xflt := xfltWord code 0 level va }
    seDone s c e.id e.stream e.w0 code
  | (s, .ok xl) =>
    let r := if load then (s, none) else readWords s c (storeWords c d laddr)
    let s := r.1
    s.modCore c fun k =>
      { k with
        seq := k.seq.filter fun x => x.id != e.id
        running := k.running ++
          [⟨e.id, e.stream, e.w0, e.w1, bs, xl, if load then [] else storeData s c d laddr,
            if load then 0 else storeAvail s c d laddr, r.2, k.burstUnits, false⟩] }

/-- TRANSFER_OPEN: the head command opens when a slot and its whole window are free and no running transfer conflicts
(R173, R210). -/
def execTransferOpen (c : Nat) (s : State) : Res :=
  let k := s.core c
  .next (match k.seHead with
    | some e =>
      match e.stage with
      | .checked bs =>
        if s.coreRuns c && decide (k.running.length < 32) && decide (k.blocks + 2 ^ seWin e.w0 ≤ 64) &&
            !(k.running.any fun t => transfersConflict e.w0 (descOf bs) t.w0 (descOf t.desc)) then
          openTransfer s c k e bs
        else s
      | _ => s
    | none => s)

/-! ### Landing (R171, R199, R207 to R209) -/

/-- What a running transfer reads while data moves, and the first error it meets: a load its far bytes, a store its near
bytes, which it read when it opened (R168, R329). -/
def transferReads (s : State) (t : Transfer) : State × Option Byte :=
  if seOp t.w0 = 1 then readCheck s (loadSources (descOf t.desc) (seLaddr t.w0) t.xl) else (s, t.stop)

/-- Everything a running transfer reads and writes, and the first error it meets. -/
def landing (s : State) (c : Nat) (t : Transfer) : State × Option Byte :=
  match transferReads s t with
  | (s, some e) => (s, some e)
  | (s, none) => writeStop s (transferMoves s c t)

/-- The running transfer of a number. -/
def Core.transfer (k : Core) (id : Nat) : Option Transfer := k.running.find? fun t => t.id == id

/-- TRANSFER_LANDED: every byte of the transfer is in place; its slot, window and burst units are released, and its post
is made (R171, R173, R183, R486). -/
def execTransferLanded (c id : Nat) (s : State) : Res :=
  .next (match (s.core c).transfer id with
    | some t =>
      if s.coreRuns c then
        match landing s c t with
        | (s', none) => (seDone s' c id t.stream t.w0 Code.ok).tally 0 0x08 c 0 (transferMoves s c t).length
        | (_, some _) => s
      else s
    | none => s)

/-- TRANSFER_ERROR: an error met while data moves stops the transfer, which completes with it (R170). Where a read meets
it, `moved` of the sectors it can write have been written; where a write meets it, the requests up to that one (R31,
R330, R573, log 22). -/
def execTransferError (c id moved : Nat) (s : State) : Res :=
  .next (match (s.core c).transfer id with
    | some t =>
      if s.coreRuns c && (landing s c t).2.isSome then
        match transferReads s t with
        | (s', some e) => seDone (writeStop s' (firstSectors moved (stoppedMoves s c t))).1 c id t.stream t.w0 e
        | (s', none) =>
          let r := writeStop s' (transferMoves s c t)
          seDone r.1 c id t.stream t.w0 (r.2.getD Code.ok)
      else s
    | none => s)

end Sys2Proof.Machine
end

