-- ==== Sys2Proof/Machine/Launch.lean ====
section
/-! DEFINITION. Launching a program on a core (R221 to R228, R481, R490, R521). -/

namespace Sys2Proof.Machine

/-- The first 192 bytes of a program image: header words and segment entries (R221). -/
structure Image where
  h : List Nat
  e : List Nat
  deriving DecidableEq, Repr

def imageOf (bs : List Byte) : Image :=
  let w := (List.range 24).map fun i => fieldAt bs (8 * i) 8
  ⟨w.take 8, w.drop 8⟩

def Image.hw (x : Image) (i : Nat) : Nat := x.h.getD i 0
def Image.codeLen (x : Image) : Nat := fld (x.hw 1) 14 0
def Image.nseg (x : Image) : Nat := fld (x.hw 5) 3 0
def Image.cfg (x : Image) : Nat := x.hw 4
def Image.entry (x : Image) (t : Nat) : Nat := fld (x.hw 2) (63 - 14 * t) (50 - 14 * t)
def Image.xvec (x : Image) (t : Nat) : Nat := fld (x.hw 3) (63 - 14 * t) (50 - 14 * t)

/-- A segment: offset in the image, working-store offset, length (R224). -/
structure Segment where
  soff : Nat
  wsoff : Nat
  len : Nat
  deriving DecidableEq, Repr

def Image.seg (x : Image) (k : Nat) : Segment :=
  let a := x.e.getD (2 * k) 0
  let b := x.e.getD (2 * k + 1) 0
  ⟨fld a 31 0, fld b 47 24, fld b 23 0⟩

/-- The segments used, in entry order. -/
def Image.segs (x : Image) : List Segment := (List.range x.nseg).map x.seg

/-- Reserved fields of the header, of CONFIG and of the segment entries are zero (R221 to R224). -/
def Image.reservedZero (x : Image) : Bool :=
  fld (x.hw 0) 15 0 == 0 && fld (x.hw 1) 39 15 == 0 && fld (x.hw 2) 21 0 == 0 && fld (x.hw 3) 21 0 == 0 &&
  fld (x.hw 5) 63 4 == 0 && x.hw 6 == 0 && x.hw 7 == 0 && fld x.cfg 63 25 == 0 && fld x.cfg 15 9 == 0 &&
  (List.range 8).all fun k =>
    if k < x.nseg then fld (x.e.getD (2 * k) 0) 63 32 == 0 && fld (x.e.getD (2 * k + 1) 0) 63 48 == 0
    else x.e.getD (2 * k) 0 == 0 && x.e.getD (2 * k + 1) 0 == 0

/-- A required width is met by a field of ARRAY_COLS (R225). -/
def widthOk (req have' : Nat) : Bool := req == 0 || req == have'

def Image.widths (x : Image) (m : Mxa) : Bool :=
  widthOk (fld (x.hw 1) 63 56) (m.westCols + m.eastCols) && widthOk (fld (x.hw 1) 55 48) m.westCols &&
  widthOk (fld (x.hw 1) 47 40) m.eastCols

/-- The checks of R225 after the reading of the image, in order. -/
def Image.check (x : Image) (k : Core) : Option Byte :=
  let streams := fld x.cfg 2 0
  if fld (x.hw 0) 63 32 ≠ 0x8160C0DE ∨ fld (x.hw 0) 31 24 ≠ 1 ∨ fld stepping.toNat 15 8 < fld (x.hw 0) 23 16 then
    some Code.badParam
  else if !x.reservedZero ∨ x.codeLen = 0 ∨ 16384 < x.codeLen ∨ 8 < x.nseg ∨ streams = 0 ∨ fld x.cfg 5 4 = 3 ∨
      fld x.cfg 7 6 = 3 ∨ (bitOf x.cfg 8 ∧ fld x.cfg 24 16 = 0) then some Code.badParam
  else if [0, 1, 2].any fun t => bitOf streams t && (decide (x.codeLen ≤ x.entry t) || decide (x.codeLen ≤ x.xvec t)) then
    some Code.badParam
  else if x.segs.any fun g => decide (g.soff % 64 ≠ 0) || decide (g.wsoff % 64 ≠ 0) || decide (g.len % 64 ≠ 0) ||
      decide (g.soff < 192 + 8 * x.codeLen) || decide (wsSize < g.wsoff + g.len) then some Code.badParam
  else if !x.widths k.mxa0 ∨ !x.widths k.mxa1 then some Code.arrayFault
  else none

/-! ### Clearing (R226) -/

def Mxa.clear (m : Mxa) : Mxa :=
  { m with acc := [], accInt := [], accBad := [], poison := [], asrKey := 0, asrTag := 0,
           west := { m.west with aflt := afltReset }, east := { m.east with aflt := afltReset } }

def Ve.clear (x : Ve) : Ve :=
  { x with v := [], bad := [], p := [], vflt := 0, keyRng := 0, keySr := 0, slots := [], sfBad := [], sfSoft := [],
           bankSel := 0, rsu := [] }

def Core.clear (k : Core) : Core :=
  { k with astat := 0, mxa0 := k.mxa0.clear, mxa1 := k.mxa1.clear, ve0 := k.ve0.clear, ve1 := k.ve1.clear, m := [],
           mstat := 0, tc := [], gnf := 0, ugsts := 0, skipcnt := 0, db := [], dbPend := [], xflt := 0, cpLast := 0 }

/-- What a launch in another context than the previous program's clears (R226). -/
def clearCore (s : State) (c : Nat) : State :=
  let lo := wsPa c 0
  let s := s.modCore c Core.clear
  { s with mem := s.mem.filter fun p => decide (p.1 < lo) || decide (lo + wsSize ≤ p.1)
           wsBad := s.wsBad.clearRange (lo / 8) (wsSize / 8), wsSoft := s.wsSoft.clearRange (lo / 8) (wsSize / 8) }

/-- The fences of a core's arrays are lifted as AACK lifts them: a failed self-test is answered (R227 step 4, R520). -/
def State.answerTests (s : State) (c : Nat) : State :=
  (upFrom (testKey c 0 0) 4).foldl (fun s key =>
    { s with agg := { s.agg with
        tests := put .reset key { look .reset key s.agg.tests with failNext := false } s.agg.tests } }) s

/-- The fences are lifted as AACK does, and the mode is set as MODE does (R227 step 4). -/
def Mxa.prepare (m : Mxa) (split : Bool) : Mxa :=
  { m with west := m.west.unfence, east := m.east.unfence }.setMode split

/-! ### Loading and starting (R227 steps 5 and 6, R228, R235) -/

/-- The context addresses the copy reads. -/
def Image.reads (x : Image) (va : Nat) : List Nat :=
  upFrom (va + 192) (8 * x.codeLen) ++ x.segs.flatMap fun g => upFrom (va + g.soff) g.len

/-- Bytes at context addresses under translations made. -/
def vaBytes (s : State) (xl : Table Nat) (va n : Nat) : List Byte := (upFrom va n).map fun a => s.byte (viaXl xl a)

/-- The code words of an image. -/
def Image.code (x : Image) (s : State) (xl : Table Nat) (va : Nat) : List W64 :=
  (List.range x.codeLen).map fun i => BitVec.ofNat 64 (leNat (vaBytes s xl (va + 192 + 8 * i) 8))

/-- The segments' bytes, later segments last (R224). -/
def Image.data (x : Image) (s : State) (c : Nat) (xl : Table Nat) (va : Nat) : List (Nat × Byte) :=
  x.segs.flatMap fun g => pairs (wsPa c g.wsoff) (vaBytes s xl (va + g.soff) g.len)

/-- A failed copy leaves the instruction store and the segments' bytes undefined (R227 step 5). -/
def undefinedLoad (s : State) (c : Nat) (x : Image) : State :=
  let ws := (List.range x.codeLen).map fun i => BitVec.ofNat 64 (Config.freeNat (s.free + i))
  let s := { s with free := s.free + x.codeLen }.modCore c fun k => { k with code := putRange 0 0 ws k.code, codeLen := 0 }
  x.segs.foldl (fun s g => scramble s (wsPa c g.wsoff) g.len) s

/-- Stream t as it starts (R228), as it waits for its turn (R235), or as it is not named. -/
def Stream.launch (x : Stream) (c t : Nat) (arg : W64) (im : Image) : Stream :=
  let streams := fld im.cfg 2 0
  if bitOf streams t then
    let turn := !bitOf im.cfg 3 || (List.range t).all fun u => !bitOf streams u
    { Stream.reset with
      st := if turn then .run else .wait
      pc := im.entry t
      s := putAll 0 [(1, BitVec.ofNat 64 c), (2, BitVec.ofNat 64 t), (3, arg)] [] }
  else { x with st := .idle, sexc := 0 }

/-- The loaded program starts, and its watchdog (R227 step 6). -/
def Core.start (k : Core) (now : W64) (c : Nat) (lr : LaunchReq) (im : Image) (code : List W64) : Core :=
  { k with
    beat := 0, halted := false, wdStart := now, wdExc := none, cfg := BitVec.ofNat 64 im.cfg, csRetired := false, lreq := .notSent
    code := putRange 0 0 code k.code, codeBad := k.codeBad.clearRange 0 im.codeLen, codeLen := im.codeLen
    xvec := putAll 0 ([0, 1, 2].map fun t => (t, im.xvec t)) []
    entry := putAll 0 ([0, 1, 2].map fun t => (t, im.entry t)) []
    prog := some ⟨lr.pid, lr.ctx, lr.arg⟩
    f := k.f.launch c 0 lr.arg im, b := k.b.launch c 1 lr.arg im, u := k.u.launch c 2 lr.arg im }

/-- Steps 3 to 6 of R227 for a launch that has passed its checks. -/
def loadProgram (s : State) (c : Nat) (lr : LaunchReq) (im : Image) : State :=
  let s := if (s.core c).prevCtx = some lr.ctx then s else clearCore s c
  let split := fld im.cfg 7 6 == 2
  let s := (s.answerTests c).modCore c fun k =>
    { k with mxa0 := k.mxa0.prepare split, mxa1 := k.mxa1.prepare split, prevCtx := some lr.ctx }
  match xlate s lr.ctx (im.reads lr.va) [] with
  | (s, .err code level va) =>
    let s := s.modCore c fun k => { k with xflt := xfltWord code 0 level va }
    launchEnded (undefinedLoad s c im) lr.pid c code 0
  | (s, .ok xl) =>
    match readCheck s ((im.reads lr.va).map (viaXl xl)) with
    | (s, some code) => launchEnded (undefinedLoad s c im) lr.pid c code 0
    | (s, none) =>
      let code := im.code s xl lr.va
      let s := (writeCheck s (im.data s c xl lr.va)).1
      s.modCore c fun k => k.start s.tbtime c lr im code

/-- Step 2 of R227: pending writes take effect, the image is read and checked. -/
def checkLaunch (s : State) (c : Nat) (lr : LaunchReq) : State :=
  let s := s.modCore c Core.applyPending
  let fail (s : State) (code : Byte) : State := launchEnded s lr.pid c code 0
  match xlate s lr.ctx (upFrom lr.va 192) [] with
  | (s, .err code _ _) => fail s code
  | (s, .ok xl) =>
    match readCheck s ((upFrom lr.va 192).map (viaXl xl)) with
    | (s, some code) => fail s code
    | (s, none) =>
      let im := imageOf (vaBytes s xl lr.va 192)
      match im.check (s.core c) with
      | some code => fail s code
      | none => loadProgram s c lr im

/-- A park of the die has started (R490). -/
def State.parking (s : State) (d : Nat) : Bool :=
  match look [] d s.power.parks with
  | p :: _ => p.park
  | [] => false

/-- Every array queue of the core is empty, and every accepted vector word has issued (R76, R186, R227 step 4). -/
def Core.arraysIdle (k : Core) : Bool :=
  k.mxa0.west.queue.isEmpty && k.mxa0.east.queue.isEmpty && k.mxa1.west.queue.isEmpty && k.mxa1.east.queue.isEmpty &&
  k.accWords.isEmpty

/-- CORE_LAUNCH: the oldest launch that has reached the core is carried out once no program runs there (R227). On a die
that is parked, or that a park has started on, it completes at once with E_BADPARAM (R481, R490); on a tripped die with
E_THERMAL; on a core out of service with E_ABORTED; during a core test it waits (R521). -/
def execCoreLaunch (c : Nat) (s : State) : Res :=
  let k := s.core c
  .next (match k.launches with
    | [] => s
    | lr :: ls =>
      let s' := s.setCore c { k with launches := ls }
      let d := dieOf c
      if !s.hasCore c || s.agg.safe then s
      else if s.dieState d = .parked ∨ s.parking d then launchEnded s' lr.pid c Code.badParam 0
      else if s.agg.oos.has c then launchEnded s' lr.pid c Code.aborted 0
      else if k.prog.isSome ∨ s.agg.tst.has c then s
      else if s.dieState d = .tripped then launchEnded s' lr.pid c Code.thermal 0
      else if !k.arraysIdle then s
      else checkLaunch s' c lr)

end Sys2Proof.Machine
end

