-- ==== Sys2Proof/Machine/Pxp.lean ====
section
/-! DEFINITION. The pixel post-processor: concealment, selection, crop, resize, colour and normalisation (R283 to R292). -/

namespace Sys2Proof.Machine

open Sys2Proof.Config (Picture StreamInfo)

/-! ### The recipe (R285) -/

/-- Word i of a recipe. -/
def rcW (r : List Byte) (i : Nat) : Nat := fieldAt r (8 * i) 8
def rcField (r : List Byte) : Nat := fld (rcW r 0) 63 62
def rcFilter (r : List Byte) : Nat := fld (rcW r 0) 61 59
def rcMatrix (r : List Byte) : Nat := fld (rcW r 0) 58 57
def rcRange (r : List Byte) : Nat := fld (rcW r 0) 56 55
def rcYcc (r : List Byte) : Bool := bitOf (rcW r 0) 54
def rcPlanar (r : List Byte) : Bool := bitOf (rcW r 0) 53
def rcOfmt (r : List Byte) : Nat := fld (rcW r 0) 52 50
def rcOutw (r : List Byte) : Nat := fld (rcW r 0) 31 16
def rcOuth (r : List Byte) : Nat := fld (rcW r 0) 15 0
def rcFill (r : List Byte) : Nat := fld (rcW r 1) 63 32
def rcMean (r : List Byte) (c : Nat) : Nat := fld (rcW r (2 + c)) 63 32
def rcScale (r : List Byte) (c : Nat) : Nat := fld (rcW r (2 + c)) 31 0

/-- The recipe passes R285. -/
def recipeOk (r : List Byte) : Bool :=
  decide (rcField r ≠ 3) && decide (rcFilter r ≤ 4) && decide (rcRange r ≠ 3) && decide (rcOfmt r ≤ 3) &&
  decide (1 ≤ rcOutw r) && decide (rcOutw r ≤ 8192) && decide (1 ≤ rcOuth r) && decide (rcOuth r ≤ 8192) &&
  decide (fld (rcW r 0) 49 32 = 0) && decide (fld (rcW r 1) 31 0 = 0) && zeroAt r 40 88

/-- The output format, and its bytes. -/
def outFmt (r : List Byte) : Fmt := [fmtFP32, fmtBF16, fmtFP16, fmtE4M3].getD (rcOfmt r) fmtFP32
def outBytes (r : List Byte) : Nat := [4, 2, 2, 1].getD (rcOfmt r) 4

/-- An FP32 value as an output element: RNE, SAT = 1 (R286). -/
def outElem (r : List Byte) (x : FVal) : List Byte := leBytes (outBytes r) ((outFmt r).convert .rne true x).bits

/-- FILL as an output element (R292). -/
def fillElem (r : List Byte) : List Byte := outElem r (fmtFP32.decode (rcFill r))

/-! ### Planes -/

/-- A plane of samples. -/
structure Plane where
  w : Nat
  h : Nat
  px : List Nat
  deriving DecidableEq, Repr

/-- A sample; positions outside take the nearest edge sample (R288). -/
def Plane.sample (p : Plane) (x y : Int) : Nat :=
  p.px.getD ((min y.toNat (p.h - 1)) * p.w + min x.toNat (p.w - 1)) 0

/-- A plane from a function of its positions. -/
def Plane.make (w h : Nat) (f : Nat → Nat → Nat) : Plane :=
  ⟨w, h, (List.range h).flatMap fun y => (List.range w).map fun x => f x y⟩

/-- The three planes of a picture; monochrome input has mid-grey chroma at luma size (R282). -/
def Picture.planes (p : Picture) : Plane × Plane × Plane :=
  if p.mono then
    let g := Plane.make p.width p.height fun _ _ => 2 ^ (p.depth - 1)
    (⟨p.width, p.height, p.y⟩, g, g)
  else
    let cw := (p.width + 1) / 2
    let ch := (p.height + 1) / 2
    (⟨p.width, p.height, p.y⟩, ⟨cw, ch, p.cb⟩, ⟨cw, ch, p.cr⟩)

/-! ### Concealment (R292) -/

/-- Samples of damaged areas of `n` × `n` samples come from the preceding picture, or are mid grey. -/
def concealPlane (w n across : Nat) (damaged : List Nat) (grey : Nat) (prev cur : List Nat) (has : Bool) : List Nat :=
  (List.range cur.length).map fun i =>
    if damaged.contains (i / w / n * across + i % w / n) then (if has then prev.getD i grey else grey) else cur.getD i 0

/-- A picture with its damaged areas concealed from the one before it. -/
def conceal (prev : Option Picture) (p : Picture) : Picture :=
  let grey := 2 ^ (p.depth - 1)
  let across := (p.width + 15) / 16
  let has := prev.isSome
  let q := prev.getD p
  let cw := (p.width + 1) / 2
  { p with y := concealPlane p.width 16 across p.damaged grey q.y p.y has
           cb := concealPlane cw 8 across p.damaged grey q.cb p.cb has
           cr := concealPlane cw 8 across p.damaged grey q.cr p.cr has }

/-- Every picture concealed, in output order. -/
def concealAll (prev : Option Picture) : List Picture → List Picture
  | [] => []
  | p :: ps => let c := conceal prev p; c :: concealAll (some c) ps

/-! ### Fields and selection (R283, R284) -/

/-- The rows of one parity of a plane's samples. -/
def fieldRows (w h par : Nat) (px : List Nat) : List Nat :=
  ((List.range h).filter fun y => y % 2 == par).flatMap fun y => (px.drop (y * w)).take w

/-- One field of an interlaced picture: par 0 top, 1 bottom. -/
def fieldOf (p : Picture) (par : Nat) : Picture :=
  let cw := (p.width + 1) / 2
  let ch := (p.height + 1) / 2
  { p with height := (p.height + 1 - par) / 2, y := fieldRows p.width p.height par p.y
           cb := fieldRows cw ch par p.cb, cr := fieldRows cw ch par p.cr }

/-- The pictures that an interlaced picture becomes under FIELD. -/
def byField (field : Nat) (p : Picture) : List Picture :=
  if !p.interlaced || field == 0 then [p]
  else if field = 2 then [fieldOf p 0]
  else if p.topFirst then [fieldOf p 0, fieldOf p 1] else [fieldOf p 1, fieldOf p 0]

/-- Pictures a segment decodes (R283). -/
def picsNeeded (lead stride frames : Nat) : Nat := lead + (frames - 1) * stride + 1

/-! ### Resize (R288) -/

/-- Source position of output position o in 1/64 of a sample: (o + 0.5) · sin ÷ sout − 0.5, moved by quarters. -/
def resizePos (sin sout : Nat) (quarters : Int) (o : Nat) : Int :=
  let num : Int := 16 * (2 * ((2 * (o : Int) + 1) * sin - sout) + quarters * sout)
  let q := num / sout
  let r := (num % sout).toNat
  if r ≠ 0 ∧ Config.quantUp r sout then q + 1 else q

/-- n / d to the nearest integer; the direction of a tie is open. -/
def coefRound (n : Int) (d : Nat) : Int :=
  let q := n / d
  let r := (n % d).toNat
  if d < 2 * r ∨ (2 * r = d ∧ Config.coefUp n) then q + 1 else q

/-- The Keys kernel with a = −0.5 at u / 64, times 2^14. -/
def bicubicCoef (u : Nat) : Int :=
  if u ≤ 64 then coefRound (3 * u ^ 3 - 320 * u ^ 2 + 524288) 32
  else if u < 128 then coefRound (320 * u ^ 2 - (u ^ 3 : Nat) - 32768 * u + 1048576) 32
  else 0

/-- π · 2^96, cut off. -/
def piFix : Int := 248902613312231085230521944622

/-- sin of x · 2^-96 by its series, n terms after the k-th; `t` is the term. -/
def sinFix (x : Int) : Nat → Nat → Int → Int
  | 0, _, _ => 0
  | n + 1, k, t =>
    t + sinFix x n (k + 1) (-(t * x / 2 ^ 96 * x / 2 ^ 96) / (((2 * k + 2) * (2 * k + 3) : Nat) : Int))

/-- The Lanczos-3 kernel at u / 64, times 2^14: 3 sin(πx) sin(πx/3) / (πx)². -/
def lanczosCoef (u : Nat) : Int :=
  if u = 0 then 16384
  else if 192 ≤ u ∨ u % 64 = 0 then 0
  else
    let a : Int := piFix * u / 64
    let b : Int := a / 3
    let s := sinFix a 60 0 a * sinFix b 60 0 b / 2 ^ 96
    coefRound (3 * s * 16384 * 2 ^ 96 / (a * a / 2 ^ 96)) (2 ^ 96)

/-- The taps of a filter at phase f / 64: offset from the sample below, and coefficient. `sin`, `sout`: sizes. -/
def rawTaps (filter sin sout f : Nat) : List (Int × Int) :=
  let at' (k : Int) : Nat := (64 * k - f).natAbs
  match filter with
  | 0 => [(0, 16384)]
  | 1 => [(0, 256 * (64 - (f : Int))), (1, 256 * (f : Int))]
  | 2 => [-1, 0, 1, 2].map fun k => (k, bicubicCoef (at' k))
  | 3 =>
    let ks := ([-4, -3, -2, -1, 0, 1, 2, 3, 4] : List Int).filter fun k =>
      let t : Int := (64 * k - f) * 2 * sout
      decide (- (64 * (sin : Int)) ≤ t) && decide (t < 64 * (sin : Int))
    if ks = [] then [(if f < 32 then 0 else 1, 16384)] else ks.map fun k => (k, coefRound (16384 * sout) sin)
  | _ => [-2, -1, 0, 1, 2, 3].map fun k => (k, lanczosCoef (at' k))

/-- The taps summing to 2^14: the largest takes up the difference. -/
def taps (filter sin sout f : Nat) : List (Int × Int) :=
  let ts := rawTaps filter sin sout f
  let big := (ts.map (·.2)).foldl max 0
  let idx := (List.range ts.length).filter fun i => decide ((ts.getD i (0, 0)).2 = big)
  let pick := idx.getD (Config.tapPick filter f idx.length % idx.length) 0
  let diff := 16384 - (ts.map (·.2)).sum
  (List.range ts.length).map fun i => let t := ts.getD i (0, 0); (t.1, if i = pick then t.2 + diff else t.2)

/-- Σ c s ÷ 2^14, ties away from zero, clamped to 16 bits. -/
def tapSum (l : List (Int × Int)) : Nat :=
  let s := (l.map fun p => p.1 * p.2).sum
  let r : Int := if 0 ≤ s then (s + 8192) / 16384 else - ((8192 - s) / 16384)
  min r.toNat 65535

/-- Horizontal pass, then vertical pass, on samples scaled to 16 bits. -/
def resize (p : Plane) (filter ow oh : Nat) (qx qy : Int) : Plane :=
  let h := Plane.make ow p.h fun x y =>
    let pos := resizePos p.w ow qx x
    tapSum ((taps filter p.w ow (pos % 64).toNat).map fun t => (t.2, (p.sample (pos / 64 + t.1) y : Int)))
  Plane.make ow oh fun x y =>
    let pos := resizePos p.h oh qy y
    tapSum ((taps filter p.h oh (pos % 64).toNat).map fun t => (t.2, (h.sample x (pos / 64 + t.1) : Int)))

/-! ### Crop -/

/-- A crop rectangle in luma samples. -/
structure Crop where
  x : Nat
  y : Nat
  w : Nat
  h : Nat
  deriving DecidableEq, Repr

/-- CROPW = 0: the whole picture (R275). -/
def Crop.on (c : Crop) (p : Picture) : Crop := if c.w = 0 then ⟨0, 0, p.width, p.height⟩ else c

/-- The rectangle, its evenness for 4:2:0 and the resize ratios are accepted (R286, R288). -/
def cropOk (c : Crop) (p : Picture) (filter ow oh : Nat) : Bool :=
  let even (n : Nat) : Bool := n % 2 == 0
  let k := c.on p
  let ratio (i o : Nat) : Bool := decide (0 < i) && decide (i ≤ 8 * o) && decide (o ≤ 8 * i)
  decide (k.x + k.w ≤ p.width) && decide (k.y + k.h ≤ p.height) &&
  (p.mono || c.w == 0 || (even c.x && even c.y && even c.w && even c.h)) &&
  ratio k.w ow && ratio k.h oh && (filter != 3 || (decide (k.w ≤ 8 * ow) && decide (k.h ≤ 8 * oh)))

/-- A rectangle of a plane, its samples scaled to 16 bits. -/
def Plane.crop (p : Plane) (x y w h depth : Nat) : Plane :=
  Plane.make w h fun i j => p.px.getD ((y + j) * p.w + x + i) 0 * 2 ^ (16 - depth)

/-! ### Colour and normalisation (R289, R290) -/

/-- An exact result rounded to FP32 under RNE. -/
def rn (r : FVal × Bool) : FVal := fmtFP32.decode (fmtFP32.finish .rne r).bits

/-- An exact rational rounded to FP32. -/
def ratio32 (n : Int) (d : Nat) : FVal := rn (.num (dyQuot (decide (n < 0)) n.natAbs d 0 24), false)

def f32add (a b : FVal) : FVal := rn (fadd false a b)
def f32sub (a b : FVal) : FVal := rn (fadd false a b.negate)
def f32mul (a b : FVal) : FVal := rn (fmul a b)

/-- A quotient of finite numbers rounded once. -/
def f32div (a b : FVal) : FVal :=
  match a, b with
  | .num p, .num q => if q.m = 0 then .nan false else rn (.num (dyQuot (p.neg != q.neg) p.m q.m (p.e - q.e) 24), false)
  | _, _ => .nan false

/-- A value limited to 0 to 1. -/
def clamp01 (x : FVal) : FVal :=
  match x with
  | .num d => if d.neg then .num (dyZero false) else if (dyInt 1).cmp d = .lt then .num (dyInt 1) else x
  | _ => x

/-- kr and kb of a matrix: 0 BT.601, 1 BT.709, 2 BT.2020 (R289). -/
def matrixK (m : Nat) : FVal × FVal :=
  if m = 0 then (ratio32 299 1000, ratio32 114 1000)
  else if m = 1 then (ratio32 2126 10000, ratio32 722 10000)
  else (ratio32 2627 10000, ratio32 593 10000)

/-- The matrix used (R285). -/
def matrixOf (r : List Byte) (d : StreamInfo) (rows : Nat) : Nat :=
  if rcMatrix r < 3 then rcMatrix r
  else if d.matrix = some 1 then 1 else if d.matrix = some 5 ∨ d.matrix = some 6 then 0 else if d.matrix = some 9 then 2
  else if 720 ≤ rows then 1 else 0

/-- Full range is used: with RANGE = 2 as the stream says, and limited range where it carries no flag (R285). -/
def fullOf (r : List Byte) (d : StreamInfo) : Bool := if rcRange r = 2 then d.fullRange.getD false else rcRange r == 1

/-- How far the chroma source positions move: by default chroma is co-sited with luma across, which puts each source
position a quarter of a chroma sample further than midway siting, and midway down (R286). -/
def sitingOf (d : StreamInfo) : Int × Int := d.siting.getD (1, 0)

/-- The three channels of a pixel from its resized 16-bit samples (R289). -/
def colour (ycc full : Bool) (m b : Nat) (Y Cb Cr : Nat) : List FVal :=
  let one : FVal := .num (dyInt 1)
  let den := 2 ^ (16 - b) * (2 ^ b - 1)
  let y := if full then ratio32 Y den else ratio32 ((Y : Int) - 4096) 56064
  let cb := if full then ratio32 ((Cb : Int) - 32768) den else ratio32 ((Cb : Int) - 32768) 57344
  let cr := if full then ratio32 ((Cr : Int) - 32768) den else ratio32 ((Cr : Int) - 32768) 57344
  if ycc then [y, cb, cr]
  else
    let (kr, kb) := matrixK m
    let two (x : FVal) : FVal := f32mul (.num (dyInt 2)) x
    let r := f32add y (f32mul (two (f32sub one kr)) cr)
    let bl := f32add y (f32mul (two (f32sub one kb)) cb)
    let g := f32div (f32sub (f32sub y (f32mul kr r)) (f32mul kb bl)) (f32sub (f32sub one kr) kb)
    [clamp01 r, clamp01 g, clamp01 bl]

/-- A channel normalised and converted to the output format (R290). -/
def normElem (r : List Byte) (c : Nat) (v : FVal) : List Byte :=
  outElem r (f32mul (f32sub v (fmtFP32.decode (rcMean r c))) (fmtFP32.decode (rcScale r c)))

/-! ### One output picture (R286) -/

/-- The elements of an output picture: channel lists, row by row. -/
def outPicture (r : List Byte) (d : StreamInfo) (crop : Crop) (flip : Bool) (p : Picture) : List (List (List Byte)) :=
  let ow := rcOutw r
  let oh := rcOuth r
  let k := crop.on p
  let (py, pb, pr) := Picture.planes p
  let half (n : Nat) : Nat := if p.mono then n else n / 2
  let up (n : Nat) : Nat := if p.mono then n else (n + 1) / 2
  let chroma (q : Plane) : Plane :=
    resize (q.crop (half k.x) (half k.y) (up k.w) (up k.h) p.depth) (rcFilter r) ow oh (if p.mono then 0 else (sitingOf d).1)
      (if p.mono then 0 else (sitingOf d).2)
  let ry := resize (py.crop k.x k.y k.w k.h p.depth) (rcFilter r) ow oh 0 0
  let rb := chroma pb
  let rr := chroma pr
  (List.range oh).flatMap fun (y : Nat) => (List.range ow).map fun (x : Nat) =>
    let x' : Int := if flip then (ow : Int) - 1 - (x : Int) else (x : Int)
    let vs := colour (rcYcc r) (fullOf r d) (matrixOf r d p.height) p.depth (ry.sample x' y) (rb.sample x' y) (rr.sample x' y)
    (List.range 3).map fun c => normElem r c (vs.getD c (.num (dyZero false)))

end Sys2Proof.Machine
end

