-- ==== Sys2Proof/Machine/Decoder.lean ====
section
/-! DEFINITION. What the decoders make of an elementary stream: the start point, the streams they accept, the pictures that
are output, and where reading ends (R281 to R284). The syntax and the decoding process of the standards are opaque
(log 13). -/

namespace Sys2Proof.Machine

open Sys2Proof.Config (Picture CodedPic DecodeTask StreamInfo PicKind)

/-! ### Random access (R281) -/

/-- A random access point of a codec. The nal_unit_type values are those of HEVC (log 13): BLA, IDR and CRA. -/
def randomAccess (codec : Nat) (u : CodedPic) : Bool :=
  match codec with
  | 0 => u.idr || u.recovery == some 0
  | 1 => decide (16 ≤ u.nal) && decide (u.nal ≤ 21)
  | 2 => u.seqHdr && u.keyShown
  | _ => u.seqHdr && decide (u.ptype = 1)

/-- The source bytes scanned for a random access point (R281, R300). -/
def scanLimit : Nat := 0x400000

/-- The coded picture at which decoding starts, by number. -/
def startPoint (codec : Nat) (us : List CodedPic) : Option Nat :=
  us.findIdx? fun u => randomAccess codec u && decide (u.first < scanLimit)

/-- HEVC: a RASL picture that belongs to the CRA or BLA picture at the start. -/
def raslOfStart (us : List CodedPic) (st i : Nat) (u : CodedPic) : Bool :=
  decide (u.nal = 8 ∨ u.nal = 9) && (match us[st]? with | some a => decide (a.nal ≠ 19 ∧ a.nal ≠ 20) | none => false) &&
  !((us.take i).drop (st + 1)).any (randomAccess 1)

/-- MPEG-2: a B picture before the I picture's successor in output order that refers to a picture before the start. -/
def openB (us : List CodedPic) (st : Nat) (u : CodedPic) : Bool :=
  let next := (us.drop (st + 1)).find? fun v => decide (v.ptype ≠ 3)
  decide (u.ptype = 3) && u.refs.any (decide <| · < st) && (match next with | some v => decide (u.order < v.order) | none => true)

/-- Picture i is decoded but never output (R281). -/
def neverOutput (codec : Nat) (us : List CodedPic) (st i : Nat) (u : CodedPic) : Bool :=
  match codec with
  | 1 => raslOfStart us st i u
  | 3 => openB us st u
  | _ => false

/-! ### Streams accepted (R282) -/

/-- The profile is in the table; the codes are the standards' own (log 13). -/
def profileOk (codec : Nat) (u : CodedPic) : Bool :=
  match codec with
  | 0 => (u.profile == 66 && u.constrained) || [77, 100, 110].contains u.profile
  | 1 => [1, 2, 3].contains u.profile
  | 2 => u.profile == 0
  | _ => u.profile == 4

/-- The level is in the table: 5.2 for H.264, 5.1 for HEVC and AV1, High for MPEG-2. -/
def levelOk (codec : Nat) (u : CodedPic) : Bool :=
  match codec with
  | 0 => decide (u.level ≤ 52)
  | 1 => decide (u.level ≤ 153)
  | 2 => decide (u.level ≤ 13)
  | _ => [4, 6, 8, 10].contains u.level

/-- Bit depth and chroma format are in the table. -/
def formatAccepted (codec : Nat) (u : CodedPic) : Bool :=
  (u.depth == 8 || (u.depth == 10 && codec != 3)) && (u.chroma == 1 || (u.chroma == 0 && (codec == 0 || codec == 2)))

/-- The picture is no larger than the table allows. -/
def sizeOk (codec : Nat) (u : CodedPic) : Bool :=
  let w := u.width
  let h := u.height
  match codec with
  | 0 => decide (w ≤ 4096) && decide (h ≤ 2304) && decide ((w + 15) / 16 * ((h + 15) / 16) ≤ 36864)
  | 1 => decide (w * h ≤ 8912896) && decide (w ≤ 8192) && decide (h ≤ 8192)
  | 2 => decide (w * h ≤ 8912896) && decide (w ≤ 8192) && decide (h ≤ 4352)
  | _ => decide (w ≤ 1920) && decide (h ≤ 1152)

/-- The stream is one of R282 as far as this picture goes. -/
def accepted (codec : Nat) (u : CodedPic) : Bool :=
  profileOk codec u && levelOk codec u && formatAccepted codec u && sizeOk codec u

/-! ### Pictures in output order (R283, R284) -/

/-- A picture of the output order, with the highest number of the coded pictures it comes from. -/
structure OutPic where
  pic : Picture
  idx : Nat
  deriving DecidableEq, Repr

/-- A coded picture as decoded. -/
def decodedAs (u : CodedPic) (x : Config.Samples) : Picture :=
  { width := u.width, height := u.height, depth := u.depth, mono := u.chroma == 0
    interlaced := (match u.kind with | .progressive => false | _ => true)
    topFirst := (match u.kind with | .frame t => t | .field b => !b | _ => false)
    y := x.y, cb := x.cb, cr := x.cr, damaged := x.damaged }

/-- A list entry put in its place by a key. -/
def insertOrd {α : Type} (key : α → Nat) (a : α) : List α → List α
  | [] => [a]
  | b :: l => if key b ≤ key a then b :: insertOrd key a l else a :: b :: l

/-- The numbers of the pictures that are output, in output order. -/
def outputOrder (codec : Nat) (us : List CodedPic) (st : Nat) : List Nat :=
  let at' (i : Nat) : CodedPic := us.getD i default
  let l := (List.range us.length).filter fun i => decide (st ≤ i) && (at' i).shown && !neverOutput codec us st i (at' i)
  l.foldl (fun acc i => insertOrd (fun j => (at' j).order) i acc) []

/-- The rows of two fields, interleaved. -/
def weaveRows (w : Nat) : Nat → List Nat → List Nat → List Nat
  | 0, _, _ => []
  | n + 1, a, b => a.take w ++ b.take w ++ weaveRows w n (a.drop w) (b.drop w)

/-- Two fields as one frame, the top field's rows first (R284). -/
def weave (top bot : Picture) (topFirst : Bool) : Picture :=
  let cw := (top.width + 1) / 2
  let rows (w : Nat) (a b : List Nat) : List Nat := weaveRows w ((a.length + w - 1) / w) a b
  { top with height := top.height + bot.height, topFirst := topFirst, interlaced := true
             y := rows top.width top.y bot.y, cb := rows cw top.cb bot.cb, cr := rows cw top.cr bot.cr }

/-- Field pictures in output order brought together in pairs of opposite parity; frames stand as they are. `bottom`: the
parity of the coded picture with a number, none for a frame. -/
def pairFields (bottom : Nat → Option Bool) : List OutPic → List OutPic
  | [] => []
  | [a] => [match bottom a.idx with | some _ => { a with pic := Config.loneField a.pic } | none => a]
  | a :: b :: l =>
    match bottom a.idx, bottom b.idx with
    | some x, some y =>
      if x = y then { a with pic := Config.loneField a.pic } :: pairFields bottom (b :: l)
      else ⟨if x then weave b.pic a.pic false else weave a.pic b.pic true, max a.idx b.idx⟩ :: pairFields bottom l
    | some _, none => { a with pic := Config.loneField a.pic } :: pairFields bottom (b :: l)
    | none, _ => a :: pairFields bottom (b :: l)

/-- A plane cut to a window. -/
def cutRows (w left width top height : Nat) (px : List Nat) : List Nat :=
  (upFrom top height).flatMap fun y => ((px.drop (y * w + left)).take width)

/-- The cropping or conformance window applied (R282). -/
def windowed (u : CodedPic) (p : Picture) : Picture :=
  let w := p.width - u.left - u.right
  let h := p.height - u.top - u.bottom
  let chroma (px : List Nat) : List Nat := cutRows ((p.width + 1) / 2) (u.left / 2) ((w + 1) / 2) (u.top / 2) ((h + 1) / 2) px
  { p with width := w, height := h, y := cutRows p.width u.left w u.top h p.y, cb := chroma p.cb, cr := chroma p.cr }

/-- The pictures of R283 in output order: concealed (R292), fields made frames, cut to their window, and split again
under FIELD (R284). -/
def outputPictures (t : DecodeTask) (us : List CodedPic) (st field : Nat) : List OutPic :=
  let at' (i : Nat) : CodedPic := us.getD i default
  let order := outputOrder t.codec us st
  let pics := concealAll none (order.map fun i => decodedAs (at' i) (Config.decodePicture t st i))
  let frames := pairFields (fun i => match (at' i).kind with | .field b => some b | _ => none)
    (pics.zipWith (fun p i => ⟨p, i⟩) order)
  frames.flatMap fun o => (byField field (windowed (at' o.idx) o.pic)).map fun p => ⟨p, o.idx⟩

/-- What decoding a stream gives. -/
structure Decoding where
  /-- The first `need` pictures of the output order, or all there are. -/
  pics : List Picture
  /-- Conditions 1, 2, 5 and 6 of R291 met. -/
  found : List Nat
  /-- The bytes of the stream read; none: all of them, and decoding asks for more. -/
  used : Option Nat
  info : StreamInfo
  /-- The largest coded picture decoded: width, height and depth. -/
  coded : Nat × Nat × Nat
  damaged : Nat
  interlaced : Bool

/-- Decodes up to `need` pictures and reads no further (R281 to R284). A picture outside R282 ends the decoding. -/
def decodeStream (t : DecodeTask) (field need : Nat) : Decoding :=
  let us := Config.parseStream t
  match startPoint t.codec us with
  | none => ⟨[], [5], if scanLimit ≤ t.source.length then some scanLimit else none, default, (0, 0, 8), 0, false⟩
  | some st =>
    let all := outputPictures t us st field
    let outs := all.take need
    let enough := decide (need ≤ all.length)
    let last := if enough then (outs.map (·.idx)).foldl max st else us.length - 1
    let upTo := ((List.range (last + 1)).drop st).filter fun i => !neverOutput t.codec us st i (us.getD i default)
    let out := upTo.findIdx? fun i => !accepted t.codec (us.getD i default)
    let run := match out with | some n => upTo.take (n + 1) | none => upTo
    let xs := run.map fun i => Config.decodePicture t st i
    let cs := run.map fun i => us.getD i default
    ⟨outs.map (·.pic),
     (if xs.any (·.syntaxError) then [1] else []) ++ (if xs.any (·.refMissing) then [2] else []) ++
       (if out.isSome then [6] else []),
     if enough || out.isSome then some ((cs.map (·.last)).foldl max 0) else none, Config.streamInfo t st,
     ((cs.map (·.width)).foldl max 0, (cs.map (·.height)).foldl max 0, (cs.map (·.depth)).foldl max 8),
     (xs.map (·.damaged.length)).sum, cs.any fun c => c.kind != .progressive⟩

end Sys2Proof.Machine
end

