-- ==== Sys2Proof/Machine/Demux.lean ====
section
/-! DEFINITION. Transport streams (R280), under ISO/IEC 13818-1. -/

namespace Sys2Proof.Machine

/-- A transport packet of 188 bytes. -/
abbrev TsPacket := List Byte

def tsByte (p : List Byte) (i : Nat) : Nat := (p.getD i 0).toNat

/-- The sync byte stands at position `pre` of the bytes. -/
def tsSync (bs : List Byte) (pre : Nat) : Bool := decide (pre < bs.length) && tsByte bs pre == 0x47

/-- The first position at or after the start where three sync bytes lie one packet apart (R280); n bounds the scan. -/
def tsScan (size pre : Nat) : Nat → List Byte → List Byte
  | 0, _ => []
  | n + 1, bs =>
    if tsSync bs pre && tsSync (bs.drop size) pre && tsSync (bs.drop (2 * size)) pre then bs
    else tsScan size pre n (bs.drop 1)

/-- The packets of a stream: `size` bytes each, of which the first `pre` are skipped; n bounds their number. -/
def tsPackets (size pre : Nat) : Nat → List Byte → List TsPacket
  | 0, _ => []
  | n + 1, bs =>
    let bs := if tsSync bs pre then bs else tsScan size pre bs.length bs
    if bs.length < size then [] else (bs.take size).drop pre :: tsPackets size pre n (bs.drop size)

def tsError (p : TsPacket) : Bool := bitOf (tsByte p 1) 7
def tsStart (p : TsPacket) : Bool := bitOf (tsByte p 1) 6
def tsPid (p : TsPacket) : Nat := tsByte p 1 % 32 * 256 + tsByte p 2
def tsScrambled (p : TsPacket) : Bool := decide (fld (tsByte p 3) 7 6 ≠ 0)
def tsCc (p : TsPacket) : Nat := tsByte p 3 % 16
def tsHasPayload (p : TsPacket) : Bool := bitOf (tsByte p 3) 4

/-- The payload after the header and the adaptation field. -/
def tsPayload (p : TsPacket) : List Byte :=
  if !tsHasPayload p then [] else if bitOf (tsByte p 3) 5 then p.drop (5 + tsByte p 4) else p.drop 4

/-- What the packets of one PID give: units, each begun by a packet with payload_unit_start, and the conditions of R291
met. -/
structure TsUnits where
  /-- Units in reverse order. -/
  units : List (List Byte)
  lastCc : Option Nat
  /-- Each condition with the bytes of payload that came before it. -/
  dres : List (Nat × Nat)
  deriving DecidableEq, Repr

/-- A PES packet's payload: header fields are skipped. -/
def pesPayload (u : List Byte) : List Byte := u.drop (9 + tsByte u 8)

/-- A condition met behind the units that are there. -/
def TsUnits.meet (u : TsUnits) (c : Nat) : TsUnits :=
  { u with dres := u.dres ++ [(c, (u.units.map fun x => (pesPayload x).length).sum)] }

/-- One packet of the PID. A packet that is both in error and scrambled meets both rows of R280. -/
def TsUnits.add (u : TsUnits) (p : TsPacket) : TsUnits :=
  if tsError p then if tsScrambled p then (u.meet 3).meet 9 else u.meet 3
  else if tsScrambled p then { u.meet 9 with lastCc := some (tsCc p) }
  else if !tsHasPayload p then u
  else if u.lastCc = some (tsCc p) then u
  else
    let gap := match u.lastCc with | some c => decide ((c + 1) % 16 ≠ tsCc p) | none => false
    let u := if gap then u.meet 3 else u
    let us := if tsStart p then tsPayload p :: u.units
      else match u.units with | a :: as => (a ++ tsPayload p) :: as | [] => []
    { u with units := us, lastCc := some (tsCc p) }

/-- The units of a PID. -/
def tsUnitsOf (ps : List TsPacket) (pid : Nat) : TsUnits :=
  (ps.filter fun p => tsPid p == pid).foldl TsUnits.add ⟨[], none, []⟩

/-- The first section of a PID, after its pointer field. -/
def tsSection (ps : List TsPacket) (pid : Nat) : List Byte :=
  match (tsUnitsOf ps pid).units.reverse with
  | u :: _ => u.drop (1 + tsByte u 0)
  | [] => []

/-- Bytes of a section's loop, before its CRC. -/
def sectionEnd (x : List Byte) : Nat := 3 + (tsByte x 1 % 16 * 256 + tsByte x 2) - 4

/-- The PMT's PID of the first program of a PAT; n bounds the loop. -/
def patPid (x : List Byte) : Nat → Nat → Option Nat
  | 0, _ => none
  | n + 1, i =>
    if sectionEnd x < i + 4 then none
    else if tsByte x i * 256 + tsByte x (i + 1) ≠ 0 then some (tsByte x (i + 2) % 32 * 256 + tsByte x (i + 3))
    else patPid x n (i + 4)

/-- The first video stream of a PMT: its stream type and PID. -/
def pmtVideo (x : List Byte) : Nat → Nat → Option (Nat × Nat)
  | 0, _ => none
  | n + 1, i =>
    if sectionEnd x < i + 5 then none
    else if [0x02, 0x1B, 0x24].contains (tsByte x i) then some (tsByte x i, tsByte x (i + 1) % 32 * 256 + tsByte x (i + 2))
    else pmtVideo x n (i + 5 + (tsByte x (i + 3) % 16 * 256 + tsByte x (i + 4)))

/-- The stream type of a CODEC (R275, R280). -/
def codecType (codec : Nat) : Nat := if codec = 0 then 0x1B else if codec = 1 then 0x24 else 0x02

/-- The video PID: as given, or from the first PMT (R280). -/
def videoPid (ps : List TsPacket) (pid codec : Nat) : Option Nat :=
  if pid ≠ 0x1FFF then (if ps.any fun p => tsPid p == pid then some pid else none)
  else
    let pat := tsSection ps 0
    match patPid pat pat.length 8 with
    | none => none
    | some m =>
      let pmt := tsSection ps m
      match pmtVideo pmt pmt.length (12 + (tsByte pmt 10 % 16 * 256 + tsByte pmt 11)) with
      | some (t, v) => if t = codecType codec then some v else none
      | none => none

/-- A transport stream demultiplexed: the video payload, and the conditions of R291 met, each with the bytes of payload
before it. -/
def demux (bs : List Byte) (srcType pid codec : Nat) : List Byte × List (Nat × Nat) :=
  let size := if srcType = 1 then 188 else 192
  let ps := tsPackets size (size - 188) bs.length bs
  match videoPid ps pid codec with
  | none => ([], [(10, 0)])
  | some v =>
    let u := tsUnitsOf ps v
    (u.units.reverse.flatMap pesPayload, u.dres)

end Sys2Proof.Machine
end

