-- ==== Sys2Proof/Machine/IngestOps.lean ====
section
/-! DEFINITION. Ingest batches: header and request fields, the checks of R276, and how a batch ends (R274 to R278,
R287, R295, R296). -/

namespace Sys2Proof.Machine

/-! ### Fields (R274, R275) -/

def bhNreq (h : List Byte) : Nat := fld (rcW h 0) 63 53
def bhClust (h : List Byte) : Nat := fld (rcW h 0) 52 51
def bhPen (h : List Byte) : Bool := bitOf (rcW h 0) 50
def bhPcore (h : List Byte) : Nat := fld (rcW h 0) 47 40
def bhPctr (h : List Byte) : Nat := fld (rcW h 0) 37 32
def bhRecipe (h : List Byte) : Nat := fld (rcW h 1) 47 0
def bhOdesc (h : List Byte) : Nat := fld (rcW h 2) 47 0
def bhSstride (h : List Byte) : Nat := fld (rcW h 3) 47 0
def bhStatva (h : List Byte) : Nat := fld (rcW h 4) 47 0

def rqSrcType (r : List Byte) : Nat := fld (rcW r 0) 63 60
def rqCodec (r : List Byte) : Nat := fld (rcW r 0) 59 56
def rqHost (r : List Byte) : Bool := bitOf (rcW r 0) 55
def rqNalfmt (r : List Byte) : Nat := fld (rcW r 0) 54 53
def rqErrpol (r : List Byte) : Nat := fld (rcW r 0) 52 51
def rqSrcva (r : List Byte) : Nat := fld (rcW r 0) 47 0
def rqSrclen (r : List Byte) : Nat := fld (rcW r 1) 63 32
def rqPid (r : List Byte) : Nat := fld (rcW r 1) 28 16
def rqLead (r : List Byte) : Nat := fld (rcW r 1) 15 0
def rqFrames (r : List Byte) : Nat := fld (rcW r 2) 63 48
def rqStride (r : List Byte) : Nat := fld (rcW r 2) 47 40
def rqSlot (r : List Byte) : Nat := fld (rcW r 2) 31 0
def rqCrop (r : List Byte) : Crop := ⟨fld (rcW r 3) 63 48, fld (rcW r 3) 47 32, fld (rcW r 3) 31 16, fld (rcW r 3) 15 0⟩
def rqFlip (r : List Byte) : Bool := bitOf (rcW r 4) 63
def rqPsva (r : List Byte) : Nat := fld (rcW r 4) 47 0
def rqPslen (r : List Byte) : Nat := fld (rcW r 5) 15 0
def rqSample (r : List Byte) : Nat := rcW r 6

/-- The request reads and writes something (R276). -/
def rqLive (r : List Byte) : Bool := decide (rqFrames r ≠ 0) && decide (rqSrclen r ≠ 0)

/-! ### The checks of R276 -/

/-- Reserved fields and values of a header; NREQ is at most 1,024. -/
def bhOk (h : List Byte) : Bool :=
  let hi (i : Nat) : Bool := decide (fld (rcW h i) 63 48 = 0)
  decide (bhClust h ≠ 3) && decide (bhNreq h ≤ 1024) && decide (fld (rcW h 0) 49 48 = 0) && decide (fld (rcW h 0) 39 38 = 0) &&
  decide (fld (rcW h 0) 31 0 = 0) && hi 1 && hi 2 && hi 3 && hi 4 && zeroAt h 40 24

/-- Reserved fields of a recipe. -/
def rcReservedOk (r : List Byte) : Bool :=
  decide (fld (rcW r 0) 49 32 = 0) && decide (fld (rcW r 1) 31 0 = 0) && zeroAt r 40 88

/-- Reserved fields and values of a request. -/
def rqOk (r : List Byte) : Bool :=
  decide (rqSrcType r ≤ 2) && decide (rqCodec r ≤ 3) && decide (rqNalfmt r ≤ 1) && decide (rqErrpol r ≤ 2) &&
  decide (fld (rcW r 0) 50 48 = 0) && decide (fld (rcW r 1) 31 29 = 0) && decide (fld (rcW r 2) 39 32 = 0) &&
  decide (fld (rcW r 4) 62 48 = 0) && decide (fld (rcW r 5) 63 16 = 0) && decide (rcW r 7 = 0)

/-- Row 4 of R276. -/
def rqMixOk (r : List Byte) : Bool :=
  (decide (rqCodec r ≠ 2) || decide (rqSrcType r = 0)) && (decide (rqNalfmt r = 0) || decide (rqCodec r ≤ 1)) &&
  decide (rqStride r ≠ 0)

/-- The output descriptor, its PERM ignored (R287). -/
def outDesc (od : List Byte) : Desc := { descOf od with perm := [0, 1, 2, 3] }

/-- The sizes that d0, d1 and d2 must have. -/
def outSizes (rc : List Byte) : List Nat :=
  if rcPlanar rc then [rcOutw rc, rcOuth rc, 3] else [3, rcOutw rc, rcOuth rc]

/-- The bytes that one slot's owned window covers: lowest and highest, for slot 0 (R287). -/
def slotHull (d : Desc) : Option (Nat × Nat) := hull (d.storeWrites 0)

/-- Slots of different requests, by number. -/
def liveSlots (reqs : List (List Byte)) : List Nat := (reqs.filter rqLive).map rqSlot

/-- The hulls of two slots share a byte. -/
def slotsMeet (h : Option (Nat × Nat)) (stride a b : Nat) : Bool :=
  let mv (n : Nat) : Option (Nat × Nat) := h.map fun p => (p.1 + n * stride, p.2 + n * stride)
  a != b && hullsMeet (mv a) (mv b)

/-- The descriptor meets R287 for a recipe and requests. -/
def odescOk (od rc : List Byte) (reqs : List (List Byte)) (stride : Nat) : Bool :=
  let d := outDesc od
  let sz := outSizes rc
  let slots := liveSlots reqs
  (d.checkFar false).isNone && decide (d.dims = 4) && decide (d.pad = 0) && decide (d.esize = outBytes rc) &&
  ((List.range 3).all fun i => decide ((d.d i).n = sz.getD i 0) && decide ((d.d i).ext = sz.getD i 0)) &&
  decide ((d.d 3).ext = (d.d 3).n) && (reqs.all fun r => decide (rqFrames r ≤ (d.d 3).n)) &&
  (d.dim.all fun x => decide (x.org = 0)) &&
  slots.all fun a => slots.all fun b => !slotsMeet (slotHull d) stride a b

/-- Rows 2 to 7 of R276: the status with which the batch completes at once, or none to queue it. -/
def batchCheck (v : Variant) (h rc od : List Byte) (reqs : List (List Byte)) : Option Byte :=
  if !bhOk h || !rcReservedOk rc || !reqs.all rqOk then some Code.badParam
  else if bhPen h && decide (v.cores ≤ bhPcore h) then some Code.unsupported
  else if !reqs.all rqMixOk then some Code.badParam
  else if !recipeOk rc || !odescOk od rc reqs (bhSstride h) then some Code.badParam
  else if !decide (liveSlots reqs).Nodup then some Code.badParam
  else if bhNreq h = 0 then some Code.okEmpty
  else none

/-- What the reading of a batch gives. -/
inductive BatchRead where
  | ok (recipe odesc : List Byte) (reqs : List (List Byte)) (xl : Table Nat)
  | err (code : Byte)
  deriving DecidableEq, Repr

/-- The recipe, the output descriptor and the requests are read; the status array must be readable, and is translated for
writing (row 1). -/
def readBatch (s : State) (ctx : Nat) (h : List Byte) (reqVas stat : List Nat) : State × BatchRead :=
  let reads := upFrom (bhRecipe h) 128 ++ upFrom (bhOdesc h) 128 ++ (reqVas.flatMap fun a => upFrom a 64) ++
    stat.flatMap fun a => upFrom a 16
  match xlate s ctx reads (stat.flatMap fun a => upFrom a 16) with
  | (s, .err c _ _) => (s, .err c)
  | (s, .ok xl) =>
    match readCheck s (reads.map (viaXl xl)) with
    | (s, some c) => (s, .err c)
    | (s, none) =>
      let at' (a n : Nat) : List Byte := (upFrom a n).map fun x => s.byte (viaXl xl x)
      (s, .ok (at' (bhRecipe h) 128) (at' (bhOdesc h) 128) (reqVas.map fun a => at' a 64) xl)

/-! ### Queues (R277) -/

/-- The cluster a batch goes to. -/
def clusterFor (g : Ingest) (h : List Byte) : Nat :=
  if bhClust h = 0 then (if g.q1.length < g.q0.length then 1 else 0) else bhClust h - 1

/-- The cluster's queue is full. -/
def queueFull (s : State) (k : Nat) : Bool := decide (16 ≤ (s.ingest.queue k).length)

/-- A checked batch enters the queue of its cluster. -/
def enqueueBatch (s : State) (pid stid : Option Nat) (ctx : Nat) (h rc od : List Byte) (reqs : List (List Byte))
    (stat : List Nat) (xl : Table Nat) : State :=
  let g := s.ingest
  let k := clusterFor g h
  let b : Batch := ⟨g.nextId, pid, stid, ctx, h, rc, od, reqs, stat, xl, false, false, 0, 0, []⟩
  { s with ingest := { g.setQueue k (g.queue k ++ [b]) with nextId := g.nextId + 1 } }

/-- Batch number b with its cluster. -/
def findBatch (s : State) (b : Nat) : Option (Nat × Batch) :=
  match s.ingest.q0.find? (fun x => x.id == b) with
  | some x => some (0, x)
  | none => (s.ingest.q1.find? (fun x => x.id == b)).map fun x => (1, x)

/-- A batch replaced by its new state. -/
def setBatch (s : State) (k : Nat) (b : Batch) : State :=
  { s with ingest := s.ingest.setQueue k ((s.ingest.queue k).map fun x => if x.id = b.id then b else x) }

/-! ### The end of a batch (R295, R296) -/

def State.stEntry (s : State) (n : Nat) : StEntry := look .free n s.ingest.streams
def State.setStEntry (s : State) (n : Nat) (e : StEntry) : State :=
  { s with ingest := { s.ingest with streams := put .free n e s.ingest.streams } }

/-- A batch reports its status: to its packet, or to its stream (R312). -/
def reportBatch (s : State) (b : Batch) (status : Byte) (detail : Nat) : State :=
  let s := match b.pid with
    | some pid => completePkt s pid status (BitVec.ofNat 32 detail)
    | none => s
  match b.stid with
  | some n => let e := s.stEntry n; s.setStEntry n { e with outb := e.outb - 1, lastSts := status }
  | none => s

/-- The post of a batch (R295). -/
def batchPost (s : State) (h : List Byte) : State := if bhPen h then post s (bhPcore h) (bhPctr h) else s

/-- A batch leaves its queue; its request to the ledger and its grant end. -/
def removeBatch (s : State) (k : Nat) (b : Batch) : State :=
  let s :=
    if b.granted then releaseBatchUnits s k b.units
    else if b.asked then withdrawRequest s (.ingest k)
    else s
  { s with ingest := { s.ingest.setQueue k ((s.ingest.queue k).filter fun x => decide (x.id ≠ b.id)) with
      segs := s.ingest.segs.filter fun p => match p.2 with | some g => decide (g.batch ≠ b.id) | none => true } }

/-- The addresses of one slot's output pictures 0 to n − 1 in the owned window: coordinates and virtual address. -/
def slotElems (b : Batch) (slot frames : Nat) : List (List Nat × Nat) :=
  let d := outDesc b.odesc
  let sz := outSizes b.recipe
  ((boxCoords (sz.getD 0 0) (sz.getD 1 0) (sz.getD 2 0) frames).filter fun y => d.owns (y.map Int.ofNat)).map fun y =>
    (y, d.addr y + slot * bhSstride b.hdr)

/-- Leaves a range of virtual addresses undefined where it can be written. -/
def scrambleVa (s : State) (ctx : Nat) (vas : List Nat) : State :=
  match xlate s ctx [] vas with
  | (s, .ok xl) => scrambleAll s (vas.map (viaXl xl))
  | (s, .err _ _ _) => s

/-- The output slots of a batch that is aborted are undefined, and so are its status records (R296, log 11). -/
def scrambleBatch (s : State) (b : Batch) : State :=
  let s := (b.reqs.filter rqLive).foldl (fun s r =>
    scrambleVa s b.ctx ((slotElems b (rqSlot r) (rqFrames r)).flatMap fun e => upFrom e.2 (outBytes b.recipe))) s
  scrambleAll s (b.stat.flatMap fun a => (upFrom a 16).map (viaXl b.xl))

/-- A batch is aborted (R296, R524). A batch of which no segment has started has written nothing. -/
def abortBatch (s : State) (k : Nat) (b : Batch) (status : Byte) : State :=
  let s := removeBatch s k b
  let s := if b.next = 0 then s else scrambleBatch s b
  reportBatch s b status 0

/-- Aborts every batch that a test picks. -/
def abortBatches (s : State) (status : Byte) (f : Batch → Bool) : State :=
  ((s.ingest.q0 ++ s.ingest.q1).filter f).foldl (fun s b =>
    match findBatch s b.id with
    | some (k, b) => abortBatch s k b status
    | none => s) s

end Sys2Proof.Machine
end

