-- ==== Sys2Proof/Machine/Ingest.lean ====
section
/-! DEFINITION. The ingest engine: batches, segments and their results (R276 to R296). -/

namespace Sys2Proof.Machine

open Sys2Proof.Config (Picture StreamInfo DecodeTask)

/-! ### INGEST_BATCH (R276, R277) -/

/-- A packet's batch is read, checked and queued. `old` is the state before the packet left its queue: a full cluster
queue leaves it there. -/
def ingestBatch (old s : State) (pid : Nat) (p : Pkt) : State :=
  let va := fld (p.w 1) 47 0
  match readVa s p.ctx va 64 with
  | (s, .inr c) => completePkt s pid c 0
  | (s, .inl h) =>
    let n := bhNreq h
    let stat := (List.range n).map fun i => bhStatva h + 16 * i
    match readBatch s p.ctx h ((List.range n).map fun i => va + 64 + 64 * i) stat with
    | (s, .err c) => completePkt s pid c 0
    | (s, .ok rc od reqs xl) =>
      match batchCheck s.variant h rc od reqs with
      | some c =>
        let s := completePkt s pid c 0
        if c = Code.okEmpty then batchPost s h else s
      | none =>
        if queueFull s (clusterFor s.ingest h) then old
        else enqueueBatch s (some pid) none p.ctx h rc od reqs stat xl

/-- The variant has no ingest engine (R273). -/
def noIngest (s : State) (_ : Pkt) : Bool := !s.variant.ingest

/-- INGEST_BATCH. -/
def execIngestBatch (q : Nat) (s : State) : Res := .next (dispatch opIngestBatch noIngest (ingestBatch s) q s)

/-! ### Starting (R277, R278, R493, R299) -/

/-- Every request of the batch has started. -/
def Batch.allStarted (b : Batch) : Bool := decide (b.reqs.length ≤ b.next)

/-- The first batch of a queue that is not wholly started. -/
def headBatch (s : State) (k : Nat) : Option Batch := (s.ingest.queue k).find? fun b => !b.allStarted

/-- Units a batch asks for (R277). -/
def batchAsk (b : Batch) : Nat := 3 * min b.reqs.length 32 + 24

/-- IDPBk of a cluster. -/
def Ingest.dpb (g : Ingest) (k : Nat) : Idpb := if k = 0 then g.dp0 else g.dp1

/-- BATCH_START: the batch at the head asks the ledger; before IDPBk.LOCK it completes with E_BADPARAM,
with its post (R295, R299). -/
def execBatchStart (k : Nat) (s : State) : Res :=
  .next (match headBatch s k with
    | none => s
    | some b =>
      let lv := (dtempOf s (4 + k)).tlevel
      if 2 ≤ k ∨ b.asked ∨ 2 ≤ lv ∨ s.agg.safe then s
      else if !(s.ingest.dpb k).lock then batchPost (reportBatch (removeBatch s k b) b Code.badParam 0) b.hdr
      else sendRequest (setBatch s k { b with asked := true }) (.ingest k) (batchAsk b))

/-- SEGMENT_START: the next request of the head batch starts on a free decode core of the cluster (R278); a batch of which
none has started does not start while its die is hot (R493). -/
def execSegmentStart (k d : Nat) (s : State) : Res :=
  .next (match headBatch s k with
    | none => s
    | some b =>
      if d / 32 = k ∧ k < 2 ∧ b.granted ∧ !s.agg.safe ∧ (b.next ≠ 0 ∨ (dtempOf s (4 + k)).tlevel < 2) ∧ look none d s.ingest.segs = none then
        let s := setBatch s k { b with next := b.next + 1 }
        { s with ingest := { s.ingest with segs := put none d (some ⟨b.id, b.next⟩) s.ingest.segs } }
      else s)

/-! ### Reading the source (R279) -/

/-- What reading a segment's source gives. -/
inductive SrcRead where
  /-- The parameter sets; the source up to the first byte that cannot be read, with the physical addresses of its bytes
  (none: host memory); and that byte's physical and virtual addresses. -/
  | ok (params source : List Byte) (pas : List Nat) (bad : Option (Nat × Nat))
  | wait
  /-- The condition of R291, the status and the address. -/
  | fault (dres : Nat) (code : Byte) (va : Nat)
  deriving DecidableEq, Repr

/-- The condition of R291 of data that cannot be read: 8 where it is uncorrectable (R573), 12 otherwise. -/
def dataDres (code : Byte) : Nat := if code = Code.eccUncorr then 8 else 12

/-- The source and the parameter sets are translated, the parameter sets read, and the source as far as it can be. -/
def readSource (s : State) (ctx : Nat) (r : List Byte) : State × SrcRead :=
  let n := rqSrclen r
  let pv := upFrom (rqPsva r) (rqPslen r)
  let sv := if rqHost r then [] else upFrom (rqSrcva r) n
  match xlate s ctx (pv ++ sv) [] with
  | (s, .err c _ va) => (s, .fault 12 c va)
  | (s, .ok xl) =>
    match if rqHost r then hostXlate s ctx (rqSrcva r) n else (s, .ok) with
    | (s, .wait) => (s, .wait)
    | (s, .fail a) => (s, .fault 12 Code.xlate a)
    | (s, .ok) =>
      match readCheck s (pv.map (viaXl xl)) with
      | (s', some c) => (s', .fault (dataDres c) c (firstBad s (rqPsva r) (rqPslen r) xl))
      | (s, none) =>
        let params := pv.map fun a => s.byte (viaXl xl a)
        if rqHost r then (s, .ok params (hostBytes s ctx (rqSrcva r) n) [] none)
        else
          let pas := sv.map (viaXl xl)
          match pas.findIdx? fun a => !readable s [a] with
          | none => (s, .ok params (pas.map s.byte) pas none)
          | some i => (s, .ok params ((pas.take i).map s.byte) (pas.take i) (some (pas.getD i 0, rqSrcva r + i)))

/-! ### Decoding and post-processing (R280 to R292) -/

/-- What a segment's decoding gives before its slot is written. -/
structure SegPlan where
  /-- Conditions of R291 met. -/
  met : List Nat
  /-- The output pictures that come from decoded data. -/
  outs : List Picture
  info : StreamInfo
  conc : Nat
  interlaced : Bool
  /-- Decoding asks for more bytes than the source has. -/
  short : Bool
  /-- The bytes of the source read, as far as they are known. -/
  read : Nat

/-- The lowest condition met; 0 where none is. -/
def lowest (l : List Nat) : Nat := ((List.range 13).find? fun i => i != 0 && l.contains i).getD 0

/-- Conditions under which no slot of decoded pictures can be written. -/
def fatalDres : List Nat := [5, 6, 7, 8, 10, 11, 12]

/-- Bytes of a picture in decoded-picture memory (R297). -/
def pictureBytes (w h depth : Nat) : Nat := (w * h * 3 * (if depth = 8 then 1 else 2) / 2 + 65535) / 65536 * 65536

/-- Decodes and selects pictures; `share` is a decode core's share in bytes. What stands behind the bytes that decoding
reads meets no condition (R283). A transport stream without the video PID is searched to its end, and nothing is decoded
(R280, DRES 10). -/
def segPlan (r rc params source : List Byte) (share : Nat) : SegPlan :=
  let (es, tsAll) := if rqSrcType r = 0 then (source, []) else demux source (rqSrcType r) (rqPid r) (rqCodec r)
  if tsAll.any (·.1 == 10) then ⟨[10], [], default, 0, false, true, source.length⟩ else
  let need := picsNeeded (rqLead r) (rqStride r) (rqFrames r)
  let d := decodeStream ⟨rqCodec r, rqNalfmt r, params, es⟩ (rcField rc) need
  let pics := d.pics
  let ts := (tsAll.filter fun p => match d.used with | some n => decide (p.2 < n) | none => true).map (·.1)
  let outs := (List.range (rqFrames r)).filterMap fun k => pics[rqLead r + k * rqStride r]?
  let big := decide (share < (d.info.dpb + 1) * pictureBytes d.coded.1 d.coded.2.1 d.coded.2.2)
  let hard := ts ++ d.found ++ (if big then [7] else [])
  let shut := hard.any fatalDres.contains
  let crop := outs.any fun p => !cropOk (rqCrop r) p (rcFilter rc) (rcOutw rc) (rcOuth rc)
  let met := hard ++ (if !shut && decide (pics.length < need) then [4] else []) ++ (if !shut && crop then [11] else [])
  ⟨met, outs, d.info, d.damaged, d.interlaced, d.used.isNone && !big,
   if rqSrcType r = 0 then d.used.getD source.length else source.length⟩

/-- The element at coordinates of a slot: the picture's channel at its position, or `other` where no picture is. -/
def elemAt (rc : List Byte) (pics : List (List (List (List Byte)))) (y : List Nat) (other : List Byte) : List Byte :=
  let (c, px, py) := if rcPlanar rc then (y.getD 2 0, y.getD 0 0, y.getD 1 0) else (y.getD 0 0, y.getD 1 0, y.getD 2 0)
  match pics.getD (y.getD 3 0) [] with
  | [] => other
  | p => (p.getD (py * rcOutw rc + px) []).getD c other

/-- A list brought to length n by repeating its last entry. -/
def repeatLast {α : Type} (l : List α) (n : Nat) : List α :=
  match l.getLast? with
  | none => []
  | some a => l.take n ++ List.replicate (n - l.length) a

/-- What goes into a segment's slot. -/
inductive SlotFill where
  | pictures (p : List (List (List (List Byte))))
  | filled
  | undefined

/-- The bytes of a slot: (virtual address, byte). `free` gives what the rules leave undefined (log 11). -/
def slotBytes (b : Batch) (r : List Byte) (fill : SlotFill) (free : Nat → Byte) : List (Nat × Byte) :=
  let es := slotElems b (rqSlot r) (rqFrames r)
  let n := outBytes b.recipe
  (List.range es.length).flatMap fun i =>
    let e := es.getD i ([], 0)
    let other := (upFrom (i * n) n).map free
    match fill with
    | .pictures p => pairs e.2 (elemAt b.recipe p e.1 other)
    | .filled => pairs e.2 (fillElem b.recipe)
    | .undefined => pairs e.2 other

/-- The status of a segment with condition m under an error policy (R291); `fault` is the status of an address fault. -/
def segStatus (pol m : Nat) (fault : Byte) : Byte :=
  let own : Byte :=
    if m = 5 then Code.timeout else if m = 8 then Code.eccUncorr else if m = 12 then fault else Code.badParam
  if m = 0 then Code.ok
  else if pol = 1 then Code.okDegraded
  else if fatalDres.contains m then own
  else if pol = 0 then Code.okDegraded else Code.aborted

/-- How a segment ends. -/
structure SegEnd where
  status : Byte
  dres : Nat
  outpic : Nat
  conc : Nat
  trc : Nat
  fg : Bool
  il : Bool
  /-- The faulting address of DRES 12. -/
  va : Nat
  deriving DecidableEq, Repr

/-- The status record (R294). -/
def statRecord (r : List Byte) (e : SegEnd) (d : Nat) : List Byte :=
  leBytes 8 (rqSample r) ++
  leBytes 8 (e.status.toNat * 2 ^ 56 + e.dres * 2 ^ 48 + e.outpic % 65536 * 2 ^ 32 + min e.conc 65535 * 2 ^ 16 + e.trc % 256 * 2 ^ 8 +
    b2n e.fg * 2 ^ 7 + b2n e.il * 2 ^ 6 + d % 64)

/-- What keeps an address from being written at all: its store is off, or its stack is shut. -/
def shutCode (s : State) (pa : Nat) : Option Byte :=
  match region pa with
  | .ws c _ => if s.coreOn c then none else some Code.xlate
  | .hbm k _ => (s.stack k).gate
  | _ => none

/-- A segment's end with a further condition met while its slot is written: the lowest is recorded, and the table's
status for the condition unless one is already there that software must not take for a usable slot (log 80). -/
def SegEnd.also (e : SegEnd) (pol m : Nat) (c : Byte) (va : Nat) : SegEnd :=
  { e with
    status := if e.dres = 12 ∨ (pol = 2 ∧ e.dres ≠ 0) then e.status else segStatus pol m c
    dres := if e.dres = 0 then m else min e.dres m
    outpic := 0
    va := if m = 12 ∧ e.dres ≠ 12 then va else e.va }

/-- A segment's slot is written. An address that cannot be translated or written leaves it unwritten under DRES 12; an
uncorrectable error stops the writing and, unless the policy is STOP, has the slot filled (R291, R292). -/
def writeSlot (s : State) (b : Batch) (r : List Byte) (fill : SlotFill) (e : SegEnd) : State × SegEnd :=
  let pol := rqErrpol r
  let n := (slotElems b (rqSlot r) (rqFrames r)).length * outBytes b.recipe
  let base := s.free
  let bytes (f : SlotFill) : List (Nat × Byte) := slotBytes b r f fun i => Config.freeByte (base + i)
  let bs := bytes fill
  match xlate s b.ctx [] (bs.map (·.1)) with
  | (s, .err c _ va) => (s, e.also pol 12 c va)
  | (s, .ok xl) =>
    let put (f : SlotFill) : List (Nat × Byte) := (bytes f).map fun p => (viaXl xl p.1, p.2)
    match bs.find? fun p => (shutCode s (viaXl xl p.1)).isSome with
    | some p => (s, e.also pol 12 ((shutCode s (viaXl xl p.1)).getD 0) p.1)
    | none =>
      match writeStop { s with free := s.free + n } (put fill) with
      | (s, none) => (s, e)
      | (s, some c) => (if pol = 2 then s else (writeCheck s (put .filled)).1, e.also pol (dataDres c) c 0)

/-- The share of decode core d (R297, R299): stack, offset and bytes. -/
def dpbShare (s : State) (d : Nat) : Nat × Nat × Nat :=
  let x := s.ingest.dpb (d / 32)
  let sz := x.size.toNat * 0x100000
  (dpStack (d / 32) x.stack, x.base.toNat * 0x10000 + d % 32 * sz, sz)

/-- Reading decoded pictures back (DRES 8): a marked sector of the share, or a closed stack, fails; the next segment
writes its pictures anew. -/
def dpbCheck (s : State) (d : Nat) : State × Bool :=
  let (k, off, n) := dpbShare s d
  let x := s.stack k
  let inShare (p : Nat × Bool) : Bool := decide (off ≤ p.1 * 32) && decide (p.1 * 32 < off + n)
  let marked := ((x.poison ++ x.uncorr).filter inShare).map fun p => hbmPa k (p.1 * 32)
  if x.gate.isSome then (s, true)
  else match readCheck s marked with
    | (s, none) => (s, false)
    | (s, some _) =>
      (s.modStack k fun y => { y with poison := y.poison.filter fun p => !inShare p, uncorr := y.uncorr.filter fun p => !inShare p },
       true)

/-- The end of a segment under its error policy, and its slot. -/
def runSegment (s : State) (b : Batch) (r : List Byte) (d : Nat) (pl : SegPlan) : State × SegEnd :=
  let (s, dpbBad) := dpbCheck s d
  let met := pl.met ++ (if dpbBad && !pl.met.contains 10 then [8] else [])
  let m := lowest met
  let pol := rqErrpol r
  let fatal := met.any fatalDres.contains
  let fill : SlotFill :=
    if m ≠ 0 ∧ pol = 2 then .undefined
    else if (m ≠ 0 ∧ pol = 1) ∨ fatal then .filled
    else .pictures (repeatLast (pl.outs.map (outPicture b.recipe pl.info (rqCrop r) (rqFlip r))) (rqFrames r))
  let st := segStatus pol m 0
  let st := if pol = 0 ∧ fatal ∧ st = Code.ok then Code.okDegraded else st
  let outpic := match fill with | .pictures _ => pl.outs.length | _ => 0
  writeSlot s b r fill ⟨st, m, outpic, pl.conc, pl.info.transfer.getD 2, pl.info.grain, pl.interlaced, 0⟩

/-- A segment whose source cannot be reached (DRES 12) or read (DRES 8). -/
def faultSegment (s : State) (b : Batch) (r : List Byte) (m : Nat) (code : Byte) (va : Nat) : State × SegEnd :=
  let pol := rqErrpol r
  writeSlot s b r (if pol = 2 then .undefined else .filled) ⟨segStatus pol m code, m, 0, 0, 2, false, false, if m = 12 then va else 0⟩

/-- The requests of a stopped batch that have not started complete with E_ABORTED (R293). -/
def Batch.stop (b : Batch) : Batch :=
  { b with
    done := (List.range (b.reqs.length - b.next)).foldl (fun t i => put none (b.next + i) (some Code.aborted) t) b.done
    next := max b.next b.reqs.length }

/-- IFLTk of a failed segment (R299). -/
def noteIflt (s : State) (k : Nat) (e : SegEnd) : State :=
  if isErr e.status then
    let f : Iflt := ⟨e.status, e.dres, if e.dres = 12 then e.va % 2 ^ 48 else 0⟩
    { s with ingest := if k = 0 then { s.ingest with iflt0 := f } else { s.ingest with iflt1 := f } }
  else s

/-- The segment on core d of batch b ends: record, IFLTk, and the batch's stop. -/
def endSegment (s : State) (k : Nat) (b : Batch) (g : SegRun) (d : Nat) (r : List Byte) (e : SegEnd) : State :=
  let s := (writeStop s ((pairs (b.stat.getD g.idx 0) (statRecord r e d)).map fun p => (viaXl b.xl p.1, p.2))).1
  let s := noteIflt s k e
  let b := { b with done := put none g.idx (some e.status) b.done }
  let b := if rqErrpol r = 2 ∧ isErr e.status then b.stop else b
  let s := (setBatch s k b).tally 5 0x30 k 0 e.outpic
  let s := if e.status = Code.ok ∨ e.status = Code.okEmpty then s else s.tally 5 0x31 k 0 1
  { s with ingest := { s.ingest with segs := put none d none s.ingest.segs } }

/-- A segment runs to its end. One that waits for a host page stays (R279, R444). A source byte that cannot be read ends
it only where decoding asks for that byte (R283). -/
def completeSegment (s : State) (k : Nat) (b : Batch) (g : SegRun) (d : Nat) : State :=
  let r := b.reqs.getD g.idx []
  if !rqLive r then endSegment s k b g d r ⟨Code.okEmpty, 0, 0, 0, 2, false, false, 0⟩
  else
    match readSource s b.ctx r with
    | (s, .wait) => s
    | (s, .fault m c va) => let q := faultSegment s b r m c va; endSegment q.1 k b g d r q.2
    | (s, .ok params source pas bad) =>
      let pl := segPlan r b.recipe params source (dpbShare s d).2.2
      let stop := if pl.short then bad else none
      let (s, c) := readCheck s (match stop with | some q => pas ++ [q.1] | none => pas.take pl.read)
      let q := match stop with
        | some q => let c := c.getD Code.eccUncorr; faultSegment s b r (dataDres c) c q.2
        | none => runSegment s b r d pl
      endSegment q.1 k b g d r q.2

/-- SEGMENT_COMPLETE (R294). -/
def execSegmentComplete (d : Nat) (s : State) : Res :=
  .next (match look none d s.ingest.segs with
    | none => s
    | some g =>
      match findBatch s g.batch with
      | some (k, b) => if s.agg.safe then s else completeSegment s k b g d
      | none => s)

/-! ### Completion (R295) -/

/-- The status of each request, in order. -/
def Batch.statuses (b : Batch) : List Byte := (List.range b.reqs.length).map fun i => (look none i b.done).getD Code.ok

/-- A batch stopped under STOP: some request with ERRPOL 2 has failed. -/
def Batch.stopped (b : Batch) : Bool :=
  (List.range b.reqs.length).any fun i => rqErrpol (b.reqs.getD i []) == 2 && isErr ((look none i b.done).getD Code.ok)

/-- The status of a batch. -/
def Batch.status (b : Batch) : Byte :=
  let ss := b.statuses
  let bad (x : Byte) : Bool := x != Code.ok && x != Code.okEmpty
  match if b.stopped then ss.find? isErr else none with
  | some c => c
  | none => if ss.any bad then Code.okDegraded else if ss.all (· == Code.okEmpty) then Code.okEmpty else Code.ok

/-- Segments that ended with a status other than OK or OK_EMPTY. -/
def Batch.badCount (b : Batch) : Nat := (b.statuses.filter fun x => x != Code.ok && x != Code.okEmpty).length

/-- BATCH_COMPLETE. -/
def execBatchComplete (b : Nat) (s : State) : Res :=
  .next (match findBatch s b with
    | some (k, x) =>
      if x.granted ∧ !s.agg.safe ∧ ((List.range x.reqs.length).all fun i => (look none i x.done).isSome) then
        batchPost (reportBatch (removeBatch s k x) x x.status x.badCount) x.hdr
      else s
    | none => s)

/-! ### INGEST_ABORT (R296) -/

/-- The packet's number of an SQ's sequence. -/
def findPkt (s : State) (q n : Nat) : Option Nat :=
  (s.host.pkts.find? fun e => match e.2 with
    | some p => decide (p.sq = q) && decide (p.seq = n) && !p.stray
    | none => false).map (·.1)

/-- The batch of an earlier packet of the context is aborted. -/
def ingestAbort (s : State) (pid : Nat) (p : Pkt) : State :=
  let q := fld (p.w 1) 43 32
  if !holdsSq s p.ctx q then completePkt s pid Code.perm 0
  else
    let s := match findPkt s q (fld (p.w 1) 15 0) with
      | some n => abortBatches s Code.aborted fun b => decide (b.pid = some n)
      | none => s
    completePkt s pid Code.ok 0

/-- INGEST_ABORT. -/
def execIngestAbort (q : Nat) (s : State) : Res := .next (dispatch opIngestAbort noIngest ingestAbort q s)

end Sys2Proof.Machine
end

