-- ==== Sys2Proof/Machine/Samples.lean ====
section
/-! DEFINITION. Sample streams and the shuffle engine (R301 to R318). -/

namespace Sys2Proof.Machine

/-! ### The keyed permutation and the draws (R305 to R307) -/

/-- The smallest even m from 2 on with 2^m at least N, halved. -/
def halfBits (n : Nat) : Nat := ((List.range 32).find? fun h => decide (1 ≤ h) && decide (n ≤ 2 ^ (2 * h))).getD 32

/-- Round r of the Feistel network on (L, R). -/
def feistelRound (key e h r : Nat) (x : Nat × Nat) : Nat × Nat :=
  (x.2, x.1 ^^^ ((philox key x.2 0 e (0x53480000 + r)).getD 0 0 % 2 ^ h))

/-- The network on [0, 2^2h). -/
def feistel (key e h x : Nat) : Nat :=
  let y := (List.range 8).foldl (fun y r => feistelRound key e h r y) (x / 2 ^ h, x % 2 ^ h)
  y.1 * 2 ^ h + y.2

/-- Cycle walking; `fuel` bounds it by the size of the network. -/
def walkPerm (key e h n : Nat) : Nat → Nat → Nat
  | 0, x => x
  | fuel + 1, x => if x < n then x else walkPerm key e h n fuel (feistel key e h x)

/-- π(K, e, i) for N records (R305). -/
def perm (key e n i : Nat) : Nat :=
  let h := halfBits n
  walkPerm key e h n (2 ^ (2 * h)) (feistel key e h i)

/-- The draws for sample s in epoch e (R306). -/
def augDraws (key e s : Nat) : List Nat := philox key (s % 2 ^ 32) (s / 2 ^ 32 % 256) e 0x41470000

/-! ### Images and templates (R304, R308) -/

/-- The entry's 64 B image (R308). -/
def StEntry.image (e : StEntry) : List Byte :=
  leBytes 8 (e.st.code * 2 ^ 60 + e.ctx % 32 * 2 ^ 55 + b2n e.seqGen * 2 ^ 54 + b2n e.aug * 2 ^ 53 + e.manva) ++
  leBytes 8 (e.endep * 2 ^ 40 + e.n) ++ leBytes 8 e.key.toNat ++ leBytes 8 (e.epoch * 2 ^ 40 + e.index) ++
  leBytes 8 e.tmplva ++ leBytes 8 e.seqCtr.toNat ++ leBytes 8 e.seqBase.toNat ++
  leBytes 8 (e.lastSts.toNat * 2 ^ 56 + e.outb % 256 * 2 ^ 48)

/-- The fields that an image gives an entry; STATE, CTX, LASTSTS and OUTB are ignored. -/
def StEntry.ofImage (old : StEntry) (b : List Byte) : StEntry :=
  let w (i : Nat) : Nat := rcW b i
  { old with
    seqGen := bitOf (w 0) 54, aug := bitOf (w 0) 53, manva := fld (w 0) 47 0, endep := fld (w 1) 63 40, n := fld (w 1) 39 0
    key := BitVec.ofNat 64 (w 2), epoch := fld (w 3) 63 40, index := fld (w 3) 39 0, tmplva := fld (w 4) 47 0
    seqCtr := BitVec.ofNat 64 (w 5), seqBase := BitVec.ofNat 64 (w 6) }

/-- E: ENDEP, 2^24 when 0. -/
def StEntry.ende (e : StEntry) : Nat := if e.endep = 0 then 2 ^ 24 else e.endep
/-- p (R301). -/
def StEntry.pos (e : StEntry) : Nat := e.epoch * e.n + e.index
/-- The end position E × N. -/
def StEntry.last (e : StEntry) : Nat := e.ende * e.n
/-- The data position as stored for a linear one (R301, R311). -/
def StEntry.setPos (e : StEntry) (p : Nat) : StEntry :=
  if p = e.last then { e with epoch := e.ende - 1, index := e.n } else { e with epoch := p / e.n, index := p % e.n }

/-- Rows 2 and 3 of R316. -/
def stImageOk (b : List Byte) : Bool :=
  let e := StEntry.free.ofImage b
  decide (fld (rcW b 0) 52 48 = 0) && decide (fld (rcW b 4) 63 48 = 0) && decide (fld (rcW b 7) 47 0 = 0) &&
  decide (e.n ≠ 0) && decide (e.index ≤ e.n) && (decide (e.index ≠ e.n) || decide (e.epoch + 1 = e.ende)) &&
  decide (e.epoch < e.ende)

def tmNslot (t : List Byte) : Nat := fld (rcW t 8) 63 32
def tmBmax (t : List Byte) : Nat := fld (rcW t 8) 31 24
def tmRelva (t : List Byte) : Nat := fld (rcW t 9) 47 0
def tmSeqva (t : List Byte) : Nat := fld (rcW t 10) 47 0
def tmJx (t : List Byte) : Nat := fld (rcW t 11) 63 48
def tmJy (t : List Byte) : Nat := fld (rcW t 11) 47 32
def tmJt (t : List Byte) : Nat := fld (rcW t 11) 31 16
def tmFlipp (t : List Byte) : Nat := fld (rcW t 12) 63 32

/-- The stream's own words of a template (R304). -/
def tmOk (t : List Byte) : Bool :=
  decide (fld (rcW t 8) 23 0 = 0) && decide (fld (rcW t 9) 63 48 = 0) && decide (fld (rcW t 10) 63 48 = 0) &&
  decide (fld (rcW t 11) 15 0 = 0) && decide (fld (rcW t 12) 31 0 = 0) && zeroAt t 104 24 &&
  decide (bhNreq t ≤ tmNslot t) && decide (1 ≤ tmBmax t)

/-! ### Building a batch (R302, R303, R307) -/

/-- The manifest record of position q. -/
def recordOf (e : StEntry) (q : Nat) : Nat := perm e.key.toNat (q / e.n) e.n (q % e.n)

/-- A crop origin with its jitter; beyond the field's 16 bits it stays at their end, outside every picture as the sum is
(R307). -/
def jitter (base draw j : Nat) : Nat := min (base + 2 * (draw * (j + 1) / 2 ^ 32)) 65535

/-- A manifest record as the request of position q (R303, R307). -/
def requestAt (e : StEntry) (t rec : List Byte) (q : Nat) : List Byte :=
  let ep := q / e.n
  let s := recordOf e q
  let w (i : Nat) : Nat := rcW rec i
  let y := augDraws e.key.toNat ep s
  let d (i : Nat) : Nat := y.getD i 0
  let (lead, cx, cy, flip) :=
    if e.aug then
      (min (rqLead rec + d 3 * (tmJt t + 1) / 2 ^ 32) 65535, jitter (rqCrop rec).x (d 0) (tmJx t),
       jitter (rqCrop rec).y (d 1) (tmJy t), rqFlip rec != decide (d 2 < tmFlipp t))
    else (rqLead rec, (rqCrop rec).x, (rqCrop rec).y, rqFlip rec)
  leBytes 8 (w 0) ++ leBytes 8 (setFld (w 1) 15 0 lead) ++ leBytes 8 (setFld (w 2) 31 0 (q % tmNslot t)) ++
  leBytes 8 (setFld (setFld (w 3) 63 48 cx) 47 32 cy) ++ leBytes 8 (setFld (w 4) 63 63 (b2n flip)) ++ leBytes 8 (w 5) ++
  leBytes 8 (ep * 2 ^ 40 + s) ++ leBytes 8 (w 7)

/-- The draw records of the sequential generator: (virtual address, byte) (R311). -/
def seqWrites (e : StEntry) (t : List Byte) (p n : Nat) : List (Nat × Byte) :=
  (List.range n).flatMap fun j =>
    let c := (e.seqCtr + BitVec.ofNat 64 j).toNat
    pairs (tmSeqva t + 16 * ((p + j) % tmNslot t))
      ((philox e.key.toNat (c % 2 ^ 32) (c / 2 ^ 32) 0 0x53510000).flatMap (leBytes 4))

/-! ### Entries (R308 to R310) -/

/-- Device address of an entry. -/
def entryPa (s : State) (n : Nat) : Nat := hbmPa s.ingest.sttStack (s.ingest.sttBase.toNat * 0x10000) + 64 * n

/-- An entry is read: one that cannot be read puts its stream in ERROR (R310). -/
def fetchEntry (s : State) (n : Nat) : State :=
  let e := s.stEntry n
  if e.st = .free then s
  else match readCheck s (upFrom (entryPa s n) 64) with
    | (s, none) => s
    | (s, some c) => s.setStEntry n { e with st := .error, lastSts := c }

/-- An entry is written whole. -/
def storeEntry (s : State) (n : Nat) (e : StEntry) : State :=
  (writeCheck (s.setStEntry n e) (pairs (entryPa s n) e.image)).1

/-- Entries a context holds (R317). -/
def sttUsed (s : State) (ctx : Nat) : Nat :=
  (s.ingest.streams.filter fun p => decide (p.2.st ≠ .free) && decide (p.2.ctx = ctx)).length

/-- STQn.LIMIT. -/
def sttLimit (s : State) (ctx : Nat) : Nat := look 0 ctx s.ingest.stq

/-- Some stream of the context is in MISMATCH (R315). -/
def sttHeld (s : State) (ctx : Nat) : Bool :=
  s.ingest.streams.any fun p => decide (p.2.st = .mismatch) && decide (p.2.ctx = ctx)

/-! ### STT_SERVE (R311, R312) -/

/-- The stream fails: ERROR with a status. -/
def sttFail (s : State) (n : Nat) (c : Byte) : State := s.setStEntry n { s.stEntry n with st := .error, lastSts := c }

/-- A batch of n requests from position p is built, checked and submitted. -/
def sttIssue (s : State) (stid : Nat) (e : StEntry) (t : List Byte) (p n : Nat) : State :=
  let h := t.take 64
  let qs := upFrom p n
  let stat := qs.map fun q => bhStatva h + 16 * (q % tmNslot t)
  match readBatch s e.ctx h (qs.map fun q => e.manva + 64 * recordOf e q) stat with
  | (s, .err c) => sttFail s stid c
  | (s, .ok rc od recs xl) =>
    let reqs := (List.range n).map fun j => requestAt e t (recs.getD j []) (p + j)
    match batchCheck s.variant h rc od reqs with
    | some c =>
      if c = Code.okEmpty then batchPost (s.setStEntry stid { e with lastSts := c }) h else sttFail s stid c
    | none =>
      if queueFull s (clusterFor s.ingest h) then s
      else
        let ws := if e.seqGen then seqWrites e t p n else []
        match xlate s e.ctx [] (ws.map (·.1)) with
        | (s, .err c _ _) => sttFail s stid c
        | (s, .ok wl) =>
          match writeStop s (ws.map fun w => (viaXl wl w.1, w.2)) with
          | (s, some c) => sttFail s stid c
          | (s, none) =>
            let s := enqueueBatch s none (some stid) e.ctx h rc od reqs stat xl
            let e := { e with outb := e.outb + 1, seqCtr := if e.seqGen then e.seqCtr + BitVec.ofNat 64 n else e.seqCtr }
            s.setStEntry stid (e.setPos (p + n))

/-- One service of a stream in RUN. -/
def sttServe (s : State) (stid : Nat) (e : StEntry) : State :=
  let p := e.pos
  if e.last ≤ p then s.setStEntry stid { e with st := .done }
  else if sttHeld s e.ctx then s
  else match readVa s e.ctx e.tmplva 128 with
    | (s, .inr c) => sttFail s stid c
    | (s, .inl t) =>
      if !tmOk t then sttFail s stid Code.badParam
      else if tmBmax t ≤ e.outb then s
      else match readVa s e.ctx (tmRelva t) 8 with
        | (s, .inr c) => sttFail s stid c
        | (s, .inl r) =>
          let n := min (bhNreq t) (e.last - p)
          if p + n ≤ tmNslot t + fieldAt r 0 8 then sttIssue s stid e t p n else s

/-- The next stream in RUN, in round-robin order of STID. -/
def nextRun (g : Ingest) : Option Nat :=
  let runs := (g.streams.filter fun p => decide (p.2.st = .run)).map (·.1)
  match runs.find? fun n => decide (g.sttPtr ≤ n) with
  | some n => some n
  | none => runs.head?

/-- STT_SERVE. -/
def execSttServe (s : State) : Res :=
  .next (match nextRun s.ingest with
    | none => s
    | some n =>
      let s := { s with ingest := { s.ingest with sttPtr := (n + 1) % 262144 } }
      let s := fetchEntry s n
      let e := s.stEntry n
      if e.st = .run ∧ !s.agg.safe then sttServe s n e else s)

/-! ### Stream commands (R314 to R316, R318) -/

/-- A command to a stream of its own context that is in an allowed state. -/
def stCommand (allowed : List StState) (run : State → Nat → Pkt → Nat → StEntry → State) (s : State) (pid : Nat) (p : Pkt) : State :=
  let n := fld (p.w 1) 17 0
  if !s.ingest.sttLock then completePkt s pid Code.badParam 0
  else if (s.stEntry n).st = .free ∨ (s.stEntry n).ctx ≠ p.ctx then completePkt s pid Code.perm 0
  else
    let s := fetchEntry s n
    let e := s.stEntry n
    if !allowed.contains e.st then completePkt s pid Code.badParam 0
    else run s pid p n e

/-- ST_OPEN takes the lowest FREE entry for a checked image. -/
def stOpen (s : State) (pid : Nat) (p : Pkt) : State :=
  if !s.ingest.sttLock then completePkt s pid Code.badParam 0
  else match readVa s p.ctx (fld (p.w 2) 47 0) 64 with
    | (s, .inr c) => completePkt s pid c 0
    | (s, .inl b) =>
      if !stImageOk b then completePkt s pid Code.badParam 0
      else if sttLimit s p.ctx ≤ sttUsed s p.ctx then completePkt s pid Code.quota 0
      else match (List.range 262144).find? fun n => decide ((s.stEntry n).st = .free) with
        | none => completePkt s pid Code.quota 0
        | some n =>
          let e := { (StEntry.free.ofImage b) with st := .idle, ctx := p.ctx }
          completePkt (storeEntry s n e) pid Code.ok (BitVec.ofNat 32 n)

/-- ST_OPEN. -/
def execStOpen (q : Nat) (s : State) : Res := .next (dispatch (opSt 0) noIngest stOpen q s)

/-- ST_START checks the template under R304 and R276; one that cannot be read leaves ERROR (R309). -/
def stStart (s : State) (pid : Nat) (p : Pkt) (n : Nat) (e : StEntry) : State :=
  match readVa s p.ctx e.tmplva 128 with
  | (s, .inr c) => completePkt (sttFail s n c) pid c 0
  | (s, .inl t) =>
    if !tmOk t then completePkt s pid Code.badParam 0
    else
      let h := t.take 64
      match readBatch s p.ctx h [] [] with
      | (s, .err c) => completePkt s pid c 0
      | (s, .ok rc od _ _) =>
        match batchCheck s.variant h rc od [] with
        | some c =>
          let s := completePkt s pid c 0
          if c = Code.okEmpty then batchPost s h else s
        | none => completePkt (s.setStEntry n { e with st := if e.last ≤ e.pos then .done else .run }) pid Code.ok 0

/-- ST_START. -/
def execStStart (q : Nat) (s : State) : Res := .next (dispatch (opSt 1) noIngest (stCommand [.idle] stStart) q s)

/-- A draining stream with nothing outstanding is IDLE, and its stops complete. -/
def drained (s : State) (n : Nat) (e : StEntry) : State :=
  if e.st = .drain ∧ e.outb = 0 then
    e.stops.foldl (fun s pid => completePkt s pid Code.ok 0) (s.setStEntry n { e with st := .idle, stops := [] })
  else s

/-- ST_STOP: DRAIN; it completes once OUTB is 0 and the stream IDLE. -/
def stStop (s : State) (pid : Nat) (_ : Pkt) (n : Nat) (e : StEntry) : State :=
  s.setStEntry n { e with st := .drain, stops := e.stops ++ [pid] }

/-- ST_STOP. -/
def execStStop (q : Nat) (s : State) : Res := .next (dispatch (opSt 2) noIngest (stCommand [.run, .drain] stStop) q s)

/-- STREAM_DRAINED. -/
def execStreamDrained (stid : Nat) (s : State) : Res := .next (drained s stid (s.stEntry stid))

/-- ST_SAVE writes the entry as an image. -/
def stSave (s : State) (pid : Nat) (p : Pkt) (_ : Nat) (e : StEntry) : State :=
  match writeSpace s p.ctx false (fld (p.w 2) 47 0) e.image with
  | (s, .err c _) => completePkt s pid c 0
  | (s, _) => completePkt s pid Code.ok 0

/-- ST_SAVE. -/
def execStSave (q : Nat) (s : State) : Res := .next (dispatch (opSt 3) noIngest (stCommand [.idle, .done, .error] stSave) q s)

/-- ST_RESTORE replaces the entry; a counter that disagrees with the data position leaves MISMATCH (R315). -/
def stRestore (s : State) (pid : Nat) (p : Pkt) (n : Nat) (e : StEntry) : State :=
  match readVa s p.ctx (fld (p.w 2) 47 0) 64 with
  | (s, .inr c) => completePkt s pid c 0
  | (s, .inl b) =>
    if !stImageOk b then completePkt s pid Code.badParam 0
    else
      let e := e.ofImage b
      let d := e.seqCtr - (e.seqBase + BitVec.ofNat 64 e.pos)
      if e.seqGen ∧ d ≠ 0 then
        completePkt (storeEntry s n { e with st := .mismatch }) pid Code.restoreMismatch (d.setWidth 32)
      else completePkt (storeEntry s n { e with st := .idle }) pid Code.ok 0

/-- ST_RESTORE. -/
def execStRestore (q : Nat) (s : State) : Res :=
  .next (dispatch (opSt 4) noIngest (stCommand [.idle, .done, .error, .mismatch] stRestore) q s)

/-- ST_RESYNC: SEQCTR = SEQBASE + p. -/
def stResync (s : State) (pid : Nat) (_ : Pkt) (n : Nat) (e : StEntry) : State :=
  completePkt (s.setStEntry n { e with st := .idle, seqCtr := e.seqBase + BitVec.ofNat 64 e.pos }) pid Code.ok 0

/-- ST_RESYNC. -/
def execStResync (q : Nat) (s : State) : Res := .next (dispatch (opSt 5) noIngest (stCommand [.idle, .mismatch] stResync) q s)

/-- A stream's entry becomes FREE; batches it has out go on without it. -/
def closeStream (s : State) (n : Nat) : State :=
  let cut (l : List Batch) : List Batch := l.map fun b => if b.stid = some n then { b with stid := none } else b
  let s := storeEntry s n .free
  { s with ingest := { s.ingest with q0 := cut s.ingest.q0, q1 := cut s.ingest.q1 } }

/-- ST_CLOSE. -/
def stClose (s : State) (pid : Nat) (_ : Pkt) (n : Nat) (_ : StEntry) : State := completePkt (closeStream s n) pid Code.ok 0

/-- ST_CLOSE. -/
def execStClose (q : Nat) (s : State) : Res :=
  .next (dispatch (opSt 6) noIngest (stCommand [.idle, .done, .error, .mismatch] stClose) q s)

/-- RECLAIM's kind 1 and a teardown: outstanding batches of a context's streams are aborted and the entries become
FREE; the stops that wait end with a status. The answer counts the entries (R318, R453, R471). -/
def reclaimStreams (s : State) (ctx : Nat) (status : Byte) : State × Nat :=
  let ns := (s.ingest.streams.filter fun p => decide (p.2.st ≠ .free) && decide (p.2.ctx = ctx)).map (·.1)
  (ns.foldl (fun s n =>
    let s := abortBatches s Code.aborted fun b => decide (b.stid = some n)
    let s := (s.stEntry n).stops.foldl (fun s pid => completePkt s pid status 0) s
    closeStream s n) s, ns.length)

end Sys2Proof.Machine
end

