-- ==== Sys2Proof/Machine/Elementary.lean ====
section
/-! DEFINITION. The elementary functions that the built-in slots and the row-statistics unit name (R143, R157, R158), as
fixed-point numbers of 640 fraction bits. A value is off its function by less than 2^-600, far below every bound of the
spec. -/

namespace Sys2Proof.Machine

/-! ### Fixed point -/

/-- 1.0. -/
def fxOne : Nat := 2 ^ 640

def fxMul (a b : Nat) : Nat := a * b / fxOne
def fxDiv (a b : Nat) : Nat := if b = 0 then 0 else a * fxOne / b

/-- The largest r below 2^n with r · r not above v. -/
def isqrtBits : Nat → Nat → Nat → Nat
  | 0, r, _ => r
  | n + 1, r, v => let c := r + 2 ^ n; isqrtBits n (if c * c ≤ v then c else r) v

/-- √ of a fixed-point number. -/
def fxSqrt (a : Nat) : Nat := let v := a * fxOne; isqrtBits (Nat.log2 v / 2 + 1) 0 v

/-- t · (1 + r/n + r²/(n(n + 1)) + …), the exponential series from its term t. -/
def expTerms : Nat → Nat → Nat → Nat → Nat
  | 0, _, _, _ => 0
  | k + 1, n, t, r => t + expTerms k (n + 1) (fxMul t r / n) r

/-- t/n + t·z/(n + 2) + …, the series of the inverse hyperbolic tangent from its term t, with z the square. -/
def atanhTerms : Nat → Nat → Nat → Nat → Nat
  | 0, _, _, _ => 0
  | k + 1, n, t, z => t / n + atanhTerms k (n + 2) (fxMul t z) z

/-- t/n − t·z/(n + 2) + …, the series of the inverse tangent. -/
def atanTerms : Nat → Nat → Nat → Nat → Int
  | 0, _, _, _ => 0
  | k + 1, n, t, z => (t / n : Nat) - atanTerms k (n + 2) (fxMul t z) z

/-- t − t·z/(n(n + 1)) + …, the series of the sine and the cosine. -/
def trigTerms : Nat → Nat → Nat → Nat → Int
  | 0, _, _, _ => 0
  | k + 1, n, t, z => (t : Int) - trigTerms k (n + 2) (fxMul t z / (n * (n + 1))) z

/-- t + t·z/n + t·z²/(n(n + 2)) + …. -/
def oddTerms : Nat → Nat → Nat → Nat → Nat
  | 0, _, _, _ => 0
  | k + 1, n, t, z => t + oddTerms k (n + 2) (fxMul t z / n) z

/-! ### Constants -/

/-- 2 · artanh((u − 1)/(u + 1)) = ln u, for u from 1 to 2. -/
def fxLn (u : Nat) : Nat :=
  let z := fxDiv (u - fxOne) (u + fxOne)
  2 * atanhTerms 210 1 z (fxMul z z)

/-- ln 2. -/
def fxLn2 : Nat := fxLn (2 * fxOne)

/-- π, by Machin's formula. -/
def fxPi : Nat :=
  let at' (d : Nat) : Int := atanTerms 150 1 (fxOne / d) (fxOne / (d * d))
  (16 * at' 5 - 4 * at' 239).toNat

/-! ### Functions of a fixed-point argument -/

/-- e^x: a mantissa from 1 to 2 and a power of two. -/
def fxExp (x : Int) : Nat × Int :=
  let k := x / (fxLn2 : Int)
  (expTerms 170 1 fxOne (x - k * (fxLn2 : Int)).toNat, k)

/-- e^-a for a magnitude a. -/
def fxExpNeg (a : Nat) : Nat := let r := fxExp (- (a : Int)); r.1 / 2 ^ (- r.2).toNat

/-- 2^r for r from 0 to 1. -/
def fxExp2 (r : Nat) : Nat := expTerms 170 1 fxOne (fxMul r fxLn2)

/-- log2 u for u from 1 to 2. -/
def fxLog2 (u : Nat) : Nat := fxDiv (fxLn u) fxLn2

/-- erf z of a magnitude z with its square. -/
def fxErf (z z2 : Nat) : Nat :=
  fxDiv (2 * fxMul (fxExpNeg z2) (oddTerms 1200 3 z (2 * z2))) (fxSqrt fxPi)

/-- σ(−a) for a magnitude a; σ(a) is the rest to 1. -/
def fxSigmoidNeg (a : Nat) : Nat := let e := fxExpNeg a; fxDiv e (fxOne + e)

/-- tanh a. -/
def fxTanh (a : Nat) : Nat := let e := fxExpNeg (2 * a); fxDiv (fxOne - e) (fxOne + e)

/-- Φ(−a) for a magnitude a; Φ(a) is the rest to 1. -/
def fxPhiNeg (a : Nat) : Nat :=
  let z2 := fxMul a a / 2
  (fxOne - fxErf (fxSqrt z2) z2) / 2

/-- ln(1 + e^-a). -/
def fxSoftNeg (a : Nat) : Nat := fxLn (fxOne + fxExpNeg a)

/-- sin and cos of an angle from 0 to 2π. -/
def fxSin (a : Nat) : Int := trigTerms 130 2 a (fxMul a a)
def fxCos (a : Nat) : Int := trigTerms 130 1 fxOne (fxMul a a)

/-! ### Results -/

/-- A value known to within 2^-600: its nearest multiple of 2^-40 where it is that close to one, which is then its exact
value; else an inexact number. -/
structure Near where
  val : Dy
  exact : Bool

/-- The result v · 2^(k − 640). -/
def near (v k : Int) : Near :=
  let g : Int := 2 ^ 600
  let c := (v + g / 2) / g * g
  if (v - c).natAbs < 2 ^ 40 then ⟨dyOfInt c (k - 640) false, true⟩ else ⟨dyOfInt v (k - 640) false, false⟩

/-- A number as a fixed-point integer, exact for every number of an input format (R35). -/
def Dy.fx (d : Dy) : Int := if d.e < -640 then (d.atExp d.e) / 2 ^ (-640 - d.e).toNat else d.atExp (-640)

/-- The neighbours of a value at a quantum, as multiples of 2^q: the one toward zero, and whether the value lies
strictly between it and the next. -/
def Near.below (n : Near) (q : Int) : Nat × Bool :=
  let r := roundAt .rz n.val q
  (r.1, r.2 || !n.exact)

/-- The value to `bits` significant bits: the neighbour away from zero if `up`, unless it is exact. -/
def Near.round (n : Near) (bits : Nat) (up : Bool) : Dy :=
  if n.val.m = 0 then n.val
  else
    let q := n.val.log2 - (bits - 1 : Nat)
    let r := n.below q
    ⟨n.val.neg, if up && r.2 then r.1 + 1 else r.1, q⟩

/-- The table function of a built-in slot at a reduced argument (R143): its unreduced function on the segments. -/
def tableFn (n r : Nat) : Near :=
  match n with
  | 0 => near (fxExp2 r) 0
  | 1 => near (fxExp2 r) 0
  | 2 => near (fxLog2 r) 0
  | 3 => near (fxLog2 r) 0
  | 4 => near (fxDiv fxOne r) 0
  | 5 => near (fxDiv fxOne (fxSqrt r)) 0
  | 6 => near (fxSqrt r) 0
  | 7 => near (fxOne - fxSigmoidNeg r : Nat) 0
  | 8 => near (fxTanh r) 0
  | 9 => near (fxOne - fxPhiNeg r : Nat) 0
  | 10 => near (fxOne - fxSigmoidNeg r : Nat) 0
  | 11 => near (fxSoftNeg r) 0
  | 12 => near (fxErf r (fxMul r r)) 0
  | 13 => near (fxSin (2 * fxMul r fxPi)) 0
  | _ => near (fxCos (2 * fxMul r fxPi)) 0

/-- A mantissa from 1 to 4 and the even exponent of a positive number. -/
def Dy.mant4 (d : Dy) : Nat × Int :=
  let k := d.log2 / 2
  ((d.abs.scale (- (2 * k))).fx.toNat, k)

/-- A magnitude, no larger than a bound past which the rest of the function is below 2^-280. -/
def capped (a : Int) (b : Nat) : Nat := min a.natAbs (b * fxOne)

/-- The angle of a number, within one turn of 0. -/
def fxAngle (x : Int) : Nat := x.natAbs % (2 * fxPi)

/-- The function of a built-in slot at a finite argument of its domain (R143). -/
def builtinFn (n : Nat) (d : Dy) : Near :=
  let x := d.fx
  let neg : Bool := decide (x < 0)
  let sg (v : Nat) : Near := near (if neg then - (v : Int) else v) 0
  let times (v : Nat) : Near := near (x * (v : Int) / (fxOne : Int)) 0
  match n with
  | 0 => let r := fxExp (if neg then - (capped x 200 : Int) else capped x 200); near r.1 r.2
  | 1 =>
    let y : Int := if neg then - (capped x 300 : Int) else capped x 300
    let k := y / (fxOne : Int)
    near (fxExp2 (y - k * fxOne).toNat) k
  | 2 => near ((fxLn (d.abs.scale (- d.log2)).fx.toNat : Nat) + d.log2 * (fxLn2 : Int)) 0
  | 3 => near ((fxLog2 (d.abs.scale (- d.log2)).fx.toNat : Nat) + d.log2 * (fxOne : Int)) 0
  | 4 => let m := (d.abs.scale (- d.log2)).fx.toNat; let y := near (fxDiv fxOne m) (- d.log2)
         ⟨{ y.val with neg := d.neg }, y.exact⟩
  | 5 => let m := d.mant4; near (fxDiv fxOne (fxSqrt m.1)) (- m.2)
  | 6 => let m := d.mant4; near (fxSqrt m.1) m.2
  | 7 => let s := fxSigmoidNeg (capped x 200); near (if neg then s else fxOne - s : Nat) 0
  | 8 => sg (fxTanh (capped x 150))
  | 9 => let p := fxPhiNeg (capped x 20); times (if neg then p else fxOne - p)
  | 10 => let s := fxSigmoidNeg (capped x 200); times (if neg then s else fxOne - s)
  | 11 => near (max x 0 + (fxSoftNeg (capped x 200) : Int)) 0
  | 12 => let z := capped x 14; sg (fxErf z (fxMul z z))
  | 13 => let y := fxSin (fxAngle x); near (if neg then - y else y) 0
  | _ => near (fxCos (fxAngle x)) 0

end Sys2Proof.Machine
end

