-- ==== Sys2Proof/Machine/SfuOps.lean ====
section
/-! DEFINITION. Evaluation of function slots: images (R136 to R140, R145), the standard image (R143), the fast path
(R141) and the refined path (R144, R146), and the checks on an image (R142). -/

namespace Sys2Proof.Machine

/-! ### Slot images -/

/-- What an evaluation reads of a slot. -/
structure SlotView where
  /-- H0 to H7, the segments, the steps and the constants. -/
  h : Nat → Nat
  g : Nat → Nat
  u : Nat → Nat
  k : Nat → Nat
  /-- The loaded image; empty for the standard one. -/
  image : List Byte
  /-- The built-in slot whose program is known by its bound alone (R143). -/
  std : Option Nat

/-- The view of a loaded image (R136). -/
def imageView (bs : List Byte) : SlotView :=
  { h := fun i => fieldAt bs (8 * i) 8, g := fun i => fieldAt bs (64 + 8 * i) 8, u := fun i => fieldAt bs (320 + 8 * i) 8,
    k := fun i => fieldAt bs (832 + 4 * i) 4, image := bs, std := none }

/-- PRE of the built-in functions (R143). -/
def stdPre (n : Nat) : Nat := if n = 0 then 0x3FB8AA3B else if n = 13 ∨ n = 14 then 0x3E22F983 else 0x3F800000
/-- POSTC (R143). -/
def stdPostc (n : Nat) : Nat := if n = 2 then 0x3F317218 else if n = 3 ∨ n = 7 ∨ n = 9 ∨ n = 10 then 0x3F800000 else 0
/-- RED, POST, HEXP, MPLEN of slots 0 to 14 (R143). -/
def stdRed (n : Nat) : Nat := [2, 2, 3, 3, 3, 4, 4, 1, 1, 1, 1, 1, 1, 5, 5].getD n 0
def stdPost (n : Nat) : Nat := [1, 1, 3, 3, 2, 2, 1, 5, 4, 6, 6, 7, 4, 0, 0].getD n 0
def stdHexp (n : Nat) : Int := [-5, -5, -5, -5, -5, -3, -3, -2, -3, -3, -2, -2, -3, -5, -5].getD n 0
def stdMplen (n : Nat) : Nat := [12, 10, 14, 13, 6, 8, 9, 14, 16, 20, 15, 17, 18, 18, 18].getD n 0

/-- A special-value entry that takes a result with flags (R138). -/
def entryWord (flags : Byte) (result : Nat) : Nat := 2 ^ 63 + flags.toNat * 2 ^ 32 + result

/-- The special entries of the built-in functions for −Inf, +Inf, −0, +0 and negative finite inputs: the IEEE limits
(R143); 0: no entry. -/
def stdEntry (n cls : Nat) : Nat :=
  let nan := entryWord flagInv 0x7FC00000
  let pinf := 0x7F800000
  let ninf := 0xFF800000
  let one := entryWord 0 0x3F800000
  let zero (r : Nat) : Nat := if Config.zeroEntryOn n cls then entryWord 0 r else 0
  match n, cls with
  | 0, 0 => entryWord 0 0 | 0, 1 => entryWord 0 pinf | 0, 2 => one | 0, 3 => one
  | 1, 0 => entryWord 0 0 | 1, 1 => entryWord 0 pinf | 1, 2 => one | 1, 3 => one
  | 2, 1 => entryWord 0 pinf | 2, 2 => entryWord flagDz ninf | 2, 3 => entryWord flagDz ninf | 2, _ => nan
  | 3, 1 => entryWord 0 pinf | 3, 2 => entryWord flagDz ninf | 3, 3 => entryWord flagDz ninf | 3, _ => nan
  | 4, 0 => entryWord 0 0x80000000 | 4, 1 => entryWord 0 0
  | 4, 2 => entryWord flagDz ninf | 4, 3 => entryWord flagDz pinf
  | 5, 1 => entryWord 0 0 | 5, 2 => entryWord flagDz ninf | 5, 3 => entryWord flagDz pinf | 5, _ => nan
  | 6, 1 => entryWord 0 pinf | 6, 2 => entryWord 0 0x80000000 | 6, 3 => entryWord 0 0 | 6, _ => nan
  | 7, 0 => entryWord 0 0 | 7, 1 => one | 7, 2 => entryWord 0 0x3F000000 | 7, 3 => entryWord 0 0x3F000000
  | 8, 0 => entryWord 0 0xBF800000 | 8, 1 => one
  | 9, 0 => entryWord 0 (if Config.negInfNeg 9 then 0x80000000 else 0) | 9, 1 => entryWord 0 pinf
  | 10, 0 => entryWord 0 (if Config.negInfNeg 10 then 0x80000000 else 0) | 10, 1 => entryWord 0 pinf
  | 11, 0 => entryWord 0 0 | 11, 1 => entryWord 0 pinf
  | 12, 0 => entryWord 0 0xBF800000 | 12, 1 => one
  | 13, 0 => nan | 13, 1 => nan | 14, 0 => nan | 14, 1 => nan
  | 11, 2 => zero 0x3F317218 | 11, 3 => zero 0x3F317218
  | 14, 2 => zero 0x3F800000 | 14, 3 => zero 0x3F800000
  | _, 2 => zero 0x80000000
  | _, 3 => zero 0
  | _, _ => 0

/-- The steps of slot 4 (R146). -/
def recipSteps : List Nat :=
  [0x0420002000000000, 0x10A0090000000000, 0x0C00200000000000, 0x10A0090000000000, 0x0C00200000000000, 0]

/-- X0 of a built-in slot. -/
def stdX0 (n : Nat) : Nat := if 2 ≤ n ∧ n ≤ 6 then 1 else 0

/-- The start of segment i of a built-in slot, in fixed point. -/
def stdStart (n i : Nat) : Nat := stdX0 n * fxOne + i * fxOne / 2 ^ (- stdHexp n).toNat

/-- A value as one of its FP32 neighbours, in its encoding. -/
def fp32Near (v : Near) (up : Bool) : Nat := (fmtFP32.roundNum .rne false (v.round 24 up)).bits

/-- A segment word of a built-in slot: its table interpolates the function exactly at every segment end (R143). -/
def stdSegment (n i : Nat) : Nat :=
  let a := tableFn n (stdStart n i)
  let b := tableFn n (stdStart n (i + 1))
  let slope : Near := ⟨(b.val.sub a.val).scale (- stdHexp n), a.exact && b.exact⟩
  fp32Near slope (Config.segUp n i true) * 2 ^ 32 + fp32Near a (Config.segUp n i false)

/-- The view of a slot of the standard image: slots 0 to 14 hold the built-in functions, the others are invalid
(R134). -/
def stdView (n : Nat) : SlotView :=
  if n < 15 then
    { h := fun i =>
        if i = 0 then stdPre n * 2 ^ 32 + stdX0 n * 0x3F800000
        else if i = 1 then stdPostc n * 2 ^ 32 + toBits 8 (stdHexp n) * 2 ^ 24 + stdRed n * 2 ^ 20 + stdPost n * 2 ^ 16 +
          stdMplen n * 2 ^ 8 + 1
        else if i < 7 then stdEntry n (i - 2) else 0
      g := stdSegment n
      u := fun i => recipSteps.getD i 0
      k := fun _ => 0
      image := [], std := if n = 4 then none else some n }
  else { h := fun _ => 0, g := fun _ => 0, u := fun _ => 0, k := fun _ => 0, image := [], std := none }

/-- The view of a slot of a bank. -/
def Ve.slot (x : Ve) (bank n : Nat) : SlotView :=
  match look .standard (bank * 32 + n) x.slots with
  | .standard => stdView n
  | .loaded bs => imageView bs

def SlotView.valid (v : SlotView) : Bool := bitOf (v.h 1) 0
def SlotView.red (v : SlotView) : Nat := fld (v.h 1) 23 20
def SlotView.post (v : SlotView) : Nat := fld (v.h 1) 19 16
def SlotView.mplen (v : SlotView) : Nat := fld (v.h 1) 15 8
def SlotView.hexp (v : SlotView) : Int := sext 8 (fld (v.h 1) 31 24)

/-! ### Exact helpers -/

/-- Rounded to 24 significant bits under RNE with an unbounded exponent (R141). -/
def round32 (d : Dy) : Dy :=
  if d.m = 0 then d
  else
    let q := d.log2 - 23
    let r := roundAt .rne d q
    ⟨d.neg, r.1, q⟩

/-- A finite FP32 constant; none where it is not finite. -/
def fp32Const (bits : Nat) : Option Dy := match fmtFP32.decode (bits % 2 ^ 32) with | .num d => some d | _ => none

/-! ### The fast path (R141) -/

/-- The segment index of a clamped reduced argument. -/
def segIndex (v : SlotView) (x0 rc : Dy) : Nat := min (((rc.sub x0).scale (- v.hexp)).floor).toNat 31

/-- Y0[i] + SLOPE[i] × t at a reduced argument, exact, with the segment used (R141, R146). -/
def segValue (v : SlotView) (r : Dy) : Option (Dy × Nat) := do
  let x0 ← fp32Const (v.h 0)
  let top := x0.add ⟨false, 32, v.hexp⟩ false
  let rc := (r.max x0).min top
  let i := segIndex v x0 rc
  let t := rc.sub (x0.add ⟨false, i, v.hexp⟩ false)
  let y0 ← fp32Const (v.g i)
  let sl ← fp32Const (v.g i / 2 ^ 32)
  some (y0.add (sl.mul t) false, i)

/-- The reductions of R140: r, k and whether s = −1. -/
def reduceArg (red : Nat) (a : Dy) : Option (Dy × Int × Bool) :=
  match red with
  | 0 => some (a, 0, false)
  | 1 => some (a.abs, 0, a.neg)
  | 2 => some (a.sub (dyInt a.floor), a.floor, false)
  | 3 => if a.m = 0 then none else some (a.abs.scale (- a.log2), a.log2, a.neg)
  | 4 => if a.m = 0 then none else let k := a.log2 / 2; some (a.abs.scale (- (2 * k)), k, a.neg)
  | 5 => some (a.sub (dyInt a.floor), 0, false)
  | _ => none

/-- The post-steps of R140, exact. -/
def postStep (v : SlotView) (p a : Dy) (k : Int) (s : Bool) : Option Dy :=
  let sg (d : Dy) : Dy := if s then d.negate else d
  match v.post with
  | 0 => some p
  | 1 => some ((sg p).scale k)
  | 2 => some ((sg p).scale (- k))
  | 3 => (fp32Const (v.h 1 / 2 ^ 32)).map fun c => (p.add (dyInt k) false).mul c
  | 4 => some (sg p)
  | 5 => if s then (fp32Const (v.h 1 / 2 ^ 32)).map fun c => c.sub p else some p
  | 6 => if s then (fp32Const (v.h 1 / 2 ^ 32)).map fun c => a.mul (c.sub p) else some (a.mul p)
  | 7 => some ((a.max (dyZero false)).add p false)
  | _ => none

/-- The input class of R138: −Inf, +Inf, −0, +0, negative finite nonzero; 5 for the rest. -/
def inputClass : FVal → Nat
  | .inf n => if n then 0 else 1
  | .num d => if d.m = 0 then (if d.neg then 2 else 3) else if d.neg then 4 else 5
  | .nan _ => 5

/-- What an evaluation gives before its final rounding, the flags raised so far, and the table words read (word 0 to
127 of the image; 4,096 + 128 n + i is word i of another slot n). -/
structure Eval where
  val : FVal
  flags : Byte
  /-- The final rounding raises INX whatever it does (R141, R144). -/
  inx : Bool
  words : List Nat

/-- Words of the header. -/
def headerWords : List Nat := List.range 8

/-- The entry of a class, if enabled (R138). -/
def SlotView.entry (v : SlotView) (cls : Nat) : Option (Nat × Byte) :=
  let w := v.h (2 + cls)
  if cls < 5 ∧ bitOf w 63 then some (w % 2 ^ 32, BitVec.ofNat 8 (w / 2 ^ 32)) else none

/-- A finite argument on the fast path. -/
def fastFinite (v : SlotView) (x : Dy) : Option (Dy × Nat) := do
  let pre ← fp32Const (v.h 0 / 2 ^ 32)
  let a := round32 (x.mul pre)
  let (r, k, s) ← reduceArg v.red a
  let (q, i) ← segValue v r
  let y ← postStep v (round32 q) a k s
  some (y, i)

/-- The special rules of R141: a NaN, or an enabled entry. -/
def specialEval (v : SlotView) (x : FVal) : Option Eval :=
  match x with
  | .nan sig => some ⟨.nan false, flagIf sig flagInv, false, headerWords⟩
  | _ =>
    match v.entry (inputClass x) with
    | some (r, f) => some ⟨(match fmtFP32.decode r with | .nan _ => .nan false | y => y), f, false, headerWords⟩
    | none => none

/-- An argument as an FP32 encoding. -/
def argBits (x : FVal) : W32 := BitVec.ofNat 32 (fmtFP32.convert .rne false x).bits

/-- A result the rules do not state (log 8). -/
def unstated (v : SlotView) (x : FVal) : Eval :=
  ⟨fmtFP32.decode (Config.sfuUnstated v.image (argBits x)).toNat, 0, false, headerWords⟩

/-- The fast path (R141). -/
def fastEval (v : SlotView) (x : FVal) : Eval :=
  match specialEval v x with
  | some e => e
  | none =>
    match x with
    | .num d =>
      match fastFinite v d with
      | some (y, i) => ⟨.num y, 0, true, headerWords ++ [8 + i]⟩
      | none => unstated v x
    | _ => unstated v x

/-! ### The refined path (R144 to R146) -/

/-- Rounded to a temporary: 24 bits, exponents −1,022 to +1,023, no subnormals (R144). -/
def roundTemp (x : FVal) : FVal :=
  match x with
  | .num d =>
    if d.m = 0 then x
    else
      let r := round32 d
      if r.log2 > 1023 then .inf d.neg
      else if r.log2 < -1022 then
        (if (d.abs.cmp ⟨false, 1, -1023⟩) = .gt then .num ⟨d.neg, 1, -1022⟩ else .num (dyZero d.neg))
      else .num r
  | .nan _ => .nan false
  | .inf n => .inf n

/-- The temporaries, the flags the steps have raised, and what has been read. -/
structure MicroSt where
  t : List FVal
  flags : Byte
  words : List Nat

/-- A value that R146 does not state for step i. -/
def stepUnstated (v : SlotView) (x : FVal) (i : Nat) : FVal :=
  (⟨11, 52, 1023, .ieee⟩ : Fmt).decode (Config.stepFree v.image (argBits x) i).toNat

/-- An operand (R145); a reserved code names no value. -/
def microOperand (v : SlotView) (x : FVal) (st : MicroSt) (i code : Nat) : FVal :=
  if code < 8 then st.t.getD code (.num (dyZero false))
  else if code = 8 then x
  else if code = 9 then .num (dyInt 1)
  else if code = 10 then .num (dyZero false)
  else if 16 ≤ code then fmtFP32.decode (v.k (code - 16))
  else stepUnstated v x (64 + i)

/-- a < b; a NaN compares as not less. -/
def fLess (a b : FVal) : Bool :=
  !a.isNan && !b.isNan && (totalCmp a b == .lt) && !(a.isZero && b.isZero)

/-- The larger or the smaller of two values; a NaN operand gives a NaN (R56). -/
def fPick (mx : Bool) (a b : FVal) : FVal :=
  if a.isNan || b.isNan then .nan false else if ((totalCmp a b != .lt) == mx) then a else b

/-- Operands that a step opcode reads: how many of A, B and C (R146). -/
def microArity (op : Nat) : Nat :=
  if op = 3 ∨ op = 4 ∨ op = 0x0C then 3 else if op = 5 ∨ op = 6 ∨ op = 0x0A ∨ op = 0x0B ∨ op = 0x0D ∨ op = 0x0E then 2 else 1

/-- The operand codes that a step word reads. -/
def microCodes (w : Nat) : List Nat := [fld w 54 50, fld w 49 45, fld w 44 40].take (microArity (fld w 63 58))

/-- The image word of a constant. -/
def constWord (code : Nat) : Nat := 104 + (code - 16) / 2

/-- What a step gives: its value before the rounding of R144, the flags it raises, and the words it reads of slots. -/
structure StepOut where
  val : FVal
  flags : Byte
  words : List Nat

/-- A step on one operand that is no NaN, if it is a number; a NaN gives a NaN (R56). -/
def onNum (free : FVal) (inf : Bool → FVal) (a : FVal) (f : Dy → Option FVal) : FVal :=
  match a with
  | .nan _ => .nan false
  | .inf n => inf n
  | .num d => (f d).getD free

/-- SCALEB: A × 2^B, where B holds an integer (R146). -/
def microScale (free a b : FVal) : FVal :=
  if a.isNan || b.isNan then .nan false
  else match b with
    | .num k => if (dyInt k.floor).cmp k = .eq then onNum free .inf a fun d => some (.num (d.scale k.floor)) else free
    | _ => free

/-- The fast path, or the segments alone, of a slot of the bank as a step (R146); a slot that holds no function gives a
NaN with INV (R150). -/
def microLut (slots : Nat → SlotView) (n : Nat) (whole : Bool) (free a : FVal) : StepOut :=
  let v := slots n
  let at' (ws : List Nat) : List Nat := ws.map (4096 + n * 128 + ·)
  if !v.valid then ⟨.nan false, flagInv, at' [1]⟩
  else if whole then let e := fastEval v a; ⟨e.val, e.flags, at' e.words⟩
  else
    let r (d : Dy) : StepOut :=
      match segValue v d with
      | some q => ⟨.num q.1, 0, at' (headerWords ++ [8 + q.2])⟩
      | none => ⟨free, 0, at' headerWords⟩
    match a with
    | .nan _ => ⟨.nan false, 0, []⟩
    | .inf n => r ⟨n, 1, 1100⟩
    | .num d => r d

/-- One step's result, rounded by the caller (R146). `slots` gives the slots of the bank. -/
def microResult (v : SlotView) (slots : Nat → SlotView) (x : FVal) (st : MicroSt) (i w : Nat) : StepOut :=
  let opd := microOperand v x st i
  let a := opd (fld w 54 50)
  let b := opd (fld w 49 45)
  let c := opd (fld w 44 40)
  let free := stepUnstated v x i
  let arith (y : FVal × Bool) : StepOut := ⟨y.1, flagIf (y.2 || y.1.isSnan) flagInv, []⟩
  let val (y : FVal) : StepOut := ⟨y, 0, []⟩
  match fld w 63 58 with
  | 0x01 => microLut slots (fld w 39 35) true free a
  | 0x02 => microLut slots (fld w 39 35) false free a
  | 0x03 => arith (ffma false a b c)
  | 0x04 => arith (ffma false a.negate b c)
  | 0x05 => arith (fmul a b)
  | 0x06 => arith (fadd false a b)
  | 0x07 => val (onNum free .inf a fun d => some (.num ⟨d.neg, (roundAt .rne d 0).1, 0⟩))
  | 0x08 => val (onNum free (fun _ => free) a fun d => if d.m = 0 then none else some (.num (dyInt d.log2)))
  | 0x09 => val (onNum free (fun _ => free) a fun d => if d.m = 0 then none else some (.num (d.abs.scale (- d.log2))))
  | 0x0A => val (microScale free a b)
  | 0x0B => val (if b.isNan then .nan false else onNum free (fun _ => .inf b.neg) a fun d => some (.num { d with neg := b.neg }))
  | 0x0C => val (if fLess a b then c else st.t.getD (fld w 57 55) free)
  | 0x0D => val (fPick true a b)
  | 0x0E => val (fPick false a b)
  | _ => val free

/-- Runs steps from index i until END: its operand, the flags raised and the words read. -/
def microRun (v : SlotView) (slots : Nat → SlotView) (x : FVal) : Nat → Nat → MicroSt → Option (FVal × MicroSt)
  | 0, _, _ => none
  | fuel + 1, i, st =>
    let w := v.u i
    let st := { st with words := (40 + i) :: (((microCodes w).filter (16 ≤ ·)).map constWord ++ st.words) }
    if fld w 63 58 = 0 then some (microOperand v x st i (fld w 54 50), st)
    else
      let r := microResult v slots x st i w
      microRun v slots x fuel (i + 1)
        { t := st.t.set (fld w 57 55) (roundTemp r.val), flags := st.flags ||| r.flags, words := r.words ++ st.words }

/-- SIN and COS beyond 65,536: within 2^-22 of the function (R143). -/
def absPick (y : Near) (pick : Nat) : Dy :=
  dyOfInt ((y.val.scale 152).floor + (pick % (2 ^ 131 + 1) : Nat) - (2 ^ 130 : Nat)) (-152) false

/-- A value that END rounds to FP32 within 1 ulp of the function: between its FP32 neighbours, or at most one away where
the function's value is an FP32 number (R143). -/
def ulpPick (y : Near) (pick : Nat) : Dy :=
  let q := max (y.val.log2 - 23) (-149)
  let r := y.below q
  let k : Int := (4 * r.1 : Nat) + (if r.2 then (pick % 7 : Nat) - 1 else (pick % 9 : Nat) - 4)
  dyOfInt (if y.val.neg then - k else k) (q - 2) (y.val.neg != bitOf pick 7)

/-- The refined path of a built-in slot, whose program R143 gives by its length and its bound. -/
def builtinRefined (v : SlotView) (n : Nat) (d : Dy) : Eval :=
  let y := builtinFn n d
  let x := argBits (.num d)
  let pick := Config.refinedPick n x
  let far := decide (n = 13 ∨ n = 14) && (d.abs.cmp (dyInt 65536) == .gt)
  ⟨.num (if far then absPick y pick else ulpPick y pick), 0, true, headerWords ++ upFrom 40 v.mplen ++ Config.programReads n x⟩

/-- The refined path (R144). -/
def refinedEval (v : SlotView) (slots : Nat → SlotView) (x : FVal) : Eval :=
  if v.mplen = 0 then fastEval v x
  else match specialEval v x with
    | some e => e
    | none =>
      match v.std, x with
      | some n, .num d => builtinRefined v n d
      | _, _ =>
        match microRun v slots x 64 0 ⟨List.replicate 8 (.num (dyZero false)), 0, []⟩ with
        | some (y, st) => ⟨y, st.flags, true, headerWords ++ st.words⟩
        | none => unstated v x

/-- An evaluation rounded once to a type (R141, R144, R151). -/
def Eval.round (e : Eval) (f : Fmt) : Nat × Byte :=
  let r := f.convert .rne false e.val
  (r.bits, r.flags ||| e.flags ||| flagIf e.inx flagInx)

/-! ### The checks on an image (R142) -/

/-- The segments are monotone, in FP32 under RNE (R142). -/
def segsMonotone (v : SlotView) (up : Bool) : Bool :=
  let f (bits : Nat) : FVal := fmtFP32.decode (bits % 2 ^ 32)
  let ge (a b : FVal) : Bool :=
    match a, b with
    | .nan _, _ => false
    | _, .nan _ => false
    | a, b => totalCmp a b != .lt || (a.isZero && b.isZero)
  let cmp (a b : FVal) : Bool := if up then ge a b else ge b a
  let r (x : FVal × Bool) : FVal := f (fmtFP32.finish .rne x).bits
  let hh : FVal := .num ⟨false, 1, v.hexp⟩
  (List.range 32).all (fun i => cmp (f (v.g i / 2 ^ 32)) (.num (dyZero false))) &&
  (List.range 31).all fun i =>
    cmp (f (v.g (i + 1))) (r (fadd false (f (v.g i)) (r (fmul (f (v.g i / 2 ^ 32)) hh))))

/-- The image is accepted (R142). -/
def imageOk (bs : List Byte) : Bool :=
  let v := imageView bs
  let en (i : Nat) : Bool := bitOf (v.h (2 + i)) 63
  let blank := (List.range 128).all fun i => if i = 1 then fieldAt bs 8 8 == 0 else fieldAt bs (8 * i) 8 == 0
  blank ||
  (v.valid && decide (v.red ≤ 5) && decide (v.post ≤ 7) && decide (v.mplen ≤ 64) &&
   (List.range 64).all (fun i => decide (fld (v.u i) 63 58 ≤ 0x0E) && fld (v.u i) 34 0 == 0) &&
   fld (v.h 1) 7 1 == 0 && v.h 7 == 0 && (List.range 5).all (fun i => fld (v.h (2 + i)) 62 40 == 0 &&
     fld (v.h (2 + i)) 39 35 == 0) && zeroAt bs 896 128 &&
   en 0 && en 1 && (!(v.red == 3 || v.red == 4) || (en 2 && en 3)) && (segsMonotone v true || segsMonotone v false))

end Sys2Proof.Machine
end

