-- ==== Sys2Proof/Machine/Sfu.lean ====
section
/-! DEFINITION. The special-function unit: evaluation, bank selection, slot loads and the table scrub (R133 to R151,
R517). -/

namespace Sys2Proof.Machine

/-! ### Evaluation (R151) -/

/-- One element: f(a), or f(a − b); times c if MULC (R151). -/
def sfuElem (w : W64) (f : Fmt) (ev : FVal → Eval) (a b d : Nat) : Nat × Byte × List Nat :=
  let x := f.decode a
  let arg : FVal × Byte :=
    if bitOf (vImm w) 8 then
      let r := fmtFP32.finish .rne (fadd false x (f.decode b).negate)
      (fmtFP32.decode r.bits, r.flags)
    else (x, 0)
  let e := ev arg.1
  let y := e.round f
  if bitOf (vImm w) 9 then
    let z := f.finish .rne (fmul (f.decode y.1) (f.decode d))
    (z.bits, arg.2 ||| y.2 ||| z.flags, e.words)
  else (y.1, arg.2 ||| y.2, e.words)

/-- Operand c of lane l under MULC (R151). -/
def VIn.mulc (i : VIn) (l : Nat) : W32 :=
  let w := tileW (vTw i.w)
  match vBcb i.w with
  | 0 => i.x.lane (vVc i.w) l
  | 1 => i.x.lane (vVc i.w) (l % w)
  | 2 => i.x.lane (vVc i.w) (l / w)
  | _ => i.sx1.setWidth 32

/-- The lanes of VC that MULC takes. -/
def VIn.cLanes (i : VIn) : List Nat :=
  let w := tileW (vTw i.w)
  match vBcb i.w with
  | 0 => i.lanes
  | 1 => List.range w
  | 2 => List.range (1024 / w)
  | _ => []

/-- An evaluation instruction at an engine: the slot of the active bank, each active element (R135, R150, R151). -/
def sfuEval (refined : Bool) (i : VIn) : VOut :=
  let sub := bitOf (vImm i.w) 8
  let mul := bitOf (vImm i.w) 9
  let n := vImm i.w % 32
  let bank := i.x.bankSel
  let v := i.x.slot bank n
  if i.badLanes (vVa i.w) i.lanes || (sub && i.badLanes (vVb i.w) i.bLanes) || (mul && i.badLanes (vVc i.w) i.cLanes) then
    .fault Code.eccUncorr 0
  else
    let f := typeFmt (vType i.w)
    let own (ws : List Nat) : List Nat := ws.map fun k => if k < 4096 then n * 128 + k else k - 4096
    let ev (x : FVal) : Eval :=
      if refined then
        let e := refinedEval v (i.x.slot bank) x
        { e with words := own e.words }
      else
        let e := fastEval v x
        { e with words := own e.words }
    let rs := i.lanes.map fun l =>
      let es := ((elemsOf (vType i.w) (i.x.lane (vVa i.w) l)).zip
        ((elemsOf (vType i.w) (i.b l)).zip (elemsOf (vType i.w) (i.mulc l)))).map fun p =>
          if v.valid then sfuElem i.w f ev p.1 p.2.1 p.2.2 else (f.nanBits, flagInv, [n * 128 + 1])
      (l, laneOf (vType i.w) (es.map (·.1)), flagsOr (es.map (·.2.1)), es.flatMap (·.2.2))
    if rs.any fun r => r.2.2.2.any fun k => i.x.sfBad.has (bank * 4096 + k) then .fault Code.eccUncorr 0
    else
      .done (i.x.setLanes (vVd i.w) (rs.map (fun r => (r.1, r.2.1)) ++ i.zeroed.map fun l => (l, 0)))
        (flagsOr (rs.map (·.2.2.1))) none

/-- A load waits to write the active bank: it writes before a later instruction can sample the bank (R148). -/
def Ve.bankLoading (x : Ve) : Bool := x.loads.any fun l => l.bank == x.bankSel

/-- VSF and VSFR. -/
def vecSfu (s : State) (c t op : Nat) (mm : Option Nat) (refined : Bool) : State :=
  vecStep s c t op mm (fun _ i => i.x.bankLoading)
    (fun w => [vVd w, vVa w] ++ (if bitOf (vImm w) 8 then [vVb w] else []) ++ (if bitOf (vImm w) 9 then [vVc w] else []))
    fun s i => (s, if vBad { vSpec tyFloat with imm := 0x31F, pair := bitOf (vImm i.w) 9 && vBcb i.w == 3 } i.w then
        .fault Code.badParam 0 else sfuEval refined i)

/-- VSF: the fast path (R141, R151). -/
def execVsf (c t : Nat) (mm : Option Nat) (s : State) : Res := .next (vecSfu s c t 0x60 mm false)

/-- VSFR: the refined path (R144, R151). -/
def execVsfr (c t : Nat) (mm : Option Nat) (s : State) : Res := .next (vecSfu s c t 0x61 mm true)

/-- VSFSEL: BANKSEL = IMM[0], once every earlier VSFLD of the engine has completed (R149). -/
def execVsfsel (c t : Nat) (s : State) : Res :=
  .next (vecStep s c t 0x62 none (fun _ i => i.x.streamLoad) (fun _ => []) fun s i =>
    (s, if vBad { vSpec tyAll with imm := 0x1 } i.w then .fault Code.badParam 0
        else .done { i.x with bankSel := vImm i.w % 2 } 0 none))

/-! ### Slot loads (R147 to R149) -/

/-- A load that ends with a status: SFSTS, and for a VSFLD its summary register (R147, R161). -/
def Ve.loadStatus (x : Ve) (bank slot : Nat) (code : Byte) : Ve := { x with ldCode := code, ldSlot := slot, ldBank := bank }

/-- The summary write of a VSFLD. -/
def loadSummary (ms : Nat) (code : Byte) : Summary := ⟨ms, BitVec.ofNat 64 code.toNat, false, false⟩

/-- VSFLD (R147): the image is read and checked when it issues, and written by SFU_SLOT_WRITE (R148). -/
def execVsfld (c t : Nat) (s : State) : Res :=
  .next (vecStep s c t 0x63 none (fun s i => (s.core i.c).summaryWaits (vMs i.w) i.n)
    (fun _ => []) fun s i =>
      let off := i.sx.toNat
      let bank := vImm i.w / 32 % 2
      let slot := vImm i.w % 32
      if vBad { vSpec tyAll with imm := 0x3F, bad := !vSmen i.w } i.w then (s, .fault Code.badParam 0)
      else if off % 64 ≠ 0 ∨ wsSize < off + 1024 then (s, .fault Code.xlate off)
      else if bank = i.x.bankSel then
        (s, .done (i.x.loadStatus bank slot Code.tableBusy) 0 (some (loadSummary (vMs i.w) Code.tableBusy)))
      else
        match wsCheck s i.c off 1024 with
        | (s, some e) => (s, .fault e 0)
        | (s, none) =>
          let bs := s.ws i.c off 1024
          if imageOk bs then
            (s, .done { i.x with loads := i.x.loads ++ [⟨bank, slot, bs, .stream t (vMs i.w)⟩] } 0 none)
          else (s, .done (i.x.loadStatus bank slot Code.badParam) 0 (some (loadSummary (vMs i.w) Code.badParam))))

/-- Words of a slot as written: the check bits are new. -/
def Ve.writeSlot (x : Ve) (l : SfLoad) : Ve :=
  let key := l.bank * 32 + l.slot
  { x with slots := put .standard key (.loaded l.image) x.slots
           sfBad := x.sfBad.clearRange (key * 128) 128, sfSoft := x.sfSoft.clearRange (key * 128) 128 }

/-- SFU_SLOT_WRITE: the oldest load that waits writes its whole slot, and reports OK (R147, R148). -/
def execSfuSlotWrite (c e : Nat) (s : State) : Res :=
  let k := s.core c
  let x := k.ve e
  .next (
    if !s.coreRuns c || decide (2 ≤ e) then s
    else match x.loads with
      | [] => s
      | l :: ls =>
        let y := (x.writeSlot l).loadStatus l.bank l.slot Code.ok
        let s := s.setCore c (k.setVe e { y with loads := ls })
        match l.origin with
        | .stream _ ms => s.modCore c fun k => k.summary (loadSummary ms Code.ok)
        | .host pid => completePkt s pid Code.ok 0)

/-- SFU_TABLE_SCRUB: one table word is scrubbed: corrected in place and recorded, or if uncorrectable recorded, and the
slot's next read faults (R517). The spec gives a table word no address, so the record's is free (log 10). -/
def execSfuTableScrub (c e bank slot word : Nat) (s : State) : Res :=
  let key := (bank * 32 + slot) * 128 + word
  let x := (s.core c).ve e
  .next (
    if !s.coreRuns c || decide (2 ≤ e) || decide (2 ≤ bank) || decide (32 ≤ slot) || decide (128 ≤ word) then s
    else if x.sfBad.has key then
      let (a, s) := freeNat s
      record s ⟨0x11, 2, .core, c, e, Code.eccUncorr, a, 0⟩
    else if x.sfSoft.has key then
      let (a, s) := freeNat s
      recordCorrected (s.modCore c fun k => k.setVe e { k.ve e with sfSoft := x.sfSoft.del key }) .core c e a
    else s)

end Sys2Proof.Machine
end

