-- ==== Sys2Proof/Machine/SfLoad.lean ====
section
/-! DEFINITION. SF_LOAD: firmware loads an SFU slot on a host's behalf (R147 to R149, R464). -/

namespace Sys2Proof.Machine

/-- The checks of R147 in their order, on an image in the context's memory; one that passes waits to write. -/
def sfLoad (s : State) (pid : Nat) (p : Pkt) : State :=
  let va := fld (p.w 1) 47 0
  let c := fld (p.w 2) 6 0
  let e := fld (p.w 2) 7 7
  let bank := fld (p.w 2) 8 8
  let slot := fld (p.w 2) 13 9
  let fail (s : State) (code : Byte) : State :=
    completePkt (s.modCore c fun k => k.setVe e ((k.ve e).loadStatus bank slot code)) pid code 0
  if !s.hasCore c then completePkt s pid Code.unsupported 0
  else if !(s.ctx p.ctx).cores.getLsbD c then completePkt s pid Code.perm 0
  else if va % 64 ≠ 0 then fail s Code.xlate
  else match readVa s p.ctx va 1024 with
  | (s, .inr code) => fail s code
  | (s, .inl bs) =>
    if bank = ((s.core c).ve e).bankSel then fail s Code.tableBusy
    else if imageOk bs then
      s.modCore c fun k => k.setVe e { k.ve e with loads := (k.ve e).loads ++ [⟨bank, slot, bs, .host pid⟩] }
    else fail s Code.badParam

/-- SF_LOAD. -/
def execSfLoad (q : Nat) (s : State) : Res := .next (dispatch opSfLoad noneAbsent sfLoad q s)

end Sys2Proof.Machine
end

