-- ==== Sys2Proof/Machine/TlyOps.lean ====
section
/-! DEFINITION. Holders of tally items, and what is not counted by a step of the model (R270, R533, R540). -/

namespace Sys2Proof.Machine

def State.setTly (s : State) (t : Tly) : State := { s with tly := t }

/-! ### Counts that depend on timing (log 30) -/

/-- Events whose count the rules leave to timing: waiting cycles, cycles below the full ramp, bank waits, sectors that
engines move, windows, and payload bytes of PCIe. -/
def timedEvent (cls ev : Nat) : Bool :=
  (cls == 0 && (ev == 2 || ev == 3 || ev == 5 || ev == 7)) || (cls == 1 && (ev == 0x10 || ev == 0x11 || ev == 0x12)) ||
  (cls == 6 && (ev == 0x38 || ev == 0x39))

/-- The counter counts such an event. -/
def timed (w : W64) : Bool := bitOf w.toNat 63 && !bitOf w.toNat 62 && timedEvent (fld w.toNat 59 56) (fld w.toNat 7 0)

/-- Before counters are looked at, those that count with time have advanced by free amounts. -/
def flow (s : State) : State :=
  (s.tly.sel.filter fun p => timed p.2).foldl (fun s p =>
    let r := freeNat s
    r.2.setTly (Tly.add 64 r.2.tly p.1 (r.1 % 2 ^ 48))) s

/-! ### Monitors -/

def Tly.mon (t : Tly) (m : Nat) : Monitor := look .reset m t.mons
def Tly.setMon (t : Tly) (m : Nat) (x : Monitor) : Tly := { t with mons := put .reset m x t.mons }

/-! ### Holders (R540) -/

def Tly.groupOf (t : Tly) (g : Nat) : Option Nat := look none g t.groups

/-- A group as it changes holder: its counters are disabled, with counts and OVF bits clear. -/
def Tly.clearGroup (t : Tly) (g : Nat) : Tly :=
  (upFrom (8 * g) 8).foldl (fun t k =>
    { t with sel := put 0 k (t.selOf k &&& 0x7FFFFFFFFFFFFFFF) t.sel, cnt := put 0 k 0 t.cnt
             ovf := t.ovf &&& ~~~(BitVec.ofNat 64 (2 ^ k)) }) t

def Tly.giveGroup (t : Tly) (g : Nat) (h : Option Nat) : Tly := { t.clearGroup g with groups := put none g h t.groups }

/-- The monitors as they change holder. -/
def Tly.giveBw (t : Tly) (h : Option Nat) : Tly :=
  { t with bw := h, mons := remap .reset (fun m => { Monitor.reset with cfg := m.cfg &&& 0x7FFFFFFFFFFFFFFF }) t.mons }

/-- The dump as it changes holder: a record being written is left undefined. -/
def giveDump (s : State) (h : Option Nat) : State :=
  let s := match s.tly.writing with | some r => scramble s r.addr 1024 | none => s
  s.setTly { s.tly with dump := h, dEn := false, lost := 0, writing := none }

/-- Items whose holder is to change: the groups among `gs`, the monitors and the dump if named. -/
def giveItems (s : State) (gs : List Nat) (bw dump : Bool) (f : Option Nat → Bool) (h : Option Nat) : State × Nat :=
  let ch := gs.filter fun g => f (s.tly.groupOf g)
  let s1 := s.setTly (ch.foldl (fun t g => t.giveGroup g h) s.tly)
  let b := bw && f s.tly.bw
  let s2 := if b then s1.setTly (s1.tly.giveBw h) else s1
  let d := dump && f s.tly.dump
  let s3 := if d then giveDump s2 h else s2
  (s3, ch.length + b2n b + b2n d)

/-- A teardown of a context returns its items to firmware, and DEVICE. -/
def dropTly (s : State) (n : Nat) : State :=
  let s := (giveItems s (List.range 8) true true (fun o => o == some n) none).1
  s.setTly { s.tly with dev := s.tly.dev &&& ~~~(BitVec.ofNat 32 (2 ^ n)) }

end Sys2Proof.Machine
end

