-- ==== Sys2Proof/Machine/Aborts.lean ====
section
/-! DEFINITION. Ending work from outside: programs, packets and the work of a context (R246, R296, R408, R453, R456,
R463, R574). -/

namespace Sys2Proof.Machine

/-! ### Programs and launches (R246, R574) -/

/-- On core c, launches that wait and the program that runs end with a status where a test of launch and context picks
them; the answer counts them. The program ends under R246, with its event. -/
def endOnCore (s : State) (c : Nat) (status : Byte) (f : Nat → Nat → Bool) : State × Nat :=
  let out := (s.core c).launches.filter fun l => f l.pid l.ctx
  let s := s.modCore c fun k => { k with launches := k.launches.filter fun l => !f l.pid l.ctx }
  let s := out.foldl (fun s l => launchEnded s l.pid c status 0) s
  match (s.core c).prog with
  | some p => if f p.pid p.ctx then (outsideEnd s c status, out.length + 1) else (s, out.length)
  | none => (s, out.length)

/-- The same on several cores. -/
def endOnCores (s : State) (cs : List Nat) (status : Byte) (f : Nat → Nat → Bool) : State × Nat :=
  cs.foldl (fun r c => let q := endOnCore r.1 c status f; (q.1, r.2 + q.2)) (s, 0)

/-- Every core number. -/
def allCores : List Nat := List.range 96

/-! ### Puts and gets, decodes, slot loads (R390, R434, R148) -/

/-- Puts and gets that a test picks end with a status; the answer counts them. -/
def endXfers (s : State) (status : Byte) (f : Xfer → Bool) : State × Nat :=
  [0, 1].foldl (fun r e =>
    let tags := ((r.1.ce e).xfers.filter f).map (·.tag)
    (tags.foldl (fun s t => xferDone s e t status) r.1, r.2 + tags.length)) (s, 0)

/-- Decodes that a test picks end with a status: the first of the line runs, so the pieces it writes are undefined
(log 11) and LASTCODE of both engines takes the status (R439); the others have not begun. -/
def endDecodes (s : State) (status : Byte) (f : Decode → Bool) : State :=
  let run := (s.decodes.take 1).filter f
  let out := s.decodes.filter f
  let s := { s with decodes := s.decodes.filter fun x => !f x }
  let s := run.foldl (fun s x => { (scrambleAll s (dcReach x (dcWant x.desc))) with
    ce0 := { s.ce0 with evLast := status }, ce1 := { s.ce1 with evLast := status } }) s
  out.foldl (fun s x => completePkt s x.pid status 0) s

/-- The slot load of a packet is withdrawn: its slot is not written. -/
def dropLoads (s : State) (pid : Nat) : State :=
  let cut (v : Ve) : Ve := { v with loads := v.loads.filter fun l => decide (l.origin ≠ .host pid) }
  { s with cores := remap .reset (fun k => { k with ve0 := cut k.ve0, ve1 := cut k.ve1 }) s.cores }

/-- The stops and deletions that a packet asked for wait no longer. -/
def dropWaits (s : State) (pid : Nat) : State :=
  let un (d : Option Nat) : Option Nat := if d = some pid then none else d
  { s with
    ingest := { s.ingest with streams := remap .free (fun e => { e with stops := e.stops.filter (· != pid) }) s.ingest.streams }
    host := { s.host with
      sqs := remap .free (fun x => { x with deleting := un x.deleting }) s.host.sqs
      cqs := remap .free (fun x => { x with deleting := un x.deleting }) s.host.cqs } }

/-! ### Packets (R456, R463, R524) -/

/-- A dispatched packet that has not completed ends with a status, and so does its work: programs and waiting launches,
a DMA (bytes already written remain), a batch, a put or get, a decode, a slot load. A die that is being parked goes on
being parked. -/
def endPkt (s : State) (pid : Nat) (status : Byte) : State :=
  match s.pkt pid with
  | none => s
  | some p =>
    match p.work with
    | .replied => s
    | .qwait _ _ => completePkt s pid status 0
    | .dma xl => completePkt (dmaPart s p xl (dmaLen p)) pid status 0
    | .launch cores _ _ _ => (endOnCores s cores status fun n _ => n == pid).1
    | .unit =>
      let s := abortBatches s status fun b => decide (b.pid = some pid)
      let s := (endXfers s status fun x => match x.origin with | .host n _ _ => n == pid | .core _ _ => false).1
      let s := endDecodes s status fun x => x.pid == pid
      completePkt (dropWaits (dropLoads s pid) pid) pid status 0

/-- Every dispatched packet that a test picks ends with a status. -/
def endPkts (s : State) (status : Byte) (f : Pkt → Bool) : State :=
  (s.host.pkts.map (·.1)).foldl (fun s pid =>
    match s.pkt pid with
    | some p => if f p then endPkt s pid status else s
    | none => s) s

/-! ### Collective work of a context (R408) -/

/-- Running instances that a test picks abort with a status and complete; the answer counts them (R408, R405). -/
def endInsts (s : State) (status : Byte) (f : Plan → Bool) : State × Nat :=
  [0, 1].foldl (fun r e =>
    (r.1.ce e).handles.foldl (fun r h =>
      match (r.1.ce e).plan h, (r.1.ce e).inst h with
      | some p, some _ =>
        if f p then
          let s := abortInst r.1 e h status
          (match (s.ce e).inst h with | some i => completeInst s e h p i | none => s, r.2 + 1)
        else r
      | _, _ => r) r) (s, 0)

/-- Plans of a context are unloaded, and its jobs disabled (R453 step 4). -/
def dropPlans (s : State) (ctx : Nat) : State :=
  let cut (x : Ce) : Ce :=
    let hs := (x.plans.filter fun p => match p.2 with | some q => q.ctx == ctx | none => false).map (·.1)
    let x := hs.foldl Ce.unload x
    { x with jobs := put 0 ctx (look 0 ctx x.jobs &&& 0x7FFFFFFFFFFFFFFF) x.jobs }
  { s with ce0 := cut s.ce0, ce1 := cut s.ce1 }

/-! ### Teardown (R453) -/

/-- Packets of a context that a teardown ends without a reply: not yet dispatched, or dispatched with no reply
written. -/
def unreplied (s : State) (ctx : Nat) : Nat :=
  (s.host.sqs.map fun p =>
    if p.2.owner = some ctx then (p.2.tail + p.2.entries - p.2.head) % p.2.entries else 0).sum +
  (s.host.pkts.filter fun e => match e.2 with | some p => decide (p.ctx = ctx) | none => false).length

/-- Every queue of a context goes, with its replies (R453 step 7). -/
def dropQueues (s : State) (ctx : Nat) : State :=
  { s with host := { s.host with
      sqs := s.host.sqs.filter fun p => decide (p.2.owner ≠ some ctx)
      cqs := s.host.cqs.filter fun p => decide (p.2.owner ≠ some ctx)
      pkts := s.host.pkts.filter fun e => match e.2 with | some p => decide (p.ctx ≠ ctx) | none => true } }

/-- What is left of a context: quotas, core mask, and the registers no rule clears (R453 steps 6 to 8, log 41). -/
def closeCtx (s : State) (ctx : Nat) : State :=
  s.modCtx ctx fun x =>
    { x with root := none, xc := [], atc := [], pageReqs := [], aen := false, td := false, en := false }

/-- A teardown; the answer counts the packets that ended without a reply. -/
def teardown (s : State) (ctx : Nat) : State × Nat :=
  let n := unreplied s ctx
  let s := s.modCtx ctx fun x => { x with td := true }
  let s := silence s fun p => decide (p.ctx = ctx)
  let s := (endOnCores s allCores Code.aborted fun _ x => x == ctx).1
  let s := abortBatches s Code.aborted fun b => decide (b.ctx = ctx)
  let s := (reclaimStreams s ctx Code.aborted).1
  let s := (endInsts s Code.aborted fun p => p.ctx == ctx).1
  let s := (endXfers s Code.aborted fun x => x.ctx == ctx).1
  let s := dropPlans s ctx
  let s := (List.range 8).foldl (fun s k => releaseHbm s ctx k) s
  let s := endPkts s Code.aborted fun p => decide (p.ctx = ctx)
  let s := if isPf ctx then cvEndPort s (portOf ctx) Code.aborted else s
  let s := dropTly s ctx
  (closeCtx (dropQueues s ctx) ctx, n)

/-- Every context of a port is torn down (R451). -/
def teardownPort (s : State) (port : Nat) : State :=
  (upFrom (16 * port) 16).foldl (fun s n => (teardown s n).1) s

end Sys2Proof.Machine
end

