-- ==== Sys2Proof/Machine/Contexts.lean ====
section
/-! DEFINITION. Queues deleted and reset, contexts, quotas, RECLAIM and the steward (R448 to R456, R468 to R471). -/

namespace Sys2Proof.Machine

/-! ### Q_DELETE and Q_RESET (R456) -/

/-- A pool SQ is deleted: undispatched packets go without reply; the deletion completes with the dispatched ones. -/
def deleteSq (s : State) (pid q : Nat) : State :=
  let x := s.sq q
  let s := s.setSq q { x with deleting := some pid, tail := x.head }
  let s := endQwaits s Code.aborted fun _ n _ => n == q
  settleDeletes s.host.sqs.length s

/-- A CQ that no SQ names is deleted, once its waiting replies are written. -/
def deleteCq (s : State) (pid ctx q : Nat) : State :=
  let x := s.cq q
  if s.host.sqs.any fun e => decide (e.2.owner = some ctx) && decide (e.2.cq = q) then completePkt s pid Code.badParam 0
  else settleCq (s.setCq q { x with deleting := some pid }) q

/-- Q_DELETE. -/
def qDelete (s : State) (pid : Nat) (p : Pkt) : State :=
  let q := fld (p.w 1) 11 0
  let isCq := bitOf (p.w 1) 63
  if q < 32 ∨ !(if isCq then holdsCq s p.ctx q else holdsSq s p.ctx q) then completePkt s pid Code.perm 0
  else if isCq then deleteCq s pid p.ctx q
  else if q = p.sq then completePkt s pid Code.badParam 0
  else deleteSq s pid q

/-- Q_DELETE (R456). -/
def execQDelete (q : Nat) (s : State) : Res := .next (dispatch opQDelete noneAbsent qDelete q s)

/-- An SQ is reset to an expected sequence. -/
def resetSq (s : State) (q n : Nat) : State :=
  let s := endPkts s Code.aborted fun p => decide (p.sq = q)
  let s := (endQwaits s Code.aborted fun _ m _ => m == q).retirePkts q
  let x := s.sq q
  s.setSq q { x with head := x.tail, error := false, expSeq := n }

/-- Q_RESET. -/
def qReset (s : State) (pid : Nat) (p : Pkt) : State :=
  let q := fld (p.w 1) 43 32
  if !holdsSq s p.ctx q then completePkt s pid Code.perm 0
  else if q = p.sq then completePkt s pid Code.badParam 0
  else completePkt (resetSq s q (fld (p.w 1) 15 0)) pid Code.ok 0

/-- Q_RESET (R456). -/
def execQReset (q : Nat) (s : State) : Res := .next (dispatch opQReset noneAbsent qReset q s)

/-! ### Contexts of a port (R452, R453, R468) -/

/-- A context that exists and belongs to the issuer's port is acted on; one of the other port gives E_PERM (R448), one
that does not exist E_BADPARAM. -/
def onCtx (s : State) (pid : Nat) (p : Pkt) (go : State → Nat → State) : State :=
  let n := fld (p.w 1) 4 0
  if portOf n ≠ portOf p.ctx then completePkt s pid Code.perm 0
  else if !functionEnabled s n then completePkt s pid Code.badParam 0
  else go s n

/-- A root table is accepted (R452). -/
def rootOk (s : State) (root : Nat) : Bool :=
  decide (root % 4096 = 0) && tableHome root && populated s root && populated s (root + 4095) && !isProtected s root && !isProtected s (root + 4095)

/-- CTX_SETROOT. -/
def ctxSetroot (s : State) (pid : Nat) (p : Pkt) : State :=
  onCtx s pid p fun s n =>
    let root := fld (p.w 2) 47 0
    if rootOk s root then completePkt (s.modCtx n fun x => { x with root := some root }) pid Code.ok 0
    else completePkt s pid Code.badParam 0

/-- CTX_SETROOT (R452). -/
def execCtxSetroot (q : Nat) (s : State) : Res := .next (dispatch opCtxSetroot noneAbsent ctxSetroot q s)

/-- A cached entry governs some address of a range. -/
def xcMeets (key lo len : Nat) : Bool :=
  let sz := 2 ^ levelShift (key % 4)
  decide (key / 4 * sz < lo + len) && decide (lo < key / 4 * sz + sz)

/-- XLATE_INVAL. -/
def xlateInval (s : State) (pid : Nat) (p : Pkt) : State :=
  let n := fld (p.w 3) 4 0
  let w := p.w 2
  let va := fld (p.w 1) 47 0
  let size := [0, 0x1000, 0x200000, 0x40000000].getD (fld w 33 32) 0
  let len := fld w 31 0 * size
  if !functionEnabled s n then completePkt s pid Code.badParam 0
  else if n ≠ p.ctx ∧ !(isPf p.ctx && decide (portOf n = portOf p.ctx)) then completePkt s pid Code.perm 0
  else if bitOf w 63 then completePkt (s.modCtx n fun x => { x with xc := [] }) pid Code.ok 0
  else if size = 0 ∨ va % size ≠ 0 ∨ 2 ^ 48 < va + len then completePkt s pid Code.badParam 0
  else if len = 0 then completePkt s pid Code.okEmpty 0
  else completePkt (s.modCtx n fun x => { x with xc := x.xc.filter fun e => !xcMeets e.1 va len }) pid Code.ok 0

/-- XLATE_INVAL (R468). -/
def execXlateInval (q : Nat) (s : State) : Res := .next (dispatch opXlateInval noneAbsent xlateInval q s)

/-- CTX_TEARDOWN: not of the PF's own context. -/
def ctxTeardown (s : State) (pid : Nat) (p : Pkt) : State :=
  onCtx s pid p fun s n =>
    if n = p.ctx then completePkt s pid Code.badParam 0
    else
      let r := teardown s n
      completePkt r.1 pid Code.ok (BitVec.ofNat 32 r.2)

/-- CTX_TEARDOWN (R453). -/
def execCtxTeardown (q : Nat) (s : State) : Res := .next (dispatch opCtxTeardown noneAbsent ctxTeardown q s)

/-- PROG_ABORT ends the issuing context's programs and launches on the cores named (R246, R574). -/
def progAbort (s : State) (pid : Nat) (p : Pkt) : State :=
  let cs := maskCores (p.w 1) (fld (p.w 2) 31 0)
  if cs = [] then completePkt s pid Code.okEmpty 0
  else if cs.any fun c => !s.hasCore c then completePkt s pid Code.unsupported 0
  else if cs.any fun c => !(s.ctx p.ctx).cores.getLsbD c then completePkt s pid Code.perm 0
  else completePkt (endOnCores s cs Code.aborted fun _ x => x == p.ctx).1 pid Code.ok 0

/-- PROG_ABORT (R246, R464). -/
def execProgAbort (q : Nat) (s : State) : Res := .next (dispatch opProgAbort noneAbsent progAbort q s)

/-! ### QUOTA_SET (R469, R470, R489) -/

def qsCtx (p : Pkt) : Nat := fld (p.w 1) 4 0
def qsKind (p : Pkt) : Nat := fld (p.w 1) 11 8
def qsStack (p : Pkt) : Nat := fld (p.w 1) 14 12

/-- The kind's maximum. -/
def quotaMax (kind : Nat) : Option Nat := [4064, 4064, 2048, 262144, 48, 6000][kind]?

/-- Vectors that the port's other contexts may use. -/
def otherVecs (s : State) (n : Nat) : Nat :=
  ((upFrom (n / 16 * 16) 16).map fun m => if m = n then 0 else (s.ctx m).vecLim).sum

/-- The unit a quota is about is absent: the stream table, or the stack. -/
def quotaAbsent (s : State) (p : Pkt) : Bool :=
  (qsKind p == 3 && !s.variant.ingest) || (qsKind p == 4 && !s.hasStack (qsStack p))

/-- A limit is written. -/
def setQuota (s : State) (n kind stack lim : Nat) : State :=
  match kind with
  | 0 => s.modCtx n fun x => { x with sqLim := lim }
  | 1 => s.modCtx n fun x => { x with cqLim := lim }
  | 2 => s.modCtx n fun x => { x with vecLim := lim }
  | 3 => { s with ingest := { s.ingest with stq := put 0 n lim s.ingest.stq } }
  | 4 => s.modStack stack fun x => x.setRsv n { x.rsvOf n with limit := lim }
  | _ => decideHead { s with power := { s.power with ctxLim := put 0x1770 n lim s.power.ctxLim } }

/-- QUOTA_SET. -/
def quotaSet (s : State) (pid : Nat) (p : Pkt) : State :=
  let lim := fld (p.w 2) 31 0
  match quotaMax (qsKind p) with
  | none => completePkt s pid Code.badParam 0
  | some mx =>
    if mx < lim then completePkt s pid Code.badParam 0
    else if qsKind p = 2 ∧ 2048 < otherVecs s (qsCtx p) + lim then completePkt s pid Code.quota 0
    else completePkt (setQuota s (qsCtx p) (qsKind p) (qsStack p) lim) pid Code.ok 0

/-- QUOTA_SET. -/
def execQuotaSet (q : Nat) (s : State) : Res := .next (dispatch opQuotaSet quotaAbsent quotaSet q s)

/-! ### RECLAIM (R471) -/

/-- The unit a kind is about is absent. -/
def reclaimAbsent (s : State) (p : Pkt) : Bool :=
  ((qsKind p == 1 || qsKind p == 3) && !s.variant.ingest) || (qsKind p == 2 && !s.hasStack (qsStack p))

/-- One kind of work of context n ends with E_ABORTED; the answer counts the items ended. -/
def reclaimKind (s : State) (n stack kind : Nat) : State × Nat :=
  match kind with
  | 0 => endOnCores s (allCores.filter fun c => !(s.ctx n).cores.getLsbD c) Code.aborted fun _ x => x == n
  | 1 => reclaimStreams s n Code.aborted
  | 2 => (releaseHbm s n stack, 0)
  | 3 =>
    let f (b : Batch) : Bool := b.ctx == n
    (abortBatches s Code.aborted f, ((s.ingest.q0 ++ s.ingest.q1).filter f).length)
  | _ =>
    let r := endInsts s Code.aborted fun p => p.ctx == n
    let q := endXfers r.1 Code.aborted fun x => x.ctx == n
    (q.1, r.2 + q.2)

/-- Several kinds in order. -/
def reclaimKinds (s : State) (n : Nat) (ks : List (Nat × Nat)) : State × Nat :=
  ks.foldl (fun r k => let q := reclaimKind r.1 n k.2 k.1; (q.1, r.2 + q.2)) (s, 0)

/-- RECLAIM. -/
def reclaim (s : State) (pid : Nat) (p : Pkt) : State :=
  let k := qsKind p
  let done (ks : List (Nat × Nat)) : State :=
    let r := reclaimKinds s (qsCtx p) ks
    completePkt r.1 pid Code.ok (BitVec.ofNat 32 r.2)
  if k ≤ 4 then done [(k, qsStack p)]
  else if k = 15 then done ([(0, 0), (1, 0), (3, 0), (4, 0)] ++ (List.range 8).map fun j => (2, j))
  else completePkt s pid Code.badParam 0

/-- RECLAIM. -/
def execReclaim (q : Nat) (s : State) : Res := .next (dispatch opReclaim reclaimAbsent reclaim q s)

/-! ### CTX_CORES and CTX_JOB (R452) -/

/-- CTX_CORES: a mask that names an absent core is refused (R6). -/
def ctxCores (s : State) (pid : Nat) (p : Pkt) : State :=
  let hi := fld (p.w 3) 31 0
  if (maskCores (p.w 2) hi).any fun c => !s.hasCore c then completePkt s pid Code.unsupported 0
  else completePkt (s.modCtx (fld (p.w 1) 4 0) fun x => { x with cores := BitVec.ofNat 96 (p.w 2 + hi * 2 ^ 64) }) pid Code.ok 0

/-- CTX_CORES. -/
def execCtxCores (q : Nat) (s : State) : Res := .next (dispatch opCtxCores noneAbsent ctxCores q s)

/-- CTX_JOB writes CEJOBn in both engines (R391, R415). -/
def ctxJob (s : State) (pid : Nat) (p : Pkt) : State :=
  onCtx s pid p fun s n =>
    let w : W64 := BitVec.ofNat 64 (b2n (bitOf (p.w 1) 8) * 2 ^ 63 + fld (p.w 1) 31 16)
    let set (x : Ce) : Ce := { x with jobs := put 0 n w x.jobs }
    completePkt { s with ce0 := set s.ce0, ce1 := set s.ce1 } pid Code.ok 0

/-- CTX_JOB. -/
def execCtxJob (q : Nat) (s : State) : Res := .next (dispatch opCtxJob noneAbsent ctxJob q s)

/-! ### The steward (R449) -/

/-- The steward's port, with its lease restarted. -/
def setSteward (s : State) (port : Nat) : State :=
  { s with host := { s.host with stValid := true, stPort := port, stExpired := false, stSince := s.tbtime } }

/-- STEWARD_RENEW. -/
def execStewardRenew (q : Nat) (s : State) : Res :=
  .next (dispatch opStewardRenew noneAbsent (fun s pid _ => completePkt (setSteward s s.host.stPort) pid Code.ok 0) q s)

/-- What is left of the lease in ms; the rounding of a part of a ms is open (log 10). -/
def leaseLeft (s : State) : Nat × State :=
  let h := s.host
  let ns := h.lease.toNat * 1000000 - (s.tbtime - h.stSince).toNat
  let r := freeNat s
  (ns / 1000000 + (if ns % 1000000 ≠ 0 ∧ r.1 % 2 = 1 then 1 else 0), r.2)

/-- STEWARD_CLAIM. -/
def stewardClaim (s : State) (pid : Nat) (p : Pkt) : State :=
  let h := s.host
  if !h.stValid ∨ h.stExpired ∨ !(s.port h.stPort).up then completePkt (setSteward s (portOf p.ctx)) pid Code.ok 0
  else
    let r := leaseLeft s
    completePkt r.2 pid Code.perm (BitVec.ofNat 32 r.1)

/-- STEWARD_CLAIM. -/
def execStewardClaim (q : Nat) (s : State) : Res := .next (dispatch opStewardClaim noneAbsent stewardClaim q s)

/-- STEWARD_HANDOFF. -/
def execStewardHandoff (q : Nat) (s : State) : Res :=
  .next (dispatch opStewardHandoff noneAbsent (fun s pid p =>
    let other := 1 - portOf p.ctx
    if (s.port other).up then completePkt (setSteward s other) pid Code.ok 0
    else completePkt s pid Code.badParam 0) q s)

/-- STEWARD_LEASE_EXPIRY: the lease ends with no renewal; the steward stays until it is claimed. -/
def execStewardLeaseExpiry (s : State) : Res :=
  .next (if s.host.stValid then { s with host := { s.host with stExpired := true } } else s)

end Sys2Proof.Machine
end

