-- ==== Sys2Proof/Machine/HostPorts.lean ====
section
/-! DEFINITION. Accesses through BAR2, ATS and page requests, and the events of a PCIe port (R441 to R446, R451). -/

namespace Sys2Proof.Machine

/-- The identity of a function: Vendor ID, Device ID and class code (R441). Configuration space has no command. -/
def pcieIdentity (ctx : Nat) : Nat × Nat × Nat := (Config.vendorId, if isPf ctx then 0x8160 else 0x8161, 0x120000)

/-! ### BAR2 (R446) -/

/-- The answer that a BAR read leaves for the host: bytes, or Unsupported Request. -/
def setBarRsp (s : State) (r : Option (List Byte)) : State := { s with host := { s.host with barRsp := r } }

/-- A BAR2 access fails: CTXFLT and an event record it (R446, R474, R529). -/
def bar2Fault (s : State) (ctx : Nat) (code : Byte) (va : Nat) : State :=
  record (ctxFault s ctx code 0 va) ⟨0x02, 0, .pcie, ctx, 0, code, va, code.toNat⟩

/-- The access lies in the function's BAR2, whose byte x is context virtual address x; one outside reaches nothing of the
part (R445, R476). -/
def inBar2 (s : State) (ctx addr n : Nat) : Bool := decide (addr + n ≤ 2 ^ (s.ctx ctx).cfg.bar2)

/-- BAR2_READ: all ones, as Unsupported Request, where the function does not answer or the access fails. -/
def execBar2Read (ctx addr len : Nat) (s : State) : Res :=
  .next (
    if !(s.port (portOf ctx)).up then s
    else if !hostServed s ctx || !inBar2 s ctx addr len then setBarRsp s none
    else match readSpace s ctx false addr len with
      | (s, .ok bs) => setBarRsp s (some bs)
      | (s, .err c va) => setBarRsp (bar2Fault s ctx c va) none
      | (s, .wait) => s)

/-- BAR2_WRITE. -/
def execBar2Write (ctx addr : Nat) (bytes : List Byte) (s : State) : Res :=
  .next (
    if !hostServed s ctx || !inBar2 s ctx addr bytes.length then s
    else match writeSpace s ctx false addr bytes with
      | (s, .err c va) => bar2Fault s ctx c va
      | (s, _) => s)

/-! ### ATS and PRI (R444) -/

/-- ATS_INVALIDATION drops the function's translations of `count` host pages. A host sends it only to a function whose
ATS it has enabled. -/
def execAtsInvalidation (ctx page count : Nat) (s : State) : Res :=
  .next (
    if functionOn s ctx then
      s.modCtx ctx fun x =>
        { x with ats := true, atc := x.atc.filter fun e => decide (e.1 < page) || decide (page + count ≤ e.1) }
    else s)

/-- PAGE_REQUEST_RESPONSE answers a page request; a host sends one only to a function whose PRI it has enabled. -/
def execPageRequestResponse (ctx page : Nat) (resp : AtsResponse) (s : State) : Res :=
  .next (
    if functionOn s ctx then
      s.modCtx ctx fun x =>
        let x := { x with ats := true, pri := true }
        if look none page x.pageReqs = some .asked then
          match resp with
          | .granted bus => { x with atc := put 0 page (bus + 1) x.atc, pageReqs := put none page none x.pageReqs }
          | .refused => { x with pageReqs := put none page (some .failed) x.pageReqs }
        else x
    else s)

/-- PAGE_REQUEST_TIMEOUT: no response within 10 ms. -/
def execPageRequestTimeout (ctx page : Nat) (s : State) : Res :=
  .next (
    if look none page (s.ctx ctx).pageReqs = some .asked then
      s.modCtx ctx fun x => { x with pageReqs := put none page (some .failed) x.pageReqs }
    else s)

/-! ### Ports (R442, R451) -/

/-- Functions lose their ATS and PRI settings in a reset; the context of one that is still enabled exists again (R442). -/
def resetFunctions (s : State) (ns : List Nat) : State :=
  ns.foldl (fun s n => s.modCtx n fun x => { x with ats := false, pri := false, en := functionEnabled s n }) s

/-- Every context of a port is torn down, and the PF's configuration is reset. -/
def resetPort (s : State) (port : Nat) : State :=
  let s := s.setPort port { s.port port with vfEn := false, numVf := 0 }
  resetFunctions (teardownPort s port) (upFrom (16 * port) 16)

/-- PORT_LINK_DOWN: a steward behind the port is steward no more (R449). -/
def execPortLinkDown (port : Nat) (s : State) : Res :=
  .next (
    if port < 2 ∧ (s.port port).up then
      let s := resetPort (s.setPort port { s.port port with up := false }) port
      if s.host.stPort = port then { s with host := { s.host with stValid := false } } else s
    else s)

/-- HOT_RESET of a port. -/
def execHotReset (port : Nat) (s : State) : Res := .next (if port < 2 ∧ (s.port port).up then resetPort s port else s)

/-- FLR_PF: a Function Level Reset of a port's PF. -/
def execFlrPf (port : Nat) (s : State) : Res := .next (if port < 2 ∧ (s.port port).up then resetPort s port else s)

/-- FLR_VF: a Function Level Reset of a VF, that context only. -/
def execFlrVf (ctx : Nat) (s : State) : Res :=
  .next (if functionOn s ctx && !isPf ctx then resetFunctions (teardown s ctx).1 [ctx] else s)

/-- VF_ENABLE_CLEAR: VF Enable is cleared. -/
def execVfEnableClear (port : Nat) (s : State) : Res :=
  .next (
    if port < 2 ∧ (s.port port).vfEn then
      let s := s.setPort port { s.port port with vfEn := false }
      resetFunctions (teardownPort s port) (upFrom (16 * port + 1) 15)
    else s)

/-- The contexts of some functions of a port exist as the functions are enabled (R442), configured by the host. -/
def bringUp (s : State) (cfg : FnCfg) (ns : List Nat) : State :=
  ns.foldl (fun s n => s.modCtx n fun x => { x with en := functionEnabled s n, cfg := cfg }) s

/-- PCIE_LINK_UP: the port's link is up again, and its PF exists. -/
def execPcieLinkUp (up : PortUp) (s : State) : Res :=
  let port := up.port
  .next (
    if port < 2 ∧ !(s.port port).up ∧ s.clocked (.pcie port) ∧ (if port = 0 then s.power.clkP0 else s.power.clkP1) then
      bringUp (s.setPort port { s.port port with up := true, vfEn := false, numVf := 0 }) up.cfg (upFrom (16 * port) 16)
    else s)

/-- VF_ENABLE_SET: the PF driver enables `num` VFs. -/
def execVfEnableSet (port : Nat) (vfs : VfEnable) (s : State) : Res :=
  let num := vfs.num
  .next (
    if port < 2 ∧ (s.port port).up ∧ !(s.port port).vfEn ∧ 1 ≤ num ∧ num ≤ 15 then
      bringUp (s.setPort port { s.port port with vfEn := true, numVf := num }) vfs.cfg (upFrom (16 * port + 1) 15)
    else s)

end Sys2Proof.Machine
end

