-- ==== Sys2Proof/Machine/Boot.lean ====
section
/-! DEFINITION. Reset, the boot sequence and the mailbox (R496 to R503). -/

namespace Sys2Proof.Machine

/-! ### Reset (R496, R559) -/

/-- The part as reset leaves it, in a package state: what lies outside the part, what its variant is, and the model's
own counter and queue are kept. -/
def resetTo (s : State) (pkg : PkgState) (straps : Straps) : State :=
  { State.reset with
    variant := s.variant, straps := straps, pkg := pkg, hmem0 := s.hmem0, hmem1 := s.hmem1, free := s.free, pending := s.pending }

/-- COLD_RESET: the straps are latched on the rising edge of PORST_N. -/
def execColdReset (straps : Straps) (s : State) : Res := .next (resetTo s .boot straps)

/-- Bytes of LPDDR recovery memory. -/
def isLppByte (pa : Nat) : Bool := decide (0x18000000000 ≤ pa) && decide (pa < 0x1F000000000)

/-- Only LPDDR is kept. -/
def lppOnly (t : Table Byte) : Table Byte := t.filter fun p => isLppByte p.1

/-- A warm reset: the LPDDR channel is in self-refresh and keeps its contents, and with them KEPT. -/
def warmReset (s : State) : State :=
  { resetTo s .boot s.straps with
    mem := lppOnly s.mem, lpp := { Lpp.reset with sref := true }
    boot := { Boot.reset with kept := s.boot.kept, keyset := s.boot.keyset, loadLen := s.boot.loadLen } }

/-- WARM_RESET: ignored while PORST_N is low; HALTED is left only by a cold reset (R499). -/
def execWarmReset (s : State) : Res := .next (if s.pkg = .off ∨ s.boot.phase = 7 then s else warmReset s)

/-! ### Boot state -/

def State.setBoot (s : State) (b : Boot) : State := { s with boot := b }

/-- HALTED with a cause (R499). -/
def halt (s : State) (code : Byte) : State := s.setBoot { s.boot with phase := 7, code := code }

/-- A port as its link trains: the PF exists (R442). -/
def trainPort (s : State) (n : Nat) : Option FnCfg → State
  | some cfg => bringUp (s.setPort n { s.port n with up := true }) cfg (upFrom (16 * n) 16)
  | none => s

/-- A port that is up keeps its PF's configuration. -/
def keptPort (s : State) (n : Nat) : Option FnCfg := if (s.port n).up then some (s.ctx (16 * n)).cfg else none

/-- A failure that leaves PHASE at RECOVERY: every unit but the ROM with what it did in step 1 (M0, the PUF's reading, the
clocks and the ports it brought up), the mailbox, the LPP and the firmware region returns to its reset state (R499,
log 93). -/
def toRecovery (s : State) (code : Byte) : State :=
  let r := resetTo s .boot s.straps
  let r := { r with
    mem := lppOnly s.mem, lpp := s.lpp, boot := { s.boot with phase := 6, code := code }
    agg := if s.agg.safe then s.agg else r.agg
    sec := { r.sec with m0 := s.sec.m0, puf := s.sec.puf }
    power := { r.power with clkSys := s.power.clkSys, clkP0 := s.power.clkP0, clkP1 := s.power.clkP1,
                            stopped := s.power.stopped } }
  trainPort (trainPort r 0 (keptPort s 0)) 1 (keptPort s 1)

/-! ### Step 1 (R497) -/

/-- The part is in step 1 and boots. -/
def inRom (s : State) : Bool := decide (s.pkg = .boot) && decide (s.boot.phase = 0) && !s.straps.dbgscan

/-- Step 1 passes: clocks locked, PUF read, LPP trained with the straps' ranks and density at 3,200 MT/s, ports up. -/
def romPasses (s : State) (env : RomEnv) : State :=
  let s := { s with
    power := { s.power with clkSys := true, clkP0 := true, clkP1 := true }
    sec := { s.sec with m0 := padTo 48 Config.romDigest, puf := some s.free }
    free := s.free + 1
    lpp := { s.lpp with ready := true, sref := false, rate := 0, ranks := s.straps.lprank, size := BitVec.ofNat 5 (2 ^ s.straps.lpden) }
    boot := { s.boot with romDone := true } }
  trainPort (trainPort s 0 env.link0) 1 env.link1

/-- ROM_INIT: the ROM's own check, the clocks, the PUF, the LPP and the PCIe links; LPDEN 5 to 7 fail (R560). -/
def execRomInit (env : RomEnv) (s : State) : Res :=
  .next (
    if !inRom s || s.boot.romDone then s
    else if !env.romOk then halt s Code.verify
    else if !env.lockOk || decide (5 ≤ s.straps.lpden) then halt s Code.timeout
    else romPasses s env)

/-- ROM_INIT_COMPLETE. -/
def execRomInitComplete (s : State) : Res :=
  .next (if inRom s && s.boot.romDone then s.setBoot { s.boot with phase := 1, romDone := false } else s)

/-- ROM_INIT_TIMEOUT: step 1 has not ended within 80 ms. -/
def execRomInitTimeout (s : State) : Res := .next (if inRom s then halt s Code.timeout else s)

/-! ### The mailbox (R500) -/

def Boot.mb (b : Boot) (port : Nat) : Mailbox := if port = 0 then b.mb0 else b.mb1
def Boot.setMb (b : Boot) (port : Nat) (m : Mailbox) : Boot := if port = 0 then { b with mb0 := m } else { b with mb1 := m }

/-- The mailbox can be written through BAR4 of the port: the function answers, and its domains run (R479, R500). -/
def mailboxOpen (s : State) (port : Nat) : Bool :=
  decide (port < 2) && (s.port port).up && s.clocked (.pcie port) && s.clocked .fabric && (s.ctx (16 * port)).cfg.mse &&
    decide (1 ≤ s.boot.phase)

/-- A command is discarded. -/
def mbIgnore (s : State) (port : Nat) : State := s.setBoot (s.boot.setMb port { s.boot.mb port with ign := true })

/-- Where a command of a port is served: PUSH and RELOAD in WAIT or RECOVERY; ABORT of the command that is served in
LOADING or VERIFYING. -/
def mbServed (s : State) (port op : Nat) : Bool :=
  let b := s.boot
  if op = 1 ∨ op = 2 then b.phase == 1 || b.phase == 6
  else op == 3 && (b.phase == 2 || b.phase == 3) && b.owner == port

/-- PUSH. -/
def mbPush (s : State) (port : Nat) : State :=
  if mbServed s port 1 then
    let m := s.boot.mb port
    s.setBoot { s.boot with phase := 2, owner := port, kept := false, loadAddr := m.addr, loadLen := m.len }
  else mbIgnore s port

/-- RELOAD. -/
def mbReload (s : State) (port : Nat) : State :=
  if mbServed s port 2 then
    if s.boot.kept then s.setBoot { s.boot with phase := 3, owner := port }
    else s.setBoot { s.boot with code := Code.badParam, owner := port }
  else mbIgnore s port

/-- ABORT. -/
def mbAbort (s : State) (port : Nat) : State := if mbServed s port 3 then toRecovery s Code.aborted else mbIgnore s port

/-- A write of MBCMD by a port's PF. -/
def mbCommand (s : State) (port op : Nat) : State :=
  if op = 1 then mbPush s port else if op = 2 then mbReload s port else if op = 3 then mbAbort s port else mbIgnore s port

/-- MB_PUSH. -/
def execMbPush (port : Nat) (s : State) : Res := .next (if mailboxOpen s port then mbPush s port else s)

/-- MB_RELOAD. -/
def execMbReload (port : Nat) (s : State) : Res := .next (if mailboxOpen s port then mbReload s port else s)

/-- MB_ABORT. -/
def execMbAbort (port : Nat) (s : State) : Res := .next (if mailboxOpen s port then mbAbort s port else s)

/-- MBCMD_DISCARDED: a command that is not served. -/
def execMbcmdDiscarded (port op : Nat) (s : State) : Res :=
  .next (if mailboxOpen s port && !mbServed s port op then mbIgnore s port else s)

/-! ### Loading (R497 step 3) -/

/-- The firmware region (R501). -/
abbrev fwBase : Nat := 0x18000000000

/-- Bytes of a host's memory by bus address. -/
def busBytes (s : State) (port addr n : Nat) : List Byte := (upFrom addr n).map fun a => look 0 a (s.hmem port)

/-- The first n bytes of the image pushed reach the firmware region; the channel leaves self-refresh (R351). -/
def loadBytes (s : State) (n : Nat) : State :=
  (touchLpp s).poke fwBase (busBytes s s.boot.owner s.boot.loadAddr.toNat n)

/-- A copy that fails has moved some bytes: how many is free (log 22). -/
def loadPart (s : State) : State :=
  let r := freeNat s
  loadBytes r.2 (r.1 % (s.boot.loadLen + 1))

/-- IMAGE_LOAD_COMPLETE. -/
def execImageLoadComplete (env : LoadEnd) (s : State) : Res :=
  .next (
    if s.boot.phase ≠ 2 then s
    else match env with
      | .loaded => (loadBytes s s.boot.loadLen).setBoot { s.boot with phase := 3 }
      | .hostFault => toRecovery (loadPart s) Code.xlate
      | .lppError => toRecovery (lppFail (loadPart s) fwBase) Code.eccUncorr)

/-! ### Signed objects (R502) -/

/-- KIND, FORMAT and the reserved bytes of a signed object's 512-byte header are as they must be; `level`: PARAM of a
KIND 3 object. -/
def headerOk (kind : Nat) (o : List Byte) : Bool :=
  fieldAt o 0 4 == kind && fieldAt o 4 4 == 1 &&
  (kind == 1 || zeroAt o 12 4) && (kind != 1 || zeroAt o 16 48) && (kind != 2 || zeroAt o 8 4) && (kind == 3 || zeroAt o 496 16) &&
  (kind != 1 || zeroAt o 17120 3360)

/-- The key set whose digest the signer's keys have: 0 or 1. -/
def keySetOf (o : List Byte) : Option Nat :=
  let d := padTo 48 (Config.sha384 ((o.drop 64).take 432))
  [0, 1].find? fun i => d == padTo 48 (Config.keyDigest i)

/-- D of an object: SHA-384 of its first 512 bytes and its body. -/
def objDigest (o : List Byte) : List Byte := padTo 48 (Config.sha384 (o.take 512 ++ o.drop 20480))

/-- Both signatures verify over D. -/
def sigsOk (o : List Byte) : Bool :=
  let d := objDigest o
  let rsa := Config.rsaVerify ((o.drop 64).take 384) d ((o.drop 512).take 384)
  let slh := Config.slhVerify ((o.drop 448).take 48) d ((o.drop 896).take 16224)
  rsa && slh

/-- Key set and signatures: the key set of an object that verifies. -/
def objVerify (o : List Byte) : Option Nat :=
  match keySetOf o with
  | some i => if sigsOk o then some i else none
  | none => none

/-! ### Verifying (R497 step 4, R503) -/

/-- The image's lengths: LEN = 20,480 + BODYLEN, within limits. -/
def imageLenOk (b : Boot) (o : List Byte) : Bool :=
  let body := fieldAt o 12 4
  decide (b.loadLen = 20480 + body) && decide (b.loadLen ≤ 33554432) && decide (64 ≤ body)

/-- The image in the firmware region is checked. -/
def verifyImage (s : State) : State :=
  let o := s.bytes fwBase (max s.boot.loadLen 20480)
  let bad := s.setBoot { s.boot with kept := false }
  if !imageLenOk s.boot o || !headerOk 1 o then toRecovery bad Code.badParam
  else match objVerify o with
  | none => toRecovery bad Code.verify
  | some i =>
    let s := s.setBoot { s.boot with phase := 4, code := 0, kept := true, keyset := i, version := BitVec.ofNat 32 (fieldAt o 8 4) }
    { s with sec := { s.sec with m1 := objDigest o } }

/-- IMAGE_VERIFY_COMPLETE. -/
def execImageVerifyComplete (lppError : Bool) (s : State) : Res :=
  .next (
    if s.boot.phase ≠ 3 then s
    else if lppError then toRecovery (lppFail s fwBase) Code.eccUncorr
    else verifyImage (touchLpp s))

/-! ### Firmware (R497 steps 5 and 6) -/

/-- FIRMWARE_READY: the package enters ON, and the steward is chosen (R449). -/
def execFirmwareReady (s : State) : Res :=
  .next (
    if s.boot.phase ≠ 4 then s
    else
      let s := (s.setBoot { s.boot with phase := 5 })
      let s := { s with pkg := .on, power := { s.power with clkL0 := true, clkL1 := true } }
      if s.host.p0.up then setSteward s 0 else if s.host.p1.up then setSteward s 1 else s)

/-- FW_INIT_TIMEOUT: 10 s have passed. -/
def execFwInitTimeout (s : State) : Res := .next (if s.boot.phase = 4 then toRecovery s Code.timeout else s)

/-- FW_INIT_FAILURE: firmware reports a status. -/
def execFwInitFailure (code : Byte) (s : State) : Res := .next (if s.boot.phase = 4 then toRecovery s code else s)

end Sys2Proof.Machine
end

