-- ==== Sys2Proof/Machine/CeIssue.lean ====
section
/-! DEFINITION. CECMD writes reach the collective engines (R384, R385, R401). -/

namespace Sys2Proof.Machine

/-- Fields of a CECMD write (R384). -/
def ccmKind (v : W64) : Nat := fld v.toNat 63 62
def ccmCe (v : W64) : Nat := fld v.toNat 61 61
def ccmHandle (v : W64) : Nat := fld v.toNat 55 48
def ccmInfo (v : W64) : Nat := fld v.toNat 31 0

/-- A reserved KIND, or a nonzero reserved field (R384, R385). -/
def ccmReserved (v : W64) : Bool :=
  decide (2 ≤ ccmKind v) || decide (fld v.toNat 60 56 ≠ 0) || decide (fld v.toNat 47 32 ≠ 0) ||
  (ccmKind v == 1 && decide (fld v.toNat 31 24 ≠ 0))

/-- The core's oldest CECMD write whose transfers have all landed acts on its engine (R385). -/
def ceWriteStep (s : State) (c : Nat) (sel : W64 → Bool) (f : State → CeWrite → Nat → State) : State :=
  match (s.core c).cecmd with
  | w :: ws =>
    if s.works c && w.waits.isEmpty && sel w.val then
      f (s.modCore c fun k => { k with cecmd := ws }) w (ccmCe w.val)
    else s
  | [] => s

/-- CECMD_TRIGGER: a handle that is not loaded is E_BADPARAM, a plan of another context E_PERM, in CEFLT (R385, R401). -/
def execCecmdTrigger (c : Nat) (s : State) : Res :=
  .next (ceWriteStep s c (fun v => ccmKind v == 0 && !ccmReserved v) fun s w e =>
    let h := ccmHandle w.val
    let bad (code : Byte) : State := refuseCe s e (ceFlt code 0 h c (ccmInfo w.val)) code
    match (s.ce e).plan h with
    | none => bad Code.badParam
    | some p => if p.ctx ≠ w.ctx then bad Code.perm else trigger s e h (ccmInfo w.val) c)

/-- CECMD_XFER: the descriptor is read from the working store and issued; one that cannot be read is recorded in CEFLT
only (R385 to R387). While 4,096 operations are outstanding the write waits. -/
def execCecmdXfer (c : Nat) (s : State) : Res :=
  .next (
    match (s.core c).cecmd with
    | w :: _ =>
      if 4096 ≤ (s.ce (ccmCe w.val)).xfers.length then s
      else ceWriteStep s c (fun v => ccmKind v == 1 && !ccmReserved v) fun s w e =>
        let off := ccmInfo w.val
        if off % 64 ≠ 0 then refuseCe s e (ceFlt Code.badParam 0 0 c off) Code.badParam
        else if wsSize < off + 64 then setFlt s e (ceFlt Code.xlate 1 0 0 off)
        else match wsCheck s c off 64 with
          | (s, some code) => setFlt s e (ceFlt code 1 0 0 off)
          | (s, none) => issueXfer s e w.ctx (.core c off) (wordsOf (s.ws c off 64) 8)
    | [] => s)

/-- CECMD_RESERVED_KIND: no effect but CEFLT and the event (R385). -/
def execCecmdReservedKind (c : Nat) (s : State) : Res :=
  .next (ceWriteStep s c ccmReserved fun s w e =>
    refuseCe s e (ceFlt Code.badParam 0 (ccmHandle w.val) c (ccmInfo w.val)) Code.badParam)

end Sys2Proof.Machine
end

