-- ==== Sys2Proof/Machine/CopyEngine.lean ====
section
/-! DEFINITION. The copy engine (R212 to R217). -/

namespace Sys2Proof.Machine

/-- Fields of a copy command (R212). -/
def cpPen (w0 : W64) : Bool := w0.getLsbD 59
def cpPerm (w0 : W64) : List Nat := (List.range 4).map fun k => fld w0.toNat (48 + 2 * k + 1) (48 + 2 * k)
def cpStage (w0 : W64) : Nat := fld w0.toNat 31 24
def cpSdesc (w0 : W64) : Nat := fld w0.toNat 23 0
def cpDdesc (w1 : W64) : Nat := fld w1.toNat 23 0

/-- A copy completes: LASTCODE, its post or its report (R215, R217, R243). The report reaches the program that issued
it and no later one. -/
def copyDone (s : State) (c : Nat) (e : CopyCmd) (code : Byte) : State :=
  let s := s.modCore c fun k => { k with cpLast := code }
  if isErr code then
    if (s.core c).prog.map (·.pid) = some e.pid then
      raise s c e.stream ⟨code, 8, fld e.w0.toNat 63 60, cpSdesc e.w0, false⟩
    else s
  else if cpPen e.w0 then post s (fld e.w0.toNat 47 40) (fld e.w0.toNat 37 32)
  else s

/-- The checks of R214 before the descriptors'. -/
def copyCheck (s : State) (w0 w1 : W64) : Option Byte :=
  let v := w0.toNat
  if fld v 63 60 ≠ 1 then some Code.badCmd
  else if fld v 58 56 ≠ 0 ∨ fld v 39 38 ≠ 0 ∨ fld w1.toNat 63 24 ≠ 0 ∨ cpSdesc w0 % 64 ≠ 0 ∨ cpDdesc w1 % 64 ≠ 0 ∨
      112 < cpStage w0 then some Code.badParam
  else if cpPen w0 && !s.hasCore (fld v 47 40) then some Code.unsupported
  else if wsSize < cpSdesc w0 + 128 ∨ wsSize < cpDdesc w1 + 128 then some Code.xlate
  else none

/-- The boxes of the two sides do not match (R214). -/
def boxesDiffer (a b : Desc) (p : List Nat) : Bool :=
  decide (a.esCode ≠ b.esCode) || decide (a.dims ≠ b.dims) || !permOk a.dims p ||
  (List.range 4).any fun k => decide ((b.d k).ext ≠ (a.d (p.getD k k)).ext)

/-- The rows of R201 that apply to the two sides; an error of either comes before an empty case (R214). -/
def copyDescCheck (a b : Desc) (p : List Nat) : Option Byte :=
  match a.checkFar false, b.checkFar false with
  | some e, _ => some e
  | none, some e => some e
  | none, none =>
    if !a.isEmpty && a.pad == 0 && !a.inside then some Code.badParam
    else if a.isEmpty || b.isEmpty || b.ownsNothing then some Code.okEmpty
    else if boxesDiffer a b p then some Code.badParam
    else none

/-- Destination coordinates of a copy, in order with z_0 fastest, and the source coordinates of each: y at CPERM[k] is
z_k (R213); owned elements only. -/
def copyPlan (a b : Desc) (p : List Nat) : List (List Int × List Int) :=
  let box := boxCoords (b.d 0).ext (b.d 1).ext (b.d 2).ext (b.d 3).ext
  let dst (z : List Nat) : List Int := (List.range 4).map fun k => (b.d k).org + (z.getD k 0 : Int)
  let src (z : List Nat) : List Int := (List.range 4).map fun d =>
    (a.d d).org + (z.getD ((List.range 4).findIdx fun k => p.getD k k == d) 0 : Int)
  (box.filter fun z => b.owns (dst z)).map fun z => (dst z, src z)

/-- The context address an owned destination element is written at. -/
def Desc.target (b : Desc) (z : List Int) : Nat := b.addr (z.map Int.toNat)

/-- The source bytes a copy reads, and the destination bytes it writes. -/
def copyReads (a : Desc) (plan : List (List Int × List Int)) : List Nat :=
  plan.flatMap fun p => match a.source p.2 with | .far va => upFrom va a.esize | .fill _ => []
def copyWrites (b : Desc) (plan : List (List Int × List Int)) : List Nat :=
  plan.flatMap fun p => upFrom (b.target p.1) b.esize

/-- Bytes common to two hulls (R216). -/
def overlapBytes (x y : Option (Nat × Nat)) : Nat :=
  match x, y with
  | some (l, h), some (l', h') => min h h' + 1 - max l l'
  | _, _ => 0

/-- The copy takes the in-place path (R216). -/
def inPlace (a b : Desc) (p : List Nat) : Bool :=
  a.words.take 10 == b.words.take 10 && p == [1, 0, 2, 3] && (a.d 0).lb == (a.d 1).lb && (a.d 0).ext == (a.d 1).ext &&
  (a.d 0).ext % 2 ^ (a.d 0).lb == 0 && (a.d 0).org % (2 ^ (a.d 0).lb : Nat) == 0 &&
  (a.d 1).org % (2 ^ (a.d 1).lb : Nat) == 0 && a.inside && a.dim.all fun d => d.olo == 0 && d.ohi == 0

/-- The elements of a copy before the first whose source cannot be read. -/
def readablePlan (s : State) (xl : Table Nat) (a : Desc) (plan : List (List Int × List Int)) : List (List Int × List Int) :=
  plan.takeWhile fun p => match a.source p.2 with
    | .far va => readable s ((upFrom va a.esize).map (viaXl xl))
    | .fill _ => true

/-- The copy that has passed its checks: pages are translated, its source elements are read, and the staging region is
used where the hulls of the bytes read and written meet off the in-place path (R204, R213, R216). A source that cannot be
read stops the copy, and bytes already written stay (R168, R329). Whether it still fills its staging region after this
step is a matter of time and is free (R217, log 10). -/
def startCopy (s : State) (c : Nat) (e : CopyCmd) (a b : Desc) : State :=
  let p := cpPerm e.w0
  let plan := copyPlan a b p
  let reads := copyReads a plan
  let ovl := if inPlace a b p then 0 else overlapBytes (hull reads) (hull (copyWrites b plan))
  if 0x100000 < ovl then copyDone s c e Code.overlap
  else match xlate s e.ctx reads (copyWrites b plan) with
    | (s, .err code level va) =>
      copyDone (s.modCore c fun k => { k with xflt := xfltWord code 1 level va }) c e code
    | (s, .ok xl) =>
      let got := readablePlan s xl a plan
      let r := readCheck s (reads.map (viaXl xl))
      let s := r.1
      let writes := got.flatMap fun q =>
        (List.range b.esize).zipWith (fun i x => (viaXl xl (b.target q.1 + i), x)) (sourceBytes s xl a.esize (a.source q.2))
      let s := if ovl = 0 then s else scramble s (wsPa c (cpStage e.w0 * 0x10000)) 0x100000
      let f := freeNat s
      f.2.modCore c fun k => { k with copy := some ⟨e, writes, r.2⟩, cpStaging := ovl != 0 && f.1 % 2 == 1 }

/-- COPY: the copy at the head of the queue starts, reads its descriptors and is checked (R200, R212, R214). -/
def execCopy (c : Nat) (s : State) : Res :=
  let k := s.core c
  .next (match k.cpq, k.copy with
    | e :: es, none =>
      if !s.coreRuns c || k.drainWaits e.stream e.id then s
      else
        let s := s.setCore c { k with cpq := es }
        match copyCheck s e.w0 e.w1 with
        | some code => copyDone s c e code
        | none =>
          match readWords s c (wsWords c (cpSdesc e.w0) 128 ++ wsWords c (cpDdesc e.w1) 128) with
          | (s, some code) => copyDone s c e code
          | (s, none) =>
            let a := descOf (s.ws c (cpSdesc e.w0) 128)
            let b := descOf (s.ws c (cpDdesc e.w1) 128)
            match copyDescCheck a b (cpPerm e.w0) with
            | some code => copyDone s c e code
            | none => startCopy s c e a b
    | _, _ => s)

/-- COPY_COMPLETE: every destination byte of the running copy is in place, and it reports and posts (R215); an error met
while data moves stops it, and bytes already written stay (R168, R330, R573, log 22). -/
def execCopyComplete (c : Nat) (s : State) : Res :=
  .next (match (s.core c).copy with
    | some r =>
      if s.coreRuns c then
        let (s, err) := match r.stop with
          | some code => (partWrite s r.writes, some code)
          | none => writeStop s r.writes
        let s := s.modCore c fun k => { k with copy := none, cpStaging := false }
        copyDone s c r.cmd (err.getD Code.ok)
      else s
    | none => s)

end Sys2Proof.Machine
end

