-- ==== Sys2Proof/Machine/AgentOps.lean ====
section
/-! DEFINITION. Who makes a CSR access, and how one is refused (R447, R513, R529, R541). -/

namespace Sys2Proof.Machine

/-- The agent can make an access: firmware while the package has power and its pair is not halted; a PF through BAR4 and a function through its
context page once they are served; the debug port at level 1 or 2. -/
def agentLive (s : State) : Agent → Bool
  | .firmware p => decide (p < 2) && s.powered && s.clocked .casori && s.clocked .fabric && !s.mgmt.halted.has (96 + p)
  | .bar4 p => decide (p < 2) && hostServed s (16 * p)
  | .ctxPage n => hostServed s n
  | .debugPort => decide (1 ≤ s.sec.debug) && s.clocked .debug

/-- SRCCLASS, INDEX and SUB of a requester (R529). -/
def agentSrc : Agent → SrcClass × Nat × Nat
  | .firmware p => (.casori, p, 0)
  | .bar4 p => (.pcie, 16 * p, 0)
  | .ctxPage n => (.pcie, n, 0)
  | .debugPort => (.sec, 0, 1)

/-- An access event of a write by an agent (R529). `kind`: 0 format, 1 unmapped, 2 refused. -/
def agentEvent (s : State) (ag : Agent) (off kind width : Nat) (write : Bool) : State :=
  let a := agentSrc ag
  accessEvent s a.1 a.2.1 a.2.2 off kind write width

/-- A write is refused: discarded and recorded. -/
def refuseWrite (s : State) (ag : Agent) (off width : Nat) : State := agentEvent s ag off 2 width true

/-- A configuration write that a rule discards is recorded with the requester as its source (log 31). -/
def discardBy (s : State) (ag : Agent) (off : Nat) : State :=
  let a := agentSrc ag
  record s ⟨0x03, 0, a.1, a.2.1, a.2.2, 0, off, 0⟩

end Sys2Proof.Machine
end

