-- ==== Sys2Proof/Machine/Cvu.lean ====
section
/-! DEFINITION. The check-value units' commands (R544 to R549). -/

namespace Sys2Proof.Machine

/-- CSR offset of a register of channel k. -/
def cvCsr (k off : Nat) : Nat := 0x1100000 + k * 0x100 + off

/-- The agent may write channel k: firmware, or the PF of the channel's port (R546). -/
def cvMay (ag : Agent) (k : Nat) : Bool :=
  match ag with
  | .firmware _ => true
  | .bar4 p => p == k / 2
  | _ => false

/-! ### CVCTL (R546, R548) -/

/-- INIT of a FEED: the initial value, then the CVTAG and CVSEQ bytes if FOLD = 1. -/
def CvChan.init (x : CvChan) : CvChan :=
  if x.mode = 3 then
    let c := cvRun x.wide (cvInit x.wide) x.prefixBytes
    { x with acc := some (BitVec.ofNat 64 c), res := BitVec.ofNat 64 (cvFinal x.wide c) }
  else x

/-- Both sides are VA and the ranges read and written meet. -/
def CvChan.overlap (x : CvChan) : Bool :=
  !x.sspace && !x.dspace && decide (0 < x.writes) && decide (x.src.toNat < x.dst.toNat + x.writes) &&
  decide (x.dst.toNat < x.src.toNat + x.reads)

/-- The destination is a host address; CHECK ignores DSPACE. -/
def CvChan.hostDst (x : CvChan) : Bool := x.dspace && decide (x.mode ≠ 1)

/-- The checks of a GO, in order; one that passes runs. -/
def cvGo (s : State) (k : Nat) : State :=
  let x := s.cv k
  if x.mode = 3 ∨ (x.sspace ∧ x.hostDst) then cvDone s k Code.badParam
  else if x.len = 0 then cvDone s k Code.okEmpty
  else if x.overlap then cvDone s k Code.overlap
  else
    match xlate s (cvCtx k) (if x.sspace then [] else upFrom x.src.toNat x.reads)
        (if x.hostDst then [] else upFrom x.dst.toNat x.writes) with
    | (s, .err c _ _) => cvDone s k c
    | (s, .ok xl) => s.modCv k fun x => { x with run := some xl }

/-- A write of CVCTL, the bits of `m` reached. While an operation runs only ABORT acts; GO with ABORT is discarded. -/
def cvCtlWrite (s : State) (ag : Agent) (k : Nat) (val m : W64) : State :=
  let x := s.cv k
  let v := val &&& m
  let go := v.getLsbD 63
  let abort := v.getLsbD 61
  if !cvMay ag k then refuseWrite s ag (cvCsr k 0) 8
  else if go && abort then discardBy s ag (cvCsr k 0)
  else if x.busy then (if abort then cvEnd s k Code.aborted else discardBy s ag (cvCsr k 0))
  else
    let x := { x with ctl := (x.ctl &&& ~~~m) ||| (v &&& cvCtlMask) }
    let s := s.setCv k (if v.getLsbD 62 then x.init else x)
    if go then cvGo s k else s

/-- CV_GO. -/
def execCvGo (ag : Agent) (k : Nat) (val : W64) (s : State) : Res :=
  .next (if agentLive s ag && decide (k < 4) && val.getLsbD 63 then cvCtlWrite s ag k val (-1) else s)

/-- CV_ABORT. -/
def execCvAbort (ag : Agent) (k : Nat) (val : W64) (s : State) : Res :=
  .next (if agentLive s ag && decide (k < 4) && val.getLsbD 61 then cvCtlWrite s ag k val (-1) else s)

/-- CV_INIT. -/
def execCvInit (ag : Agent) (k : Nat) (val : W64) (s : State) : Res :=
  .next (if agentLive s ag && decide (k < 4) && val.getLsbD 62 then cvCtlWrite s ag k val (-1) else s)

/-! ### FEED (R549) -/

/-- The bytes that a write of CVFEED adds: 8, or the 4 of the half it reaches. -/
def feedBytes (off width : Nat) (val : W64) : Option (List Byte) :=
  if width = 8 ∧ off = 0x30 then some (leBytes 8 val.toNat)
  else if width = 4 ∧ (off = 0x30 ∨ off = 0x34) then some (leBytes 4 val.toNat)
  else none

/-- Bytes fed to a channel. Feeds in another mode, or before any INIT, are discarded. -/
def cvFeed (s : State) (ag : Agent) (k off width : Nat) (val : W64) : State :=
  let x := s.cv k
  if !cvMay ag k then refuseWrite s ag (cvCsr k off) width
  else match feedBytes off width val with
  | none => agentEvent s ag (cvCsr k off) 0 width true
  | some bs =>
    match x.acc with
    | none => s
    | some c =>
      if x.mode ≠ 3 then s
      else
        let c := cvRun x.wide c.toNat bs
        s.setCv k { x with acc := some (BitVec.ofNat 64 c), res := BitVec.ofNat 64 (cvFinal x.wide c) }

/-- CV_FEED; `val` holds the bytes written, from bit 0 on. -/
def execCvFeed (ag : Agent) (k off width : Nat) (val : W64) (s : State) : Res :=
  .next (if agentLive s ag && decide (k < 4) then cvFeed s ag k off width val else s)

/-! ### The operation (R547, R548) -/

/-- Bytes at the source, whatever their check bits say. -/
def cvSource (s : State) (k : Nat) (xl : Table Nat) : List Byte :=
  let x := s.cv k
  if x.sspace then hostBytes s (cvCtx k) x.src.toNat x.reads else (upFrom x.src.toNat x.reads).map fun a => s.byte (viaXl xl a)

/-- What goes to the destination: the data, and in APPEND its check value. -/
def CvChan.output (x : CvChan) (bs : List Byte) : List Byte :=
  if x.mode = 0 then bs ++ leBytes x.w (x.value bs) else if x.mode = 2 then bs.take x.len else []

/-- The operation ends with its result: CVRES, and OK or E_VERIFY. -/
def cvResult (s : State) (k : Nat) (bs : List Byte) : State :=
  let x := s.cv k
  let v := x.value (bs.take x.len)
  let s := s.setCv k { x with res := BitVec.ofNat 64 v }
  cvDone s k (if x.mode = 0 ∨ bs.drop x.len = leBytes x.w v then Code.ok else Code.verify)

/-- An operation that fails before byte n of its source: bytes already written remain (log 22). -/
def cvStop (s : State) (k n : Nat) (xl : Table Nat) (bs : List Byte) (status : Byte) : State :=
  let x := s.cv k
  cvDone (writeSome s (cvCtx k) x.dspace x.dst.toNat n (x.output bs) xl) k status

/-- The bytes of a running operation move. `hostFail`: the host side fails at this byte. -/
def cvMove (s : State) (k : Nat) (xl : Table Nat) (hostFail : Option Nat) : State :=
  let x := s.cv k
  let host := x.sspace || x.hostDst
  match if x.sspace then hostXlate s (cvCtx k) x.src.toNat x.reads
      else if x.hostDst then hostXlate s (cvCtx k) x.dst.toNat x.writes else (s, .ok) with
  | (s, .wait) => s
  | (s, .fail a) => cvStop s k (a - (if x.sspace then x.src.toNat else x.dst.toNat)) xl (cvSource s k xl) Code.xlate
  | (s, .ok) =>
    let bs := cvSource s k xl
    match if host then hostFail else none with
    | some n => cvStop s k n xl bs Code.xlate
    | none =>
      match if x.sspace then (s, none) else readCheck s ((upFrom x.src.toNat x.reads).map (viaXl xl)) with
      | (s', some c) => cvStop s' k (firstBad s x.src.toNat x.reads xl - x.src.toNat) xl bs c
      | (s', none) =>
        match if x.mode = 1 then (s', none) else cvWrite s' k xl (x.output bs) with
        | (s', some c) => cvDone s' k c
        | (s', none) => cvResult s' k bs

/-- CV_COMPLETE. -/
def execCvComplete (k : Nat) (hostFail : Option Nat) (s : State) : Res :=
  .next (match (s.cv k).run with
    | some xl => cvMove s k xl hostFail
    | none => s)

end Sys2Proof.Machine
end

