-- ==== Sys2Proof/Machine/Links.lean ====
section
/-! DEFINITION. The links: receiving, sending and replaying flits, states and training, routing and bond registers
(R354 to R378). -/

namespace Sys2Proof.Machine

/-! ### Receiving -/

/-- A counter of codewords goes up, and saturates. -/
def addWords (c : W64) (n : Nat) : W64 := if c.toNat + n < 2 ^ 64 then c + BitVec.ofNat 64 n else -1

/-- The codewords decoded with a received flit: of the up to four that hold parts of it, FECC counts those corrected, and
FECU those uncorrectable where some were. What reached the decoder is not part of a command, so the numbers are free
(R355, R376, logs 10, 69). -/
def countFec (s : State) (l : Nat) (fec : Bool) : State :=
  let (n, s) := freeNat s
  s.modLink l fun x =>
    { x with fecc := addWords x.fecc (n % 5), fecu := if fec then addWords x.fecu (n / 5 % 5) else x.fecu }

/-- A flit whose CRC fails is discarded whole and counted (R357, R376). -/
def dropFlit (s : State) (l : Nat) : State := s.modLink l fun x => { x with crcErr := satInc 32 x.crcErr }

/-- A received flit on a link that has one of the states `ok`. `sel` says which flits the row is for: a good flit meets
`f`, a bad one `bad`. -/
def rxStep (s : State) (l : Nat) (f : Flit) (fec : Bool) (ok : LinkState → Bool) (sel : Bool) (bad : State → State)
    (go : State → State) : State :=
  if decide (64 ≤ l) || !ok (s.link l).st || s.agg.safe then s
  else if !flitGood f fec then bad (dropFlit (countFec s l fec) l)
  else if sel then go (countFec s l fec)
  else s

def isActive (x : LinkState) : Bool := x == .active
def isUp (x : LinkState) : Bool := x == .training || x == .active || x == .recovery

/-- A good DATA flit in its place is accepted; one already accepted is discarded; after a gap a NAK names the expected
SEQ (R362, R363). The buffer has room for every flit that a peer sends under its credits; one beyond them is discarded
(R360, log 112). -/
def rxData (s : State) (l : Nat) (f : Flit) : State :=
  let s := (s.modLink l fun x => x.takeHeader f).tally 3 0x21 l 0 1
  let x := s.link l
  if f.seq % 4096 = x.rxSeq ∧ x.room f.vl then
    accept ((s.setLink l { x.hold f.vl with rxSeq := (x.rxSeq + 1) % 4096, rxAck := x.rxSeq, nakHold := false }).bwLink l 0 f.plen)
      l f
  else if f.seq % 4096 = x.rxSeq then s.setLink l x.nak
  else if (x.rxSeq + 4096 - f.seq % 4096) % 4096 ≤ 1024 then s
  else s.setLink l x.nak

/-- DATA_FLIT. A flit of a reserved FTYPE is discarded as one whose CRC fails, without a NAK (R357, R362, R363). -/
def execDataFlit (l : Nat) (f : Flit) (fec : Bool) (s : State) : Res :=
  .next (
    if 3 ≤ f.ftype ∧ flitGood f fec then
      (if decide (64 ≤ l) || !isActive (s.link l).st || s.agg.safe then s else dropFlit (countFec s l false) l)
    else if f.ftype = 0 ∨ f.ftype = 2 then s
    else rxStep s l f fec isActive (f.ftype == 1) (fun s => s.modLink l Link.nak) fun s => rxData s l f)

/-- IDLE_FLIT: ACK and a credit count (R357). -/
def execIdleFlit (l : Nat) (f : Flit) (fec : Bool) (s : State) : Res :=
  .next (if f.ftype = 0 then rxStep s l f fec isActive true id fun s => s.modLink l fun x => x.takeHeader f else s)

/-- A CTRL flit's kind (R359). -/
def ctrlKind (f : Flit) : Nat := flitByte f 12

/-- A CTRL flit of a kind. -/
def rxCtrl (s : State) (l : Nat) (f : Flit) (fec : Bool) (ok : LinkState → Bool) (kind : Nat) (go : State → State) : State :=
  if f.ftype = 2 then
    rxStep s l f fec ok (ctrlKind f == kind) id fun s => go (s.modLink l fun x => if x.st = .active then x.takeHeader f else x)
  else s

/-! ### Replays and recovery (R363, R366) -/

/-- The link enters RECOVERY: sequence state is kept (R366). `ask`: it enters for a reason of its own and asks the peer to
follow with RECOVER (R359, log 112). -/
def enterRecovery (s : State) (l : Nat) (ask : Bool) : State :=
  noteMisfits s ((sourceLost s l).modLink l fun x =>
    let x := if ask then x.sendCtrl [5] else x
    { x with st := .recovery, recov := satInc 32 x.recov, param := none, paramSent := false, nakHold := false })

/-- A replay from a SEQ that is unacknowledged; the eighth in a row from one SEQ puts the link in RECOVERY (R363). -/
def startReplay (s : State) (l seq : Nat) : State :=
  let x := s.link l
  if x.replay.any fun r => r.seq == seq then
    let n := match x.lastReplay with
      | some (q, n) => if q = seq then n + 1 else 1
      | none => 1
    let s := s.setLink l { x with resend := some seq, lastReplay := some (seq, n), replays := satInc 32 x.replays }
    let s := s.tally 3 0x22 l 0 1
    if 8 ≤ n then enterRecovery s l true else s
  else s

/-- NAK (R363). -/
def execNak (l : Nat) (f : Flit) (fec : Bool) (s : State) : Res :=
  .next (rxCtrl s l f fec isActive 1 fun s => startReplay s l (flitField f 13 2 % 4096))

/-- NAK_HOLDOFF_EXPIRY (R363). -/
def execNakHoldoffExpiry (l : Nat) (s : State) : Res :=
  .next (if l < 64 then s.modLink l fun x => { x with nakHold := false } else s)

/-- REPLAY_TIMEOUT: flits are unacknowledged and no ACK made progress (R363). -/
def execReplayTimeout (l : Nat) (s : State) : Res :=
  .next (if decide (l < 64) && isActive (s.link l).st then
      match (s.link l).replay with
      | r :: _ => startReplay s l r.seq
      | [] => s
    else s)

/-- The bring-up grant has been made: the request has left the ledger's order. -/
def bringUpGranted (s : State) (l : Nat) : Bool := !(s.power.waiting.any fun r => decide (r.who = .link l))

/-- The link exchanges PARAM: it is in RECOVERY or has its grant in TRAINING, and DEVID is assigned (R365, R366). -/
def exchanges (s : State) (l : Nat) : Bool :=
  ((s.link l).st == .recovery || ((s.link l).st == .training && bringUpGranted s l)) && s.net.devId != 0xFFFF

/-- The link sends its own PARAM where it exchanges it. -/
def offerParam (s : State) (l : Nat) : State := if exchanges s l then s.modLink l fun x => x.sendParam s.net.devId l else s

/-- PARAM: what the peer says of itself, and the own PARAM in return (R359, R365, R366). -/
def execParam (l : Nat) (f : Flit) (fec : Bool) (s : State) : Res :=
  .next (rxCtrl s l f fec (fun x => x == .training || x == .recovery) 4 fun s =>
    offerParam (s.modLink l fun x =>
      { x with param := some ⟨flitField f 13 2, flitByte f 15 % 64, (List.range 8).map fun v => flitByte f (16 + v)⟩ }) l)

/-- RECOVER (R366). -/
def execRecover (l : Nat) (f : Flit) (fec : Bool) (s : State) : Res :=
  .next (rxCtrl s l f fec isActive 5 fun s => enterRecovery s l false)

/-- CTRL_FLIT_OTHER_KIND: discarded and counted as a framing error (R359). -/
def execCtrlFlitOtherKind (l : Nat) (f : Flit) (fec : Bool) (s : State) : Res :=
  .next (if f.ftype = 2 ∧ (ctrlKind f = 0 ∨ 5 < ctrlKind f) then
      rxStep s l f fec isUp true id fun s => s.modLink l fun x => { x with framing := satInc 32 x.framing }
    else s)

/-- LINK_LOCK_LOSS (R366). -/
def execLinkLockLoss (l : Nat) (s : State) : Res :=
  .next (if decide (l < 64) && isActive (s.link l).st then enterRecovery s l true else s)

/-! ### Sending (R357, R360, R361, R371) -/

/-- Some other member of an enabled bond of link l holds an earlier message of the flit's flow: the flow changed its
member and waits (R371). -/
def flowWaits (s : State) (l : Nat) (f : TxFlit) : Bool :=
  s.net.bonds.any fun p =>
    p.2.en && (bondLinks p.1 p.2).contains l &&
    (bondLinks p.1 p.2).any fun m =>
      m != l && ((s.link m).replay.map (·.flit) ++ (s.link m).out).any fun g =>
        decide (g.mid < f.mid) && g.src == f.src && g.dst == f.dst && g.vl == f.vl

/-- The next new flit: the first waiting whose lane has a credit, no flit of its lane before it (R358, R360). -/
def nextFlit (s : State) (l : Nat) : Option TxFlit :=
  let x := s.link l
  if 1024 ≤ x.replay.length then none
  else ((List.range x.out.length).filterMap fun i =>
    match x.out[i]? with
    | some f =>
      if (x.out.take i).any fun g => g.vl == f.vl then none
      else if x.credits f.vl = 0 ∨ flowWaits s l f then none
      else some f
    | none => none).head?

/-- A DATA flit as it goes on the wire: DST, SRC and HOPS only with SOM (R356). -/
def wireFlit (q : SentFlit) : Flit :=
  let f := q.flit
  ⟨1, f.vl, f.som, f.eom, if f.som then f.hops else 0, q.seq, 0, 0, 0, f.plen, if f.som then f.dst else 0,
    if f.som then f.src else 0, f.payload, 0⟩

/-- A list without its first element equal to f. -/
def dropFirst (f : TxFlit) : List TxFlit → List TxFlit
  | [] => []
  | g :: gs => if g = f then gs else g :: dropFirst f gs

/-- FLIT_TRANSMIT: a flit to be resent goes first, else a new DATA flit under its lane's credits; a forwarded one frees
its place in the buffer of the link it came on (R360, R361, R363). -/
def execFlitTransmit (l : Nat) (s : State) : Res :=
  let x := s.link l
  .next (
    if decide (64 ≤ l) || !isActive x.st then s
    else match x.resend with
      | some q =>
        match x.replay.dropWhile fun r => r.seq != q with
        | r :: rs => (s.setLink l { x.stamp (wireFlit r) with resend := (rs.head?).map (·.seq) }).tally 3 0x20 l 0 1
        | [] => s.setLink l { x with resend := none }
      | none =>
        match nextFlit s l with
        | none => s
        | some f =>
          let r : SentFlit := ⟨x.txSeq, f⟩
          let s := s.setLink l
            { x.stamp (wireFlit r) with
              txSeq := (x.txSeq + 1) % 4096, replay := x.replay ++ [r], out := dropFirst f x.out
              sent := put 0 f.vl ((look 0 f.vl x.sent + 1) % 4096) x.sent }
          freeDropped ((s.tally 3 0x20 l 0 1).bwLink l 1 f.plen) [f])

/-- IDLE_FLIT_SEND: nothing else is to be sent (R357). In TRAINING and RECOVERY the own PARAM goes instead (R365, R366,
log 112). -/
def execIdleFlitSend (l : Nat) (s : State) : Res :=
  let x := s.link l
  .next (if decide (64 ≤ l) then s
    else if isActive x.st && x.resend.isNone && (nextFlit s l).isNone then s.setLink l (x.stamp idleFlit)
    else offerParam s l)

/-! ### States (R364 to R367, R375, R493) -/

/-- The I/O die of a link is at hot or above: no bring-up starts there (R493). -/
def ioHot (s : State) (die : Nat) : Bool := decide (2 ≤ (dtempOf s (4 + die)).tlevel)

/-- LINK_ENABLE: a link in OFF starts training with a ledger request of 8 units (R365, R483); under CLASS 0b11 it stays
in OFF (R354), and so it does while its die is hot (R493). A FAILED link needs ENABLE 0 first (R364). -/
def linkEnable (s : State) (l : Nat) : State :=
  let x := { s.link l with enable := true }
  if x.st = .off ∧ x.cls ≠ 3 ∧ !ioHot s (ceOf l) then
    sendRequest (s.setLink l { x with st := .training, param := none, paramSent := false }) (.link l) 8
  else s.setLink l x

def execLinkEnable (l : Nat) (s : State) : Res := .next (if s.powered && decide (l < 64) && !s.agg.safe then linkEnable s l else s)

/-- LINK_DISABLE: ENABLE = 0 takes the link to OFF as a failure (R375). -/
def linkDisable (s : State) (l : Nat) : State :=
  let s := s.modLink l fun x => { x with enable := false }
  match (s.link l).st with
  | .off => s
  | .failed => s.modLink l fun x => { x with st := .off }
  | _ => failLink s l .off none

def execLinkDisable (l : Nat) (s : State) : Res := .next (if l < 64 then linkDisable s l else s)

/-- LINK_RETRAIN: from ACTIVE into RECOVERY; in any other state discarded (R366, R375). -/
def linkRetrain (s : State) (l : Nat) : State :=
  if isActive (s.link l).st then (enterRecovery s l true).modLink l fun x => { x with retrain := true } else s

def execLinkRetrain (l : Nat) (s : State) : Res := .next (if l < 64 then linkRetrain s l else s)

/-- LINK_TRAINING_COMPLETE: the own PARAM has gone, the peer is recorded, SEQ, ACK and credit counts start at zero, the
link is ACTIVE, and its grant is released (R365). It waits for the grant, for PARAM, and while DEVID is unassigned. -/
def execLinkTrainingComplete (l : Nat) (s : State) : Res :=
  let x := s.link l
  .next (
    if decide (l < 64) && x.st == .training && bringUpGranted s l && s.net.devId != 0xFFFF then
      match x.param with
      | none => s
      | some p =>
        let x := if x.paramSent then x else x.sendParam s.net.devId l
        noteMisfits s (dropGrant (s.setLink l
          { x with st := .active, peerDev := p.dev, peerLink := p.link, txSeq := 0, replay := [], resend := none,
                   lastReplay := none, sent := [], crcnt := [], held := [], freed := [], rxSeq := 0, rxAck := 0
                   nakHold := false, arriving := []
                   limit := putAll 0 ((List.range 8).map fun v => (v, p.limits.getD v 0)) [] }) (.link l))
    else s)

/-- LINK_TRAINING_TIMEOUT: FREASON 1 (R365). -/
def execLinkTrainingTimeout (l : Nat) (s : State) : Res :=
  .next (if decide (l < 64) && (s.link l).st == .training && bringUpGranted s l then failLink s l .failed (some 1) else s)

/-- LANE_DID_NOT_TRAIN: FREASON 4 (R354, R375). -/
def execLaneDidNotTrain (l : Nat) (s : State) : Res :=
  .next (if decide (l < 64) && ((s.link l).st == .training || (s.link l).st == .recovery) then
      failLink s l .failed (some 4)
    else s)

/-- LINK_RECOVERY_COMPLETE: with the same peer the link is ACTIVE again, sends its ACK, and starts a replay of what is
unacknowledged; with another it fails with FREASON 3 (R366). -/
def execLinkRecoveryComplete (l : Nat) (s : State) : Res :=
  let x := s.link l
  .next (
    if decide (l < 64) && x.st == .recovery && s.net.devId != 0xFFFF then
      match x.param with
      | none => s
      | some p =>
        if p.dev = x.peerDev ∧ p.link = x.peerLink then
          let x := if x.paramSent then x else x.sendParam s.net.devId l
          let x := { x.stamp idleFlit with st := .active, retrain := false, lastReplay := none }
          let s := noteMisfits s (s.setLink l x)
          match x.replay with
          | r :: _ => startReplay s l r.seq
          | [] => s
        else failLink s l .failed (some 3)
    else s)

/-- LINK_RECOVERY_TIMEOUT: FREASON 2 (R366). -/
def execLinkRecoveryTimeout (l : Nat) (s : State) : Res :=
  .next (if decide (l < 64) && (s.link l).st == .recovery then failLink s l .failed (some 2) else s)

/-! ### Routing registers (R371, R378) -/

/-- RTDATA_WRITE: the entry RTIDX names, and RTIDX moves on (R378). -/
def rtDataWrite (s : State) (val : W64) : State :=
  { s with net := { s.net with route := put 0 s.net.rtIdx (val.setWidth 16) s.net.route, rtIdx := (s.net.rtIdx + 1) % 65536 } }

def execRtdataWrite (val : W64) (s : State) : Res := .next (if s.powered then rtDataWrite s val else s)

/-- CSR offset of a register of link l. -/
def linkCsr (l off : Nat) : Nat := 0xA00000 + l * 0x1000 + off

/-- BOND_WRITE: more than 8 members are not accepted, and an event is recorded; so is one for each member whose peer is not
the bond's (R371). -/
def bondWrite (s : State) (k : Nat) (val : W64) : State :=
  let m : W32 := val.setWidth 32
  if 8 < popCount 32 m.toNat then
    record s ⟨0x03, 0, .link, if 16 ≤ k then 32 else 0, 0, 0, linkCsr (if 16 ≤ k then 32 else 0) (0x900 + k * 8), 0⟩
  else noteMisfits s { s with net := { s.net with bonds := put ⟨false, 0⟩ k ⟨val.getLsbD 63, m⟩ s.net.bonds } }

def execBondWrite (k : Nat) (val : W64) (s : State) : Res := .next (if s.powered && decide (k < 32) then bondWrite s k val else s)

end Sys2Proof.Machine
end

