-- ==== Sys2Proof/Machine/SafeState.lean ====
section
/-! DEFINITION. Entry to the package safe state (R523 to R526). -/

namespace Sys2Proof.Machine

/-- The copies of a core end: bytes already written remain (log 22). -/
def stopCopy (s : State) (c : Nat) (status : Byte) : State :=
  let k := s.core c
  match k.copy with
  | some r =>
    (partWrite s r.writes).modCore c fun k => { k with copy := none, cpStaging := false, cpq := [], cpLast := status }
  | none => if k.cpq = [] then s else s.setCore c { k with cpq := [], cpLast := status }

/-- Every grant, tail and request of the ledger goes (R524 step 7). -/
def clearLedger (s : State) : State :=
  let half (h : Half) : Half := { h with book := 0, tails := [] }
  let mx (x : Mxa) : Mxa := { x with west := half x.west, east := half x.east }
  let ve (x : Ve) : Ve := { x with book := 0, tail := 0 }
  { s with
    cores := remap .reset (fun k =>
      { k with grant := 0, mxa0 := mx k.mxa0, mxa1 := mx k.mxa1, ve0 := ve k.ve0, ve1 := ve k.ve1
               running := k.running.map fun t => { t with burst := 0, tail := false } }) s.cores
    power := { s.power with waiting := [], grants := [] } }

/-- Every link that is not OFF goes to OFF (R524 step 5, R367). -/
def linksOff (s : State) : State :=
  ((s.net.links.filter fun p => decide (p.2.st ≠ .off)).map (·.1)).foldl (fun s l => failLink s l .off none) s

/-- Every program, batch, put, get, copy and packet ends with a status (R524 steps 2 and 3). -/
def endEverything (s : State) (status : Byte) : State :=
  let s := (endOnCores s allCores status fun _ _ => true).1
  let s := abortBatches s status fun _ => true
  let s := (endXfers s status fun _ => true).1
  let s := (s.cores.map (·.1)).foldl (fun s c => stopCopy s c status) s
  let s := cvEndPort (cvEndPort s 0 status) 1 status
  endPkts s status fun _ => true

/-- The hardware's actions on entry, in order; `e` is the event that caused it and `seq` the number of its record. The
record of the entry names the source of that event. -/
def enterSafe (s : State) (cause seq : Nat) (e : Event) : State :=
  let status := if cause = 1 then Code.thermal else Code.aborted
  let s := (endInsts s status fun _ => true).1
  let s := endEverything s status
  let s := { s with agg := { s.agg with safe := true, cause := cause } }
  let s := linksOff s
  let s := (List.range 8).foldl (fun s k => if s.hasStack k then hctlClose s k else s) s
  let s := clearLedger s
  let s := record s ⟨0x5F, 3, e.cls, e.index, e.sub, 0, seq, cause⟩
  { s with host := { s.host with p0 := { s.host.p0 with uie := true }, p1 := { s.host.p1 with uie := true } } }

/-- An event that is a cause of the safe state is recorded; the first cause enters it, and a later one is recorded only
(R523, R526). -/
def safeCause (s : State) (cause : Nat) (e : Event) : State :=
  let seq := s.agg.wrptr.toNat
  let s := record s e
  if s.agg.safe then s else enterSafe s cause seq e

end Sys2Proof.Machine
end

