-- ==== Sys2Proof/Machine/Security.lean ====
section
/-! DEFINITION. Identity, attestation, tamper and debug unlock (R504 to R514). -/

namespace Sys2Proof.Machine

def State.setSec (s : State) (x : Sec) : State := { s with sec := x }

/-! ### Zeroisation and tamper (R510 to R512) -/

/-- Secrets are overwritten, the PUF island is down, and IDSTATE is ZEROISED. -/
def Sec.zeroise (x : Sec) : Sec :=
  { x with seed := [], kwrap := [], slhSk := [], rsaPriv := [], challenge := none, puf := none, idState := 3 }

/-- A sensor trips: its bit of SECTMP, and its level. -/
def tamper (s : State) (bit level : Nat) : State :=
  let x := s.sec
  let x := { x with tmp := x.tmp ||| (1 <<< bit), tlevel := max x.tlevel level }
  let x := if 2 ≤ level then x.zeroise else x
  let s := s.setSec x
  let e : Event := ⟨0x50, level, .sec, 0, 0, 0, x.tmp.toNat, level⟩
  if level = 3 then
    let s := s.setBoot { s.boot with phase := 7 }
    safeCause s 3 e
  else record s e

/-- SECTMP bit and level of a sensor. -/
def TamperSensor.bit : TamperSensor → Nat
  | .supply => 1 | .clock => 2 | .temperature => 3 | .shield => 4
def TamperSensor.level : TamperSensor → Nat
  | .shield => 3 | _ => 2

/-- TAMPER_TRIP. -/
def execTamperTrip (sensor : TamperSensor) (s : State) : Res :=
  .next (if s.pkg = .off then s else tamper s (TamperSensor.bit sensor) (TamperSensor.level sensor))

/-! ### Commands with buffers in the issuer's memory (R204) -/

/-- Translates what a command reads and writes; a fault completes its packet with the status. -/
def withXlate (s : State) (pid ctx : Nat) (reads writes : List Nat) (go : State → Table Nat → State) : State :=
  match xlate s ctx reads writes with
  | (s, .err c _ _) => completePkt s pid c 0
  | (s, .ok xl) => go s xl

/-- Reads a range under translations made; an unreadable unit completes the packet with the status. -/
def withRead (s : State) (pid : Nat) (xl : Table Nat) (va n : Nat) (go : State → List Byte → State) : State :=
  match readCheck s ((upFrom va n).map (viaXl xl)) with
  | (s, some c) => completePkt s pid c 0
  | (s, none) => go s (vaBytes s xl va n)

/-- Writes a range under translations made. -/
def withWrite (s : State) (pid : Nat) (xl : Table Nat) (va : Nat) (bs : List Byte) (go : State → State) : State :=
  match writeStop s ((pairs va bs).map fun q => (viaXl xl q.1, q.2)) with
  | (s, some c) => completePkt s pid c 0
  | (s, none) => go s

/-! ### KEY_PUSH (R506, R507) -/

def kpFn (p : Pkt) : Nat := fld (p.w 1) 51 48
def kpVa1 (p : Pkt) : Nat := fld (p.w 1) 47 0
def kpVa2 (p : Pkt) : Nat := fld (p.w 2) 47 0

/-- A reserved bit of W1 or W2 is set; they share the layout of KEY_PUSH and ATTEST but for FN. -/
def kpReserved (p : Pkt) : Bool := fld (p.w 1) 63 52 != 0 || fld (p.w 2) 63 48 != 0

/-- SHA-384 of the device's SLH-DSA public key. -/
def Sec.subject (x : Sec) : List Byte := padTo 48 (Config.sha384 x.slhPk)

/-- The identity that a seed gives. -/
def Sec.derive (x : Sec) (seed helper : List Byte) : Sec :=
  let k := Config.kdfSlh seed
  { x with seed := seed, helper := helper, kwrap := padTo 32 (Config.kdfWrap seed), slhSk := k.1, slhPk := padTo 48 k.2 }

/-- M2 of a blob. -/
def blobM2 (b : List Byte) : List Byte := padTo 48 (Config.sha384 (b.take 1464))

/-- LOAD: the identity of a blob, if the part reconstructs it. -/
def loadIdentity (x : Sec) (b : List Byte) : Option Sec :=
  let helper := (b.drop 8).take 1024
  match x.puf with
  | none => none
  | some r =>
    match Config.pufSeed r helper with
    | none => none
    | some seed =>
      let y := x.derive seed helper
      if (b.drop 1032).take 48 ≠ y.slhPk then none
      else match Config.gcmOpen y.kwrap ((b.drop 1464).take 12) ((b.drop 1476).take 16) (b.take 1464) ((b.drop 1492).take 960) with
      | none => none
      | some priv => some { y with rsaMod := (b.drop 1080).take 384, rsaPriv := priv, idState := 2, m2 := blobM2 b }

/-- KEY_PUSH LOAD. -/
def keyLoad (s : State) (pid : Nat) (p : Pkt) (xl : Table Nat) : State :=
  withRead s pid xl (kpVa1 p) 4096 fun s b =>
    if fieldAt b 0 4 ≠ 1 ∨ !zeroAt b 4 4 ∨ !zeroAt b 2452 1644 then completePkt s pid Code.badParam 0
    else match loadIdentity s.sec b with
    | none => completePkt s pid Code.verify 0
    | some y => completePkt (s.setSec y) pid Code.ok 0

/-- The first 1,080 bytes of a blob, and a whole blob. -/
def blobHead (x : Sec) : List Byte := leBytes 4 1 ++ leBytes 4 0 ++ padTo 1024 x.helper ++ padTo 48 x.slhPk
def blobOf (x : Sec) (modulus iv tag text : List Byte) : List Byte :=
  padTo 4096 (blobHead x ++ padTo 384 modulus ++ padTo 12 iv ++ padTo 16 tag ++ padTo 960 text)

/-- KEY_PUSH ENROL: the RSA part of the blob is zero. -/
def keyEnrol (s : State) (pid : Nat) (p : Pkt) (xl : Table Nat) : State :=
  match s.sec.puf with
  | none => completePkt s pid Code.verify 0
  | some r =>
    let d := freeNat s
    let e := Config.pufEnrol r d.1
    let y := { s.sec.derive e.2 (padTo 1024 e.1) with idState := 1 }
    withWrite d.2 pid xl (kpVa1 p) (blobOf y [] [] [] []) fun s => completePkt (s.setSec y) pid Code.ok 0

/-- The KIND 2 object authorises this device. -/
def authOk (x : Sec) (o : List Byte) : Bool :=
  fieldAt o 0 4 == 2 && headerOk 2 o && (o.drop 16).take 48 == x.subject && (objVerify o).isSome

/-- KEY_PUSH PROVISION. -/
def keyProvision (s : State) (pid : Nat) (p : Pkt) (xl : Table Nat) : State :=
  withRead s pid xl (kpVa2 p) 17120 fun s o =>
    if !authOk s.sec o then completePkt s pid Code.verify 0
    else
      let d := freeNat s
      let iv := freeBytes d.2 12
      let k := Config.rsaKey d.1
      let md := padTo 384 k.1
      let aad := blobHead s.sec ++ md
      let g := Config.gcmSeal s.sec.kwrap iv.1 aad k.2
      let b := blobOf s.sec md iv.1 g.2 g.1
      withWrite iv.2 pid xl (kpVa1 p) b fun s =>
        completePkt (s.setSec { s.sec with rsaMod := md, rsaPriv := k.2, idState := 2, m2 := blobM2 b }) pid Code.ok 0

/-- What a KEY_PUSH reads and writes, by FN. -/
def kpReads (p : Pkt) : List Nat :=
  if kpFn p = 0 then upFrom (kpVa1 p) 4096 else if kpFn p = 2 then upFrom (kpVa2 p) 17120 else []
def kpWrites (p : Pkt) : List Nat := if kpFn p = 1 ∨ kpFn p = 2 then upFrom (kpVa1 p) 4096 else []

/-- KEY_PUSH: translation, then FN and state, then reserved fields. -/
def keyPush (s : State) (pid : Nat) (p : Pkt) : State :=
  withXlate s pid p.ctx (kpReads p) (kpWrites p) fun s xl =>
    let want := if kpFn p = 2 then 1 else 0
    if 2 < kpFn p ∨ s.sec.idState ≠ want ∨ kpReserved p then completePkt s pid Code.badParam 0
    else if kpFn p = 0 then keyLoad s pid p xl
    else if kpFn p = 1 then keyEnrol s pid p xl
    else keyProvision s pid p xl

/-- KEY_PUSH. -/
def execKeyPush (q : Nat) (s : State) : Res := .next (dispatch opKeyPush noneAbsent keyPush q s)

/-! ### ATTEST (R508, R509) -/

/-- M3. -/
def Sec.m3 (x : Sec) : List Byte := padTo 48 [BitVec.ofNat 8 x.debug, BitVec.ofNat 8 x.tlevel]

/-- Bytes 0 to 767 of the report of a context over a nonce. -/
def reportBody (s : State) (ctx : Nat) (nonce : List Byte) : List Byte :=
  let x := s.sec
  padTo 768 (leBytes 4 4 ++ leBytes 4 1 ++ leBytes 4 s.boot.version.toNat ++
    [BitVec.ofNat 8 s.boot.keyset, BitVec.ofNat 8 x.debug, BitVec.ofNat 8 x.tlevel, BitVec.ofNat 8 ctx] ++
    leBytes 8 stepping.toNat ++ leBytes 8 s.tbtime.toNat ++ padTo 48 nonce ++
    padTo 48 x.m0 ++ padTo 48 x.m1 ++ padTo 48 x.m2 ++ x.m3 ++ padTo 384 x.rsaMod ++ padTo 48 x.slhPk)

/-- ATTEST: translation, reserved bits, IDSTATE; then the report with both signatures. -/
def attest (s : State) (pid : Nat) (p : Pkt) : State :=
  withXlate s pid p.ctx (upFrom (kpVa2 p) 48) (upFrom (kpVa1 p) 17376) fun s xl =>
    if fld (p.w 1) 63 48 ≠ 0 ∨ fld (p.w 2) 63 48 ≠ 0 then completePkt s pid Code.badParam 0
    else if s.sec.idState ≠ 2 then completePkt s pid Code.perm (BitVec.ofNat 32 s.sec.idState)
    else withRead s pid xl (kpVa2 p) 48 fun s nonce =>
      let body := reportBody s p.ctx nonce
      let d := padTo 48 (Config.sha384 body)
      let r := freeNat s
      let q := freeNat r.2
      let sigs := padTo 384 (Config.rsaSign s.sec.rsaPriv d r.1) ++ padTo 16224 (Config.slhSign s.sec.slhSk d q.1)
      withWrite q.2 pid xl (kpVa1 p) (body ++ sigs) fun s => completePkt s pid Code.ok 0

/-- ATTEST. -/
def execAttest (q : Nat) (s : State) : Res := .next (dispatch opAttest noneAbsent attest q s)

/-! ### DEBUG_UNLOCK (R513) -/

/-- A debug challenge of 16 bytes from the DRBG. -/
def debugChallenge (s : State) (pid : Nat) (p : Pkt) : State :=
  if s.sec.idState ≠ 1 ∧ s.sec.idState ≠ 2 then completePkt s pid Code.perm (BitVec.ofNat 32 s.sec.idState)
  else withXlate s pid p.ctx [] (upFrom (kpVa1 p) 16) fun s xl =>
    let c := freeBytes s 16
    withWrite c.2 pid xl (kpVa1 p) c.1 fun s => completePkt (s.setSec { s.sec with challenge := some c.1 }) pid Code.ok 0

/-- The KIND 3 object unlocks this device: its level. -/
def tokenLevel (x : Sec) (o : List Byte) : Option Nat :=
  let l := fieldAt o 8 4
  if fieldAt o 0 4 == 3 && headerOk 3 o && (l == 1 || l == 2) && (o.drop 16).take 48 == x.subject &&
      decide (x.challenge = some ((o.drop 496).take 16)) && decide (x.slhPk ≠ []) && (objVerify o).isSome
  then some l else none

/-- A failed token is counted; the 16th trips the sensor (R510). -/
def tokenFailed (s : State) (pid : Nat) : State :=
  let n := satInc 8 s.sec.fails
  let s := s.setSec { s.sec with fails := n, challenge := none }
  let s := if n = 16 then tamper s 0 1 else s
  completePkt s pid Code.verify 0

/-- A debug token is verified. -/
def debugToken (s : State) (pid : Nat) (p : Pkt) : State :=
  withXlate s pid p.ctx (upFrom (kpVa1 p) 17120) [] fun s xl =>
    withRead s pid xl (kpVa1 p) 17120 fun s o =>
      match tokenLevel s.sec o with
      | none => tokenFailed s pid
      | some l =>
        let x := { s.sec with challenge := none }
        let x := if l = 2 then x.zeroise else x
        completePkt (s.setSec { x with debug := max x.debug l }) pid Code.ok 0

/-- DEBUG_UNLOCK. -/
def debugUnlock (s : State) (pid : Nat) (p : Pkt) : State :=
  if 1 < kpFn p then completePkt s pid Code.badParam 0
  else if 2 ≤ s.sec.tlevel then completePkt s pid Code.perm 0
  else if kpFn p = 0 then debugChallenge s pid p
  else debugToken s pid p

/-- DEBUG_UNLOCK. -/
def execDebugUnlock (q : Nat) (s : State) : Res := .next (dispatch opDebugUnlock noneAbsent debugUnlock q s)

end Sys2Proof.Machine
end

