-- ==== Sys2Proof/Machine/Power.lean ====
section
/-! DEFINITION. LEDGER_SET, parking, die temperature, clocks and supplies (R479 to R494). -/

namespace Sys2Proof.Machine

/-! ### Dies (R480, R481) -/

def State.setDie (s : State) (d : Nat) (x : DieState) : State :=
  { s with power := { s.power with die := put .run d x s.power.die } }
def State.parksOf (s : State) (d : Nat) : List ParkOp := look [] d s.power.parks
def State.setParks (s : State) (d : Nat) (l : List ParkOp) : State :=
  { s with power := { s.power with parks := put [] d l s.power.parks } }

/-- The cores of a die. -/
def dieCores (d : Nat) : List Nat := upFrom (24 * d) 24

/-- Launches that wait on a die's cores complete with a status. -/
def endLaunches (s : State) (d : Nat) (status : Byte) : State :=
  (dieCores d).foldl (fun s c =>
    let ls := (s.core c).launches
    ls.foldl (fun s l => launchEnded s l.pid c status 0) (s.modCore c fun k => { k with launches := [] })) s

/-! ### Parks and unparks (R490) -/

/-- What the head of a die's parks does when its turn comes: it is answered at once, or it starts. -/
def parkAnswer (s : State) (d : Nat) (p : ParkOp) : Option Byte :=
  if p.park then (if s.dieState d = .parked then some Code.ok else none)
  else if s.dieState d = .run then some Code.ok
  else if s.dieState d = .tripped ∧ s.power.hot.toNat - s.power.hyst.toNat ≤ (dtempOf s d).temp.toNat then some Code.thermal
  else none

/-- The parks of a die go on: each is checked once every earlier one has completed; at most n of them. -/
def startParks : Nat → State → Nat → State
  | 0, s, _ => s
  | n + 1, s, d =>
    match s.parksOf d with
    | [] => s
    | p :: ps =>
      match parkAnswer s d p with
      | some e => startParks n (completePkt (s.setParks d ps) p.pid e 0) d
      | none => if p.park then endLaunches s d Code.badParam else s

/-- A park or unpark of a die joins those that wait. -/
def addPark (s : State) (d : Nat) (p : ParkOp) : State :=
  let l := s.parksOf d
  let s := s.setParks d (l ++ [p])
  if l = [] then startParks 1 s d else s

/-- The park or unpark in progress completes. -/
def parkDone (s : State) (d : Nat) (p : ParkOp) (ps : List ParkOp) : State :=
  startParks ps.length (completePkt (s.setParks d ps) p.pid Code.ok 0) d

/-! ### LEDGER_SET (R490) -/

def lsFn (p : Pkt) : Nat := fld (p.w 1) 3 0
def lsDie (p : Pkt) : Nat := fld (p.w 1) 9 8
def lsUnits (p : Pkt) : Nat := fld (p.w 2) 12 0

/-- The die named is absent. -/
def ledgerAbsent (s : State) (p : Pkt) : Bool := (lsFn p == 1 || lsFn p == 2 || lsFn p == 3) && !s.hasDie (lsDie p)

/-- LIMIT and DIELIM set; a raised limit lets waiting requests be decided (R488). -/
def setLimit (s : State) (u : Nat) : State := decideHead { s with power := { s.power with limit := u } }
def setDieLimit (s : State) (d u : Nat) : State :=
  decideHead { s with power := { s.power with dieLim := put 0x4B0 d u s.power.dieLim } }

/-- LEDGER_SET. -/
def ledgerSet (s : State) (pid : Nat) (p : Pkt) : State :=
  let u := lsUnits p
  let d := lsDie p
  match lsFn p with
  | 0 =>
    if u < s.power.base ∨ 6000 < u then completePkt s pid Code.badParam 0
    else completePkt (setLimit s u) pid Code.ok (BitVec.ofNat 32 s.power.limit)
  | 1 =>
    if 6000 < u then completePkt s pid Code.badParam 0
    else completePkt (setDieLimit s d u) pid Code.ok (BitVec.ofNat 32 (dieLimit s d))
  | 2 => addPark s d ⟨pid, true⟩
  | 3 => addPark s d ⟨pid, false⟩
  | _ => completePkt s pid Code.badParam 0

/-- LEDGER_SET (R490). -/
def execLedgerSet (q : Nat) (s : State) : Res := .next (dispatch opLedgerSet ledgerAbsent ledgerSet q s)

/-! ### Park and unpark end (R481, R490) -/

/-- The packets of slot loads that wait on a core. -/
def loadPids (k : Core) : List Nat :=
  (k.ve0.loads ++ k.ve1.loads).filterMap fun l => match l.origin with | .host pid => some pid | .stream _ _ => none

/-- The cores of a die go down: they lose all state, working stores included; a slot load or a copy that waits there
ends with E_ABORTED. -/
def dropCores (s : State) (d : Nat) : State :=
  let s := endLaunches s d Code.badParam
  let s := (dieCores d).foldl (fun s c => (loadPids (s.core c)).foldl (fun s pid => completePkt s pid Code.aborted 0) s) s
  let s := (dieCores d).foldl (fun s c => stopCopy s c Code.aborted) s
  let lo := wsPa (24 * d) 0
  let n := 24 * 0x1000000
  { s with
    cores := s.cores.filter fun p => decide (dieOf p.1 ≠ d)
    mem := s.mem.filter fun p => decide (p.1 < lo) || decide (lo + n ≤ p.1)
    wsBad := s.wsBad.clearRange (lo / 8) (n / 8), wsSoft := s.wsSoft.clearRange (lo / 8) (n / 8)
    agg := { s.agg with tests := s.agg.tests.filter fun p => decide (dieOf (p.1 / 4) ≠ d) } }

/-- DIE_PARK_COMPLETE. -/
def execDieParkComplete (d : Nat) (s : State) : Res :=
  .next (match s.parksOf d with
    | p :: ps =>
      if p.park && (dieCores d).all fun c => (s.core c).prog.isNone then
        parkDone (decideHead ((dropCores s d).setDie d .parked)) d p ps
      else s
    | [] => s)

/-- DIE_UNPARK_COMPLETE. -/
def execDieUnparkComplete (d : Nat) (s : State) : Res :=
  .next (match s.parksOf d with
    | p :: ps => if p.park then s else parkDone (s.setDie d .run) d p ps
    | [] => s)

/-! ### Die temperature (R492, R493) -/

/-- The threshold at which a level is entered. -/
def Power.threshold (p : Power) (l : Nat) : Nat := if l = 1 then p.warm.toNat else if l = 2 then p.hot.toNat else p.crit.toNat

/-- The level a sample falls to, from level l down (R334). -/
def Power.fallTo (p : Power) (t : Nat) : Nat → Nat
  | 0 => 0
  | l + 1 => if t + p.hyst.toNat < p.threshold (l + 1) then p.fallTo t l else l + 1

/-- The level after a sample, from the level before (R334). -/
def Power.levelAfter (p : Power) (old t : Nat) : Nat :=
  let up := if p.crit.toNat ≤ t then 3 else if p.hot.toNat ≤ t then 2 else if p.warm.toNat ≤ t then 1 else 0
  if old ≤ up then up else p.fallTo t old

/-- Sensors of a die: 8 per compute die, 4 per I/O die. -/
def sensorsOf (k : Nat) : Nat := if k < 4 then 8 else 4

/-- Readouts failed in a row after a sample, per sensor. -/
def failsAfter (x : DTemp) (rs : List (Option Int)) : Table Nat :=
  (List.range rs.length).foldl (fun t i =>
    put 0 i (if (rs.getD i none).isSome then 0 else min 3 (look 0 i x.fails + 1)) t) x.fails

/-- The hottest reading, as TEMP holds it. -/
def hottest (rs : List (Option Int)) : Option Nat :=
  (rs.filterMap fun r => r.map clampTemp).foldl (fun a t => some (max t (a.getD 0))) none

/-- A compute die enters TRIPPED: its programs end with E_THERMAL under R246, and its grants and tails are released. -/
def tripDie (s : State) (d : Nat) : State :=
  let s := s.setDie d .tripped
  let s := (dieCores d).foldl (fun s c => outsideEnd s c Code.thermal) s
  let half (h : Half) : Half := { h with book := 0, tails := [] }
  let mx (x : Mxa) : Mxa := { x with west := half x.west, east := half x.east }
  let s := (dieCores d).foldl (fun s c => s.modCore c fun k =>
    { k with grant := 0, mxa0 := mx k.mxa0, mxa1 := mx k.mxa1, ve0 := { k.ve0 with book := 0, tail := 0 }
             ve1 := { k.ve1 with book := 0, tail := 0 } }) s
  decideHead s

/-- What a die at critical does (R493). -/
def dieCritical (s : State) (k t : Nat) : State :=
  let e : Event := ⟨0x32, 2, .power, k, 0, Code.thermal, t, 0⟩
  if k < 4 then
    let s := record s e
    if s.dieState k = .run then tripDie s k else s
  else safeCause s 1 e

/-- A sample of a die's sensors. -/
def dieSample (s : State) (k : Nat) (rs : List (Option Int)) : State :=
  let x := dtempOf s k
  let fails := failsAfter x rs
  let sfail := fails.any fun p => decide (3 ≤ p.2)
  let t := (hottest rs).getD x.temp.toNat
  let l0 := match hottest rs with | some t => s.power.levelAfter x.tlevel t | none => x.tlevel
  let l := if sfail then max 2 l0 else l0
  let new := (List.range rs.length).filter fun i => decide (look 0 i fails = 3) && decide (look 0 i x.fails = 2)
  let s := { s with power := { s.power with dtemp := put .reset k ⟨l, sfail, BitVec.ofNat 8 t, fails⟩ s.power.dtemp } }
  let s := new.foldl (fun s i => record s ⟨0x31, 1, .power, k, i, 0, 0, 0⟩) s
  let s := if l = x.tlevel then s else record s ⟨0x30, 0, .power, k, 0, 0, t, l⟩
  let s := if l = 3 ∧ (x.tlevel ≠ 3 ∨ (k < 4 ∧ s.dieState k = .run)) then dieCritical s k t else s
  decideHead s

/-- The die is present. -/
def diePresent (s : State) (k : Nat) : Bool := if k < 4 then s.hasDie k else decide (k < 6)

/-- DIE_TEMP_SAMPLE: firmware samples a die from FW_INIT on. -/
def execDieTempSample (k : Nat) (readings : List (Option Int)) (s : State) : Res :=
  .next (
    if diePresent s k && decide (readings.length = sensorsOf k) && (s.boot.phase == 4 || s.boot.phase == 5) then dieSample s k readings
    else s)

/-! ### DTHERM (R494) -/

/-- A write of DTHERM: discarded as a whole unless WARM < HOT < CRIT holds after it. -/
def dthermWrite (s : State) (val : W64) : State :=
  let v := val.toNat
  if s.power.thLock then s
  else if fld v 7 0 < fld v 15 8 ∧ fld v 15 8 < fld v 23 16 then
    { s with power := { s.power with
        thLock := val.getLsbD 63, hyst := BitVec.ofNat 8 (fld v 31 24), crit := BitVec.ofNat 8 (fld v 23 16)
        hot := BitVec.ofNat 8 (fld v 15 8), warm := BitVec.ofNat 8 (fld v 7 0) } }
  else discardWrite s .power 0 0xE000C0

/-- DTHERM_WRITE. -/
def execDthermWrite (val : W64) (s : State) : Res := .next (if s.powered then dthermWrite s val else s)

/-! ### Clocks and supplies (R479, R517, R523) -/

/-- CLKSTS. -/
def clksts (p : Power) : Nat :=
  b2n p.clkSys + 2 * b2n p.clkL0 + 4 * b2n p.clkL1 + 8 * b2n p.clkP0 + 16 * b2n p.clkP1

/-- The variant has the domain (R477). -/
def State.hasDomain (s : State) : ClockDomain → Bool
  | .arith d => s.hasDie d
  | .hbm k => s.hasStack k
  | .phy k => s.hasStack k
  | .ingest k => s.variant.ingest && decide (k < 2)
  | .link m => decide (m < 32)
  | .pcie n => decide (n < 2)
  | _ => true

/-- The reference of a domain: 0 SYSREF, 1 and 2 LREF0 and LREF1, 3 and 4 PREF0 and PREF1; its bit of CLKSTS (R477). -/
def domainRef : ClockDomain → Nat
  | .link m => if m < 16 then 1 else 2
  | .pcie n => 3 + n
  | _ => 0

/-- The power block with the lock bit of a reference clear. -/
def Power.unlock (p : Power) (ref : Nat) : Power :=
  { p with clkSys := p.clkSys && ref != 0, clkL0 := p.clkL0 && ref != 1, clkL1 := p.clkL1 && ref != 2,
           clkP0 := p.clkP0 && ref != 3, clkP1 := p.clkP1 && ref != 4 }

/-- The domain runs: its reference has locked, and its own PLL has not lost lock since. -/
def domainRuns (s : State) (d : ClockDomain) : Bool :=
  s.hasDomain d && !s.power.stopped.contains d &&
  (bitOf (clksts s.power) (domainRef d) || s.power.stopped.any fun e => domainRef e == domainRef d)

/-- PLL_LOCK_LOSS: the domain stops until a reset, and the part enters the safe state with cause fault (R479, log 89). -/
def execPllLockLoss (dom : ClockDomain) (s : State) : Res :=
  .next (
    if domainRuns s dom then
      let p := s.power.unlock (domainRef dom)
      let s := { s with power := { p with stopped := dom :: p.stopped } }
      safeCause s 2 ⟨0x38, 3, .power, 0, 0, 0, clksts s.power, 0⟩
    else s)

/-- SUPPLY_MONITOR_TRIP; a rail of IOD0's core or SEC trips the tamper sensor too (R510). -/
def execSupplyMonitorTrip (rail millivolts : Nat) (sec : Bool) (s : State) : Res :=
  .next (
    if s.pkg = .off then s
    else
      let s := safeCause s 2 ⟨0x39, 3, .power, 0, 0, 0, rail, millivolts⟩
      if sec then tamper s 1 2 else s)

/-- POWER_RAILS_FALL: the package is OFF and keeps nothing (R480). -/
def execPowerRailsFall (s : State) : Res := .next (resetTo s .off strapsLow)

end Sys2Proof.Machine
end

