-- ==== Sys2Proof/Machine/Tally.lean ====
section
/-! DEFINITION. The tally counter unit's commands (R532 to R543). -/

namespace Sys2Proof.Machine

/-- CSR offset of a TLY register. -/
def tlyCsr (off : Nat) : Nat := 0x1000000 + off

/-- The agent may write an item: firmware, or the context that holds it (R541). -/
def tlyMay (ag : Agent) (h : Option Nat) : Bool :=
  match ag with
  | .firmware _ => true
  | .ctxPage n => h == some n
  | _ => false

/-! ### TLYSEL (R532, R533, R542) -/

/-- A combination of SRCCLASS and EVENT of R533. -/
def eventListed (cls ev : Nat) : Bool :=
  match cls with
  | 0 => decide (1 ≤ ev) && decide (ev ≤ 8)
  | 1 => decide (0x10 ≤ ev) && decide (ev ≤ 0x13)
  | 3 => decide (0x20 ≤ ev) && decide (ev ≤ 0x22)
  | 4 => ev == 0x28 || ev == 0x29
  | 5 => ev == 0x30 || ev == 0x31
  | 6 => decide (0x38 ≤ ev) && decide (ev ≤ 0x3A)
  | 7 => ev == 0x40
  | 11 => ev == 0x48
  | _ => false

/-- The source named is present. -/
def sourcePresent (s : State) (cls ev idx sub : Nat) : Bool :=
  match cls with
  | 0 => s.hasCore idx && (!subMatters cls ev || decide (sub < 2))
  | 1 => s.hasStack idx
  | 3 => decide (idx < 64)
  | 4 => decide (idx < 2)
  | 5 => s.variant.ingest && decide (idx < 2)
  | 6 => (sub == 0 && decide (idx < 2)) || (sub == 1 && decide (idx < 32))
  | 7 => s.hasDie idx
  | _ => idx == 0

/-- A context without DEVICE names only its own resources (R542). -/
def sourceOwn (s : State) (n cls idx sub : Nat) : Bool :=
  s.tly.dev.getLsbD n || (cls == 0 && (s.ctx n).cores.getLsbD idx) || (cls == 6 && sub == 1 && idx == n)

/-- The selection is accepted. -/
def selectionOk (s : State) (ag : Agent) (k : Nat) (val : W64) : Bool :=
  let v := val.toNat
  let cls := fld v 59 56
  let ev := fld v 7 0
  let idx := fld v 47 36
  let sub := fld v 35 32
  if bitOf v 62 then k != 0
  else eventListed cls ev && sourcePresent s cls ev idx sub &&
    (match ag with | .ctxPage n => sourceOwn s n cls idx sub | _ => true)

/-- The fields of TLYSEL. -/
abbrev tlySelMask : W64 := 0xCF00FFFF000000FF

/-- A write of TLYSELk. -/
def tlySelWrite (s : State) (ag : Agent) (k : Nat) (val : W64) : State :=
  let off := tlyCsr (0x100 + 8 * k)
  if !tlyMay ag (s.tly.groupOf (k / 8)) then refuseWrite s ag off 8
  else if !selectionOk s ag k val then discardBy s ag off
  else
    let s := flow s
    s.setTly { s.tly with sel := put 0 k (val &&& tlySelMask) s.tly.sel }

/-- TLYSEL_WRITE (R533). -/
def execTlyselWrite (ag : Agent) (k : Nat) (val : W64) (s : State) : Res :=
  .next (if agentLive s ag && decide (k < 64) then tlySelWrite s ag k val else s)

/-! ### Snapshots (R535) -/

/-- Every counter is copied into its shadow. -/
def latch (s : State) : State :=
  let s := flow s
  s.setTly { s.tly with sh := s.tly.cnt }

/-- The agent may snap: firmware, or a context that holds any group. -/
def maySnap (s : State) (ag : Agent) : Bool := (List.range 8).any fun g => tlyMay ag (s.tly.groupOf g)

/-- TLYCTL.SNAP written 1. -/
def tlySnap (s : State) (ag : Agent) : State := if maySnap s ag then latch s else refuseWrite s ag (tlyCsr 0) 8

/-- TLY_SNAP. -/
def execTlySnap (ag : Agent) (s : State) : Res := .next (if agentLive s ag then tlySnap s ag else s)

/-! ### Bandwidth monitors (R536, R537) -/

def Monitor.en (m : Monitor) : Bool := bitOf m.cfg.toNat 63
def Monitor.kind (m : Monitor) : Nat := fld m.cfg.toNat 62 60

/-- The port, link or stack of a BWCFG value is present and its KIND is not reserved. -/
def bwSource (s : State) (v : Nat) : Bool :=
  let i := fld v 53 48
  match fld v 62 60 with
  | 0 => decide (i < 2)
  | 1 => true
  | 2 => s.hasStack i
  | 3 => true
  | _ => false

/-- A write of BWCFGm: a WINDOW outside 1 to 1,000,000 discards it. -/
def bwcfgWrite (s : State) (ag : Agent) (m : Nat) (val : W64) : State :=
  let v := val.toNat
  let w := fld v 19 0
  let off := tlyCsr (0x800 + 0x20 * m)
  if !tlyMay ag s.tly.bw then refuseWrite s ag off 8
  else if w = 0 ∨ 1000000 < w then s
  else if !bwSource s v then discardBy s ag off
  else s.setTly (s.tly.setMon m { Monitor.reset with cfg := val &&& 0xF83F0000000FFFFF })

/-- BWCFG_WRITE (R536, R537). -/
def execBwcfgWrite (ag : Agent) (m : Nat) (val : W64) (s : State) : Res :=
  .next (if agentLive s ag && decide (m < 16) then bwcfgWrite s ag m val else s)

/-- Bytes of the window that ends: those of a link are counted by its flits, those of the others are free (log 30). -/
def windowBytes (s : State) (m : Monitor) : Nat × State :=
  if m.kind = 1 then (m.cur % 2 ^ 48, s) else let r := freeNat s; (r.1 % 2 ^ 48, r.2)

/-- BW_WINDOW_END: the first window counted is the first whole one. -/
def execBwWindowEnd (m : Nat) (s : State) : Res :=
  let x := s.tly.mon m
  .next (
    if !x.en || decide (16 ≤ m) then s
    else if x.whole then
      let r := windowBytes s x
      r.2.setTly (r.2.tly.setMon m { x with last := r.1, peak := max x.peak r.1, wins := x.wins + 1, cur := 0 })
    else s.setTly (s.tly.setMon m { x with whole := true, cur := 0 }))

/-! ### Dumps (R538, R539) -/

/-- Records of the ring. -/
def Tly.ring (t : Tly) : Nat := 2 ^ (if 1 ≤ t.logn ∧ t.logn ≤ 16 then t.logn else 16)

/-- Bytes 0 to 31 of a record. -/
def dumpHeader (t : Tly) (time : W64) : List Byte :=
  padTo 32 (leBytes 8 time.toNat ++ leBytes 4 t.seq.toNat ++ leBytes 4 t.lost.toNat ++ leBytes 8 t.ovf.toNat)

/-- Bytes 32 to 1,023 of a record. -/
def dumpBody (t : Tly) : List Byte :=
  List.replicate 32 0 ++
  ((List.range 64).flatMap fun k => leBytes 8 (if t.groupOf (k / 8) = t.dump then t.cntOf k else 0)) ++
  ((List.range 16).flatMap fun m =>
    if t.bw = t.dump then leBytes 8 ((t.mon m).wins.toNat * 2 ^ 48 + (t.mon m).last) ++ leBytes 8 (t.mon m).peak
    else List.replicate 16 0) ++
  List.replicate 192 0

/-- The dump fails: EN clears and CODE holds the status. -/
def dumpFail (s : State) (code : Byte) : State := s.setTly { s.tly with dEn := false, code := code }

/-- The device address of record n: translated in the holder's context, or a device address while firmware holds the
dump. -/
def dumpTarget (s : State) (va : Nat) : State × Sum Nat Byte :=
  match s.tly.dump with
  | some n =>
    match xlate s n [] (upFrom va 1024) with
    | (s, .err c _ _) => (s, .inr c)
    | (s, .ok xl) => (s, .inl (viaXl xl va))
  | none => (s, if (upFrom va 1024).all (populated s) then .inl va else .inr Code.xlate)

/-- A record is begun: its body is written. -/
def dumpRecord (s : State) : State :=
  let t := s.tly
  match dumpTarget s (t.dva + t.seq.toNat % t.ring * 1024) with
  | (s, .inr c) => dumpFail (s.setTly { s.tly with seq := t.seq + 1 }) c
  | (s, .inl pa) =>
    match writeStop s (pairs (pa + 32) (dumpBody t)) with
    | (s, some c) => dumpFail (s.setTly { s.tly with seq := t.seq + 1 }) c
    | (s, none) => s.setTly { s.tly with seq := t.seq + 1, writing := some ⟨pa, dumpHeader t s.tbtime⟩ }

/-- TLY_DUMP_LATCH: a latch that falls due while a record has not landed has no record. -/
def execTlyDumpLatch (s : State) : Res :=
  .next (
    if !s.tly.dEn then s
    else
      let s := latch s
      if s.tly.writing.isSome then s.setTly { s.tly with lost := satInc 16 s.tly.lost } else dumpRecord s)

/-- DUMP_RECORD_LANDED: the header bytes follow the body. -/
def execDumpRecordLanded (s : State) : Res :=
  .next (match s.tly.writing with
    | none => s
    | some r =>
      match writeCheck s (pairs r.addr r.bytes) with
      | (s, some c) => dumpFail (s.setTly { s.tly with writing := none }) c
      | (s, none) => s.setTly { s.tly with writing := none })

/-! ### TLY_GRANT (R540) -/

/-- TLY_GRANT. -/
def tlyGrant (s : State) (pid : Nat) (p : Pkt) : State :=
  let w := p.w 1
  let n := fld w 4 0
  let revoke := bitOf w 7
  let device := bitOf w 18
  if !functionEnabled s n then completePkt s pid Code.badParam 0
  else if fld w 18 8 = 0 then completePkt s pid Code.okEmpty 0
  else
    let f (o : Option Nat) : Bool := if revoke then o == some n else o != some n
    let r := giveItems s (bitIndices 8 (fld w 15 8)) (bitOf w 17) (bitOf w 16) f (if revoke then none else some n)
    let t := r.1.tly
    let bit := BitVec.ofNat 32 (2 ^ n)
    let t := if device then { t with dev := if revoke then t.dev &&& ~~~bit else t.dev ||| bit } else t
    completePkt (r.1.setTly t) pid Code.ok (BitVec.ofNat 32 r.2)

/-- TLY_GRANT. -/
def execTlyGrant (q : Nat) (s : State) : Res := .next (dispatch opTlyGrant noneAbsent tlyGrant q s)

end Sys2Proof.Machine
end

