-- ==== Sys2Proof/Machine/CsrRead.lean ====
section
/-! DEFINITION. What every register of CSR space reads (R3, R7, R27, and the register tables of the chapters). -/

namespace Sys2Proof.Machine

/-- A register word from its fields: (value, lowest bit). -/
def word (l : List (Nat × Nat)) : W64 := BitVec.ofNat 64 (l.map fun p => p.1 * 2 ^ p.2).sum

/-! ### Mailbox (R500) -/

def mbRead (b : Boot) (n off : Nat) : Option W64 :=
  let m := b.mb n
  match off with
  | 0x00 => some 0
  | 0x08 => some m.addr
  | 0x10 => some (word [(m.len, 0)])
  | 0x18 => some (word [(b.version.toNat, 32), (b.code.toNat, 24), (b2n b.kept, 20), (b.keyset, 18), (b.owner, 17), (b2n m.ign, 16), (b.phase, 0)])
  | _ => none

/-! ### HBM stacks (R345 to R350) -/

def hstsWord (x : Stack) : W64 :=
  word [(x.reserved, 24), (x.repPc.getD 0xFF, 16), (x.state.code, 8), (x.tlevel, 6), (b2n x.spare, 5), (b2n x.repairing, 4),
        (b2n x.training.isSome, 3), (b2n x.tfail, 2)]

def hcfgWord (x : Stack) : W64 :=
  word [(b2n x.cfgLock, 63), (x.scrubH.toNat, 40), (x.rtPer.toNat, 16), (b2n x.repairAuto, 1), (b2n x.spareEn, 0)]

def hthermWord (x : Stack) : W64 :=
  word [(b2n x.thLock, 63), (x.hyst.toNat, 24), (x.crit.toNat, 16), (x.hot.toNat, 8), (x.warm.toNat, 0)]

def hprioWord (x : Stack) : W64 := word [(b2n x.prLock, 63), (x.ctxPrio.toNat, 6), (x.bound.toNat, 0)]

def hpcstWord (p : Pc) : W64 := word [(p.retrains, 24), (p.laneRep, 20), (p.queue.length, 8), (p.state.code, 0)]

def hrsvWord (r : Rsv) : W64 := word [(b2n (decide (r.limit < r.held)), 47), (r.held, 32), (r.limit, 0)]

def stackRead (x : Stack) (off : Nat) : Option W64 :=
  match off with
  | 0x000 => some (hstsWord x)
  | 0x008 => some (hcfgWord x)
  | 0x010 => some (hthermWord x)
  | 0x018 => some (word [(x.seq.toNat, 8), (x.temp.toNat, 0)])
  | 0x020 => some (hprioWord x)
  | 0x028 => some (word [(x.ccnt.toNat, 32), (x.ucnt.toNat, 16)])
  | 0x030 => some x.headdr
  | 0x038 => some 0
  | 0x040 => some (word [(x.poisoned.toNat, 32), (x.copied, 0)])
  | 0x048 => some 0
  | _ =>
    if 0x100 ≤ off ∧ off < 0x300 then some (hpcstWord (x.pc ((off - 0x100) / 8)))
    else if 0x400 ≤ off ∧ off < 0x500 then some (hrsvWord (x.rsvOf ((off - 0x400) / 8)))
    else none

/-! ### LPP (R352) -/

def lppcfgWord (l : Lpp) : W64 := word [(b2n l.lock, 63), (l.rate.toNat, 8), (b2n l.ranks, 6), (l.size.toNat, 0)]

def lppRead (l : Lpp) (off : Nat) : Option W64 :=
  match off with
  | 0x00 => some (lppcfgWord l)
  | 0x08 => some (word [(l.lce.toNat, 32), (l.lue.toNat, 16), (b2n l.sref, 1), (b2n l.ready, 0)])
  | _ => none

/-! ### Links and routing (R374 to R378) -/

def dlctlWord (x : Link) : W64 := word [(x.cls, 10), (b2n x.retrain, 7), (b2n x.enable, 0)]

def dlcredWord (x : Link) : W64 := word ((List.range 7).map fun v => (x.credits v, 8 * v))

def bondWord (s : State) (k : Nat) : W64 :=
  let b := look ⟨false, 0⟩ k s.net.bonds
  word [(b2n b.en, 63), (b.members.toNat, 0)]

def routestsWord (s : State) (die : Nat) : W64 :=
  let n := s.net
  if die = 0 then word [(n.noRoute0.toNat, 32), (n.hopDrop0.toNat, 0)] else word [(n.noRoute1.toNat, 32), (n.hopDrop1.toNat, 0)]

/-- The registers of a die that stand in the blocks of DL0 and DL32. -/
def dieRead (s : State) (l off : Nat) : Option W64 :=
  let n := s.net
  if l ≠ 0 ∧ l ≠ 32 then none
  else match off with
  | 0x800 => some (n.devId.setWidth 64)
  | 0x808 => if l = 0 then some (word [(n.rtIdx, 0)]) else none
  | 0x810 => if l = 0 then some ((look 0 n.rtIdx n.route).setWidth 64) else none
  | 0x818 => if l = 0 then some (word [(n.hopMax, 0)]) else none
  | 0x820 => some (routestsWord s (l / 32))
  | _ =>
    let k := (off - 0x900) / 8
    if 0x900 ≤ off ∧ k / 16 = l / 32 ∧ k < 32 then some (bondWord s k) else none

def linkRead (s : State) (l off : Nat) : Option W64 :=
  let x := s.link l
  match off with
  | 0x000 => some (dlctlWord x)
  | 0x008 => some (dlsts s l)
  | 0x010 => some x.fecc
  | 0x018 => some x.fecu
  | 0x020 => some (word [(x.crcErr.toNat, 32), (x.replays.toNat, 0)])
  | 0x028 => some (word [(x.recov.toNat, 32), (x.fails.toNat, 0)])
  | 0x030 => some (dlcredWord x)
  | 0x038 => some (word [(x.framing.toNat, 0)])
  | _ => dieRead s l off

/-! ### Collective engines (R412 to R415, R439) -/

def cestsWord (s : State) (x : Ce) : W64 :=
  word [((x.plans.filter fun p => p.2.isSome).length, 40), (x.running.length, 32), (x.xfers.length, 16),
        (b2n (x.running.any fun q => match x.plan q.1, q.2 with | some p, some i => instSlow s p i | _, _ => false), 0)]

def hasParity (x : Ce) (h : Nat) : Bool :=
  match x.plan h with | some p => p.parity != .none | none => false

def evstsWord (s : State) (x : Ce) : W64 :=
  word [(x.evLast.toNat, 56), ((x.running.filter fun p => hasParity x p.1).length, 32), (b2n (!s.decodes.isEmpty), 0)]

def ceRead (s : State) (e off : Nat) : Option W64 :=
  let x := s.ce e
  match off with
  | 0x000 => some (cestsWord s x)
  | 0x008 => some x.flt
  | 0x010 => some (word [(x.stale.toNat, 32), (x.aborts.toNat, 0)])
  | 0x020 => some (evstsWord s x)
  | 0x028 => some x.evBytes
  | _ => if 0x100 ≤ off ∧ off < 0x200 then some (look 0 ((off - 0x100) / 8) x.jobs) else none

/-! ### Ingest (R299, R317, R319) -/

def Ingest.idpbOf (g : Ingest) (k : Nat) : Idpb := if k = 0 then g.dp0 else g.dp1
def Ingest.ifltOf (g : Ingest) (k : Nat) : Iflt := if k = 0 then g.iflt0 else g.iflt1

def idpbWord (d : Idpb) : W64 := word [(b2n d.lock, 63), (d.stack, 48), (d.base.toNat, 16), (d.size.toNat, 0)]
def ifltWord (f : Iflt) : W64 := word [(f.code.toNat, 56), (f.dres, 48), (f.va, 0)]

/-- Decode cores of a cluster that run a segment. -/
def coresBusy (g : Ingest) (k : Nat) : Nat := (g.segs.filter fun p => decide (p.1 / 32 = k) && p.2.isSome).length

def icstsWord (g : Ingest) (k : Nat) : W64 :=
  let q := g.queue k
  word [(q.length, 16), (b2n (q.any fun b => b.asked && !b.granted), 15), (coresBusy g k, 0)]

/-- Entries of a context that are not FREE. -/
def stUsed (g : Ingest) (n : Nat) : Nat := (g.streams.filter fun p => decide (p.2.st ≠ .free) && decide (p.2.ctx = n)).length

def stqWord (g : Ingest) (n : Nat) : W64 :=
  let lim := look 0 n g.stq
  word [(b2n (decide (lim < stUsed g n)), 51), (stUsed g n, 32), (lim, 0)]

def sttstsWord (g : Ingest) : W64 :=
  word [((g.streams.filter fun p => decide (p.2.st ≠ .free)).length, 32),
        ((g.streams.filter fun p => p.2.st == .run || p.2.st == .drain).length, 0)]

def sttbaseWord (g : Ingest) : W64 := word [(b2n g.sttLock, 63), (g.sttStack, 48), (g.sttBase.toNat, 16)]

def ingestRead (g : Ingest) (off : Nat) : Option W64 :=
  match off with
  | 0x000 => some (word [(0x40, 16), (2, 8), (0xF, 0)])
  | 0x200 => some (sttbaseWord g)
  | 0x208 => some (sttstsWord g)
  | _ =>
    let k := (off - 0x100) / 0x40
    if 0x100 ≤ off ∧ k < 2 then
      match off % 0x40 with
      | 0x00 => some (icstsWord g k)
      | 0x08 => some (idpbWord (g.idpbOf k))
      | 0x10 => some (ifltWord (g.ifltOf k))
      | _ => none
    else if 0x400 ≤ off ∧ off < 0x500 then some (stqWord g ((off - 0x400) / 8))
    else none

/-! ### PCIe (R472 to R475) -/

def ctxstsWord (s : State) (n : Nat) : W64 :=
  let x := s.ctx n
  word [(b2n x.en, 63), (b2n x.td, 62), (b2n (decide (x.vecLim < (vectorsNamed s n).length)), 50), (b2n (decide (x.cqLim < poolCqs s n)), 49),
        (b2n (decide (x.sqLim < poolSqs s n)), 48), (poolSqs s n, 36), (poolCqs s n, 24), ((vectorsNamed s n).length, 12)]

/-- CTXSTS, CTXQ, CTXCORE_LO, CTXCORE_HI, CTXFLT of a context. -/
def ctxRead (s : State) (n off : Nat) : Option W64 :=
  let x := s.ctx n
  match off with
  | 0x00 => some (ctxstsWord s n)
  | 0x08 => some (word [(x.sqLim, 52), (x.cqLim, 40), (x.vecLim, 28)])
  | 0x10 => some (x.cores.setWidth 64)
  | 0x18 => some (BitVec.ofNat 64 (x.cores.toNat / 2 ^ 64))
  | 0x20 => some x.flt
  | _ => none

def pcieRead (s : State) (off : Nat) : Option W64 :=
  if off = 0 then some (word [(s.host.lease.toNat, 32), (b2n s.host.stValid, 1), (s.host.stPort, 0)])
  else if 0x1000 ≤ off ∧ off < 0x1800 then ctxRead s ((off - 0x1000) / 0x40) (off % 0x40)
  else none

/-! ### Ledger, power, clocks (R494) -/

/-- Requests that wait: each until it fits (R484). -/
def ledgerWaiting (s : State) : Nat := (s.power.waiting.filter fun r => r.fit.isNone).length

def lgcfgWord (p : Power) : W64 := word [(b2n p.lgLock, 63), (p.base, 32), (p.limit, 0)]

def lgstsWord (s : State) : W64 :=
  word [(ledgerWaiting s, 40), (b2n (decide (pkgLimit s < granted s + s.power.base)), 31), (tailsHeld s, 16), (granted s, 0)]

def dtempWord (x : DTemp) : W64 := word [(x.tlevel, 10), (b2n x.sfail, 8), (x.temp.toNat, 0)]

def dthermWord (p : Power) : W64 :=
  word [(b2n p.thLock, 63), (p.hyst.toNat, 24), (p.crit.toNat, 16), (p.hot.toNat, 8), (p.warm.toNat, 0)]

def pwrstsWord (s : State) : W64 :=
  word ((List.range 4).flatMap fun d =>
    [(b2n (!(s.parksOf d).isEmpty), 8 + d), (b2n (s.dieState d == .tripped), 4 + d), (b2n (s.dieState d == .parked), d)])

def lgctxWord (s : State) (n : Nat) : W64 :=
  word [(b2n (decide (ctxLimit s n < ctxHeld s n)), 48), (ctxHeld s n, 32), (ctxLimit s n, 0)]

/-- LGDIE3 and DTEMP3 of an absent die read zero (R7). -/
def powerRead (s : State) (off : Nat) : Option W64 :=
  let p := s.power
  match off with
  | 0x000 => some (lgcfgWord p)
  | 0x008 => some (lgstsWord s)
  | 0x0C0 => some (dthermWord p)
  | 0x0C8 => some (pwrstsWord s)
  | 0x0D0 => some (word [(clksts p, 0)])
  | _ =>
    if 0x040 ≤ off ∧ off < 0x060 then
      let d := (off - 0x40) / 8
      some (if s.hasDie d then word [(dieHeld s d, 16), (dieLimit s d, 0)] else 0)
    else if 0x080 ≤ off ∧ off < 0x0B0 then
      let k := (off - 0x80) / 8
      some (if diePresent s k then dtempWord (dtempOf s k) else 0)
    else if 0x100 ≤ off ∧ off < 0x200 then some (lgctxWord s ((off - 0x100) / 8))
    else none

/-! ### SEC (R514) -/

def secRead (s : State) (off : Nat) : Option W64 :=
  let x := s.sec
  match off with
  | 0x00 => some (word [(x.fails.toNat, 16), (x.tlevel, 10), (x.debug, 8), (s.boot.keyset, 4), (x.idState, 0)])
  | 0x08 => some (x.tmp.setWidth 64)
  | _ => none

/-! ### TLY (R543) -/

/-- A holder field. -/
def holderCode (h : Option Nat) : Nat := match h with | some n => 32 + n | none => 0

def tlyRead (t : Tly) (off : Nat) : Option W64 :=
  match off with
  | 0x000 => some 0
  | 0x008 => some t.ovf
  | 0x010 => some (word ([(holderCode t.bw, 54), (holderCode t.dump, 48)] ++ (List.range 8).map fun g => (holderCode (t.groupOf g), 6 * g)))
  | 0x018 => some (t.dev.setWidth 64)
  | 0x020 => some (word [(b2n t.dEn, 63), (t.logn, 32), (t.period, 0)])
  | 0x028 => some (word [(t.dva, 0)])
  | 0x030 => some (word [(t.seq.toNat, 32), (t.lost.toNat, 16), (t.code.toNat, 8)])
  | _ =>
    if 0x100 ≤ off ∧ off < 0x300 then some (t.selOf ((off - 0x100) / 8))
    else if 0x400 ≤ off ∧ off < 0x600 then some (word [(t.cntOf ((off - 0x400) / 8), 0)])
    else if 0x600 ≤ off ∧ off < 0x800 then some (word [(look 0 ((off - 0x600) / 8) t.sh, 0)])
    else if 0x800 ≤ off ∧ off < 0xA00 then
      let m := t.mon ((off - 0x800) / 0x20)
      match off % 0x20 with
      | 0x00 => some m.cfg
      | 0x08 => some (word [(m.wins.toNat, 48), (m.last, 0)])
      | 0x10 => some (word [(m.peak, 0)])
      | _ => none
    else none

/-! ### CVU (R546) -/

def cvRead (x : CvChan) (off : Nat) : Option W64 :=
  match off with
  | 0x00 => some (x.ctl ||| word [(b2n x.busy, 63)])
  | 0x08 => some x.src
  | 0x10 => some x.dst
  | 0x18 => some (word [(x.len, 0)])
  | 0x20 => some x.tag
  | 0x28 => some (x.seq.setWidth 64)
  | 0x30 => some 0
  | 0x38 => some x.res
  | 0x40 => some (word [(x.status.toNat, 56), (b2n x.done, 55), (b2n x.busy, 54)])
  | _ => none

/-! ### Error aggregator (R527, R528, R530) -/

/-- A set of core numbers as two mask registers. -/
def maskLo (x : NatSet) : W64 := word ((List.range 64).map fun c => (b2n (x.has c), c))
def maskHi (x : NatSet) : W64 := word ((List.range 32).map fun c => (b2n (x.has (64 + c)), c))

def recWord (r : AggRec) (i : Nat) : W64 := if i = 0 then r.w0 else if i = 1 then r.w1 else if i = 2 then r.w2 else r.w3

def aggRead (a : Agg) (off : Nat) : Option W64 :=
  match off with
  | 0x000 => some (word [(a.wrptr.toNat, 32)])
  | 0x008 => some (word [(b2n a.lock, 63), (a.irqSev, 12), (a.vec, 0)])
  | 0x010 => some (word [(b2n a.sfLock, 63), (a.stper.toNat, 0)])
  | 0x018 => some (word [(a.corr.toNat, 32), (a.cont.toNat, 16), (a.fatal.toNat, 8)])
  | 0x020 => some (word [(b2n a.safe, 63), (a.cause, 58)])
  | 0x028 => some (maskLo a.oos)
  | 0x030 => some (maskHi a.oos)
  | 0x038 => some (maskLo a.tst)
  | 0x040 => some (maskHi a.tst)
  | _ =>
    if 0x060 ≤ off ∧ off < 0x080 then some (recWord a.fatalRec ((off - 0x60) / 8))
    else if 0x1000 ≤ off ∧ off < 0x9000 then some (recWord (look .zero ((off - 0x1000) / 0x20) a.ring) (off % 0x20 / 8))
    else none

/-! ### Timebase (R379) -/

def tbRead (s : State) (off : Nat) : Option W64 :=
  let n := s.net
  match off with
  | 0x00 => some s.tbtime
  | 0x08 => some (word [(b2n n.tbLock, 63), (b2n n.tbMaster, 7), (n.tbSrc, 0)])
  | 0x10 => some (word [(n.tbOffset.toNat, 32), (b2n n.tbHold, 1), (b2n n.tbSync, 0)])
  | _ => none

/-! ### The whole of CSR space (R7, R27) -/

/-- Blocks of CSR space, with the offset in the block. -/
inductive Block where
  | glob (off : Nat)
  | mailbox (n off : Nat)
  | core (c off : Nat)
  | stack (k off : Nat)
  | lpp (off : Nat)
  | link (l off : Nat)
  | ce (e off : Nat)
  | ingest (off : Nat)
  | pcie (off : Nat)
  | power (off : Nat)
  | sec (off : Nat)
  | tly (off : Nat)
  | cvu (k off : Nat)
  | agg (off : Nat)
  | tb (off : Nat)
  | none
  deriving DecidableEq, Repr

/-- The block of a CSR offset (R21, R27). -/
def blockOf (off : Nat) : Block :=
  if off < 0x10000 then .glob off
  else if off < 0x20000 then .mailbox ((off - 0x10000) / 0x100) (off % 0x100)
  else if 0x100000 ≤ off ∧ off < 0x700000 then .core ((off - 0x100000) / 0x10000) (off % 0x10000)
  else if 0x800000 ≤ off ∧ off < 0x880000 then .stack ((off - 0x800000) / 0x10000) (off % 0x10000)
  else if 0x900000 ≤ off ∧ off < 0x910000 then .lpp (off % 0x10000)
  else if 0xA00000 ≤ off ∧ off < 0xA40000 then .link ((off - 0xA00000) / 0x1000) (off % 0x1000)
  else if 0xB00000 ≤ off ∧ off < 0xB20000 then .ce ((off - 0xB00000) / 0x10000) (off % 0x10000)
  else if 0xC00000 ≤ off ∧ off < 0xD00000 then .ingest (off % 0x100000)
  else if 0xD00000 ≤ off ∧ off < 0xE00000 then .pcie (off % 0x100000)
  else if 0xE00000 ≤ off ∧ off < 0xF00000 then .power (off % 0x100000)
  else if 0xF00000 ≤ off ∧ off < 0x1000000 then .sec (off % 0x100000)
  else if 0x1000000 ≤ off ∧ off < 0x1100000 then .tly (off % 0x100000)
  else if 0x1100000 ≤ off ∧ off < 0x1200000 then .cvu ((off - 0x1100000) / 0x100) (off % 0x100)
  else if 0x1200000 ≤ off ∧ off < 0x1300000 then .agg (off % 0x100000)
  else if 0x1300000 ≤ off ∧ off < 0x1400000 then .tb (off % 0x100000)
  else .none

/-- The block belongs to an absent unit, or to a core of a die that is parked or tripped (R7, R481). -/
def blockAbsent (s : State) : Block → Bool
  | .core c _ => !s.coreOn c
  | .stack k _ => !s.hasStack k
  | .ingest _ => !s.variant.ingest
  | _ => false

/-- A register of a block; none: unassigned. -/
def blockRead (s : State) : Block → Option W64
  | .glob off =>
    match off with
    | 0x000 => some (capUnits s.variant)
    | 0x008 => some capArray
    | 0x010 => some deviceId
    | 0x018 => some stepping
    | _ => none
  | .mailbox n off => if n < 2 then mbRead s.boot n off else none
  | .core c off => if coreAssigned off then some ((s.core c).read off) else none
  | .stack k off => stackRead (s.stack k) off
  | .lpp off => lppRead s.lpp off
  | .link l off => linkRead s l off
  | .ce e off => ceRead s e off
  | .ingest off => ingestRead s.ingest off
  | .pcie off => pcieRead s off
  | .power off => powerRead s off
  | .sec off => secRead s off
  | .tly off => tlyRead s.tly off
  | .cvu k off => if k < 4 then cvRead (s.cv k) off else none
  | .agg off => aggRead s.agg off
  | .tb off => tbRead s off
  | .none => none

/-! ### Reads by agents (R10, R27, R447, R475, R541)

The table has no row for a read: these say what one answers and what it leaves behind (log 111). -/

/-- The access is 32 or 64 bits wide and naturally aligned. -/
def formatOk (off width : Nat) : Bool := (width == 4 || width == 8) && off % width == 0

/-- BAR0 offset of the context page (R445). -/
abbrev pageBase : Nat := 0x10000

/-- The CSR offset that an event names: the context page's own offsets stand at their place in BAR0. -/
def eventOff (ag : Agent) (off : Nat) : Nat := match ag with | .ctxPage _ => pageBase + off | _ => off

/-- The bytes that a read reaches, from bit 0 on (R10). -/
def readPart (off width : Nat) (v : W64) : W64 :=
  if width = 8 then v else if off % 8 = 4 then v >>> 32 else v &&& 0xFFFFFFFF

/-- What a TLY register shows a context in its page: its own groups, monitors and dump, and the OVF bits of its groups;
the others read zero (R541). -/
def tlyPageRead (s : State) (n off : Nat) : W64 :=
  let t := s.tly
  let own (h : Option Nat) : Bool := h == some n
  let group (k : Nat) : Bool := own (t.groupOf (k / 8))
  let shown : Bool :=
    if off = 0x008 then true
    else if off = 0x020 ∨ off = 0x028 ∨ off = 0x030 then own t.dump
    else if 0x100 ≤ off ∧ off < 0x300 then group ((off - 0x100) / 8)
    else if 0x400 ≤ off ∧ off < 0x600 then group ((off - 0x400) / 8)
    else if 0x600 ≤ off ∧ off < 0x800 then group ((off - 0x600) / 8)
    else decide (0x800 ≤ off) && decide (off < 0xA00) && own t.bw
  let v := (tlyRead t off).getD 0
  if !shown then 0
  else if off = 0x008 then v &&& word ((List.range 64).map fun k => (b2n (group k), k))
  else v

/-- A register of the context page: the function's own state, TBTIME, the admin-queue registers and the TLY's; none:
unassigned (R475, R541). -/
def pageRead (s : State) (n off : Nat) : Option W64 :=
  let x := s.ctx n
  if off < 0x40 then ctxRead s n off
  else if off = 0x80 then some s.tbtime
  else if off = 0x100 then some (word [(b2n x.aen, 63), (x.asize, 0)])
  else if off = 0x108 then some x.asqBase
  else if off = 0x110 then some x.acqBase
  else if 0x1000 ≤ off ∧ off < 0x2000 then some (tlyPageRead s n (off - 0x1000))
  else none

/-- The read reaches the TLY, whose counters flow first (R534). -/
def readsTly (ag : Agent) (off : Nat) : Bool :=
  match ag, blockOf off with
  | .ctxPage _, _ => decide (0x1000 ≤ off) && decide (off < 0x2000)
  | _, .tly _ => true
  | _, _ => false

/-- The register that an agent reads at an aligned offset; none: unassigned. Through BAR4 the SEC block reads zero
(R447). -/
def agentRead (s : State) (ag : Agent) (off : Nat) : Option W64 :=
  match ag, blockOf off with
  | .ctxPage n, _ => pageRead s n off
  | .bar4 _, .sec _ => some 0
  | _, b => if blockAbsent s b then some 0 else blockRead s b

/-- A read of CSR space, or of the context page, by an agent (R10, R27): 32 or 64 bits wide, any other format answering
all ones with an event. -/
def csrRead (s : State) (ag : Agent) (off width : Nat) : State × W64 :=
  let o := off / 8 * 8
  if !formatOk off width then (agentEvent s ag (eventOff ag off) 0 width false, -1)
  else
    let s := if readsTly ag o then flow s else s
    match agentRead s ag o with
    | some v => (s, readPart off width v)
    | none => (agentEvent s ag (eventOff ag off) 1 width false, 0)

/-- A host's read through BAR0 of a function, or through BAR4 of a PF; none: Unsupported Request, and the host sees all
ones (R442, R497). A doorbell reads zero (R461). -/
def barRead (s : State) (ctx : Nat) (bar4 : Bool) (off width : Nat) : State × Option W64 :=
  let some' (r : State × W64) : State × Option W64 := (r.1, some r.2)
  if bar4 then
    let open' := hostServed s ctx || (functionOn s ctx && (s.ctx ctx).cfg.mse && (match blockOf off with | .mailbox _ _ => true | _ => false))
    if isPf ctx && open' then some' (csrRead s (.bar4 (portOf ctx)) off width) else (s, none)
  else if !hostServed s ctx then (s, none)
  else if pageBase ≤ off then some' (csrRead s (.ctxPage ctx) (off - pageBase) width)
  else some' (if formatOk off width then (s, 0) else (agentEvent s (.ctxPage ctx) off 0 width false, -1))

end Sys2Proof.Machine
end

