-- ==== Sys2Proof/Machine/HbmRepair.lean ====
section
/-! DEFINITION. Retraining, failed pseudo-channels and channel repair (R338 to R344). -/

namespace Sys2Proof.Machine

/-- The trigger's condition holds (R338). -/
def retrainDue (s : State) (k p : Nat) (trig : RetrainTrigger) : Bool :=
  let x := s.stack k
  let q := x.pc p
  let now := s.tbtime
  match trig with
  | .periodic => decide (x.rtPer ≠ 0) && decide (x.rtPer.toNat * 1000000 ≤ (now - q.lastTime).toNat)
  | .temperature => decide (q.lastTemp + 10 ≤ x.temp.toNat) || decide (x.temp.toNat + 10 ≤ q.lastTemp)
  | .errors => decide (16 ≤ (q.corr.filter fun t => decide (now.toNat - t < 1000000)).length)

/-- The lowest pseudo-channel that waits for training. -/
def Stack.firstDue (x : Stack) : Option Nat := (List.range 64).find? fun p => (x.pc p).due

/-- A pseudo-channel is due; it starts training when none is in training and no lower one is due (R338). -/
def retrainStart (s : State) (k p : Nat) : State :=
  let x := s.stack k
  let x := x.setPc p { x.pc p with due := true }
  if x.training.isNone ∧ x.firstDue = some p then
    s.setStack k { x.setPc p { x.pc p with due := false, state := .retrain, fails := 0 } with training := some p }
  else s.setStack k x

/-- RETRAIN_START (R338): an ACTIVE pseudo-channel of an open stack, by a trigger or because it was due and waited. -/
def execRetrainStart (k p : Nat) (trig : RetrainTrigger) (s : State) : Res :=
  let x := s.stack k
  .next (if s.hasStack k && decide (p < 64) && decide (x.state = .opened) && decide ((x.pc p).state = .active) &&
      ((x.pc p).due || retrainDue s k p trig)
    then retrainStart s k p else s)

/-- A pseudo-channel's queue drains in order, as far as the window allows, and the fabric offers again what it holds
(R20, R324, R338). -/
def drainPc (s : State) (k p : Nat) : State :=
  let q := ((s.stack k).pc p).queue
  let s := s.modStack k fun x => x.setPc p { x.pc p with queue := [] }
  releaseFabric (q.foldl (fun s w => acceptReq s k w) s) k

/-- A training attempt succeeds: the pseudo-channel has been trained, and its queue drains. -/
def retrainOk (s : State) (k p : Nat) : State :=
  let s := s.modStack k fun x =>
    let q := x.pc p
    let q := { q with state := if q.state = .retrain then .active else q.state, fails := 0, retrains := min (q.retrains + 1) 255,
                      lastTemp := x.temp.toNat, lastTime := s.tbtime, corr := [] }
    { x.setPc p q with training := none }
  drainPc s k p

/-- A training attempt fails: lane repair and another attempt; the fourth failure in a row makes the pseudo-channel
FAILED with its data unreadable (R339). How many spare lanes are then in use is a free number (log 10). -/
def retrainFail (s : State) (k p : Nat) : State :=
  let q := (s.stack k).pc p
  if q.fails + 1 < 4 then
    let r := freeNat s
    r.2.modStack k fun x => x.setPc p { q with fails := q.fails + 1, laneRep := r.1 % 16 }
  else
    let s := s.modStack k fun x => { x.setPc p { q with fails := 4 } with training := none }
    drainPc (pcFailed s k p false) k p

/-- RETRAIN_ATTEMPT_END (R339). -/
def execRetrainAttemptEnd (k : Nat) (ok : Bool) (s : State) : Res :=
  match (s.stack k).training with
  | none => .next s
  | some p => .next (if !s.hasStack k then s else if ok then retrainOk s k p else retrainFail s k p)

/-- A write of HREPAIR (R342, R349). With no copy, or with unreadable data, the data is poisoned at once (R343). A stack
that is still DOWN takes it when its spare band is enabled (R344). -/
def hrepairWrite (s : State) (k : Nat) (val : W64) : State :=
  let x := s.stack k
  let p := fld val.toNat 5 0
  if !val.getLsbD 15 then s
  else if x.repPc.isSome || !(x.spare || (decide (x.state = .down) && x.spareEn)) then discardWrite s .hbm k (stackCsr k 0x38)
  else
    let s := s.setStack k { x.setPc p { x.pc p with due := false } with
      training := if x.training = some p then none else x.training }
    drainPc (startRepair s k p (!val.getLsbD 14 && !(x.pc p).lost)) k p

/-- HREPAIR_START (R342). -/
def execHrepairStart (k : Nat) (val : W64) (s : State) : Res := .next (if s.powered && s.hasStack k then hrepairWrite s k val else s)

/-- The copier moves one sector: corrected data, or poison at the target (R343). -/
def copySector (k : Nat) (s : State) (sec : Nat) : State :=
  let x := s.stack k
  match readSector s k sec 4 with
  | (s, none) => s.modStack k fun y => { y with soft := y.soft.del sec }
  | (s, some _) =>
    s.modStack k fun y =>
      { y with poison := if x.isPoisoned sec then y.poison else y.poison.add sec, uncorr := y.uncorr.del sec,
               poisoned := y.poisoned + 1 }

/-- The copier moves the granule at its pointer; after the last one the repair is done (R343). -/
def copyGranule (s : State) (k p : Nat) : State :=
  let g := (s.stack k).copied
  let s := (List.range 8).foldl (fun s i => copySector k s (offsetOf p g (32 * i) / 32)) s
  let s := s.modStack k fun x => { x with copied := g + 1 }
  if g + 1 < spareFirst then s
  else
    let s := s.modStack k fun x => { x.setPc p { x.pc p with state := .repaired } with repairing := false }
    record s ⟨0x14, 1, .hbm, k, pcGroup p, 0, p, (s.stack k).poisoned.toNat⟩

/-- Eight sectors served to the copier in the window (R324, R325). -/
def Stack.serveCopier (x : Stack) : Stack := (List.range 8).foldl (fun x _ => x.take .repairCopier) x

/-- REPAIR_COPY_GRANULE (R343): while a copy runs on an open stack, and the window has the granule's eight sectors left
(R324, R334). -/
def execRepairCopyGranule (k : Nat) (s : State) : Res :=
  let x := s.stack k
  match x.repPc with
  | some p =>
    .next (if s.hasStack k && x.repairing && decide (x.state = .opened) && !x.closing &&
          decide (x.window.total + 8 ≤ x.cap) then
        copyGranule (s.setStack k x.serveCopier) k p
      else s)
  | none => .next s

end Sys2Proof.Machine
end

