-- ==== Sys2Proof/Machine/Csr.lean ====
section
/-! DEFINITION. Writes of CSRs: access format, blocks, agents' rights, access codes and locks (R10 to R14, R27, R447,
R475, R500, R541). -/

namespace Sys2Proof.Machine

/-! ### Fields; `m` marks the bits that an access reaches (R10, R34) -/

/-- An RW field of `w` bits at bit `lo`. -/
def rwNat (old : Nat) (lo w : Nat) (v m : W64) : Nat :=
  fld (wrField (BitVec.ofNat 64 (old * 2 ^ lo)) v m (-1)).toNat (lo + w - 1) lo

/-- An RW bit. -/
def rwBit (old : Bool) (i : Nat) (v m : W64) : Bool := if m.getLsbD i then v.getLsbD i else old

/-- The value that a write leaves in a register of which every field is RW. -/
def merged (old v m : W64) : W64 := wrField old v m (-1)

/-! ### Mailbox (R500) -/

/-- A write of the PF of port n to its own set. -/
def mbWrite (s : State) (n off : Nat) (v m : W64) : State :=
  let b := s.boot
  let x := b.mb n
  match off with
  | 0x00 => if m.getLsbD 60 then mbCommand s n (fld v.toNat 63 60) else s
  | 0x08 => s.setBoot (b.setMb n { x with addr := merged x.addr v m })
  | 0x10 => s.setBoot (b.setMb n { x with len := rwNat x.len 0 26 v m })
  | 0x18 => s.setBoot (b.setMb n { x with ign := x.ign && !(v &&& m).getLsbD 16 })
  | _ => s

/-! ### HBM stacks (R347 to R350) -/

def hcfgWrite (x : Stack) (v m : W64) : Stack :=
  { x with
    scrubH := BitVec.ofNat 8 (rwNat x.scrubH.toNat 40 8 v m), rtPer := BitVec.ofNat 16 (rwNat x.rtPer.toNat 16 16 v m)
    repairAuto := if x.cfgLock then x.repairAuto else rwBit x.repairAuto 1 v m
    spareEn := if x.cfgLock then x.spareEn else rwBit x.spareEn 0 v m
    cfgLock := w1s x.cfgLock v m 63 }

def hprioWrite (x : Stack) (v m : W64) : Stack :=
  { x with
    ctxPrio := BitVec.ofNat 32 (rwNat x.ctxPrio.toNat 6 32 v m)
    bound := if x.prLock then x.bound else BitVec.ofNat 6 (rwNat x.bound.toNat 0 6 v m)
    prLock := w1s x.prLock v m 63 }

/-- HCTL: OPEN, then CLOSE. -/
def hctlWrite (s : State) (k : Nat) (v : W64) : State :=
  let s := if v.getLsbD 0 && !s.agg.safe then hctlOpen s k else s
  if v.getLsbD 1 then hctlClose s k else s

def stackWrite (s : State) (k off : Nat) (v m : W64) : State :=
  let x := s.stack k
  match off with
  | 0x008 => s.setStack k (hcfgWrite x v m)
  | 0x010 => hthermWrite s k (merged (hthermWord x) v m)
  | 0x020 => s.setStack k (hprioWrite x v m)
  | 0x028 => s.setStack k { x with ccnt := BitVec.ofNat 32 (rwNat x.ccnt.toNat 32 32 v m), ucnt := BitVec.ofNat 16 (rwNat x.ucnt.toNat 16 16 v m) }
  | 0x038 => hrepairWrite s k (v &&& m)
  | 0x048 => hctlWrite s k (v &&& m)
  | _ =>
    if 0x400 ≤ off ∧ off < 0x500 then
      let n := (off - 0x400) / 8
      let r := x.rsvOf n
      s.setStack k { x with rsv := put .reset n { r with limit := rwNat r.limit 0 6 v m } x.rsv }
    else s

/-! ### LPP (R352) -/

def lppWrite (l : Lpp) (off : Nat) (v m : W64) : Lpp :=
  if off ≠ 0 then l
  else
    { l with
      rate := if l.lock then l.rate else BitVec.ofNat 3 (rwNat l.rate.toNat 8 3 v m)
      ranks := if l.lock then l.ranks else rwBit l.ranks 6 v m
      size := if l.lock then l.size else BitVec.ofNat 5 (rwNat l.size.toNat 0 5 v m)
      lock := w1s l.lock v m 63 }

/-! ### Links (R374 to R378) -/

/-- DLCTL: CLASS; then RETRAIN; then ENABLE as it changes. A write that clears ENABLE takes the link to OFF. -/
def dlctlWrite (s : State) (l : Nat) (v m : W64) : State :=
  let x := s.link l
  let s := s.setLink l { x with cls := rwNat x.cls 10 2 v m }
  let s := if (v &&& m).getLsbD 7 then linkRetrain s l else s
  let en := rwBit x.enable 0 v m
  if en = x.enable ∨ s.agg.safe then s else if en then linkEnable s l else linkDisable s l

/-- The registers of a die in the blocks of DL0 and DL32. -/
def dieWrite (s : State) (l off : Nat) (v m : W64) : State :=
  let n := s.net
  match off with
  | 0x800 => if l = 0 then { s with net := { n with devId := BitVec.ofNat 16 (rwNat n.devId.toNat 0 16 v m) } } else s
  | 0x808 => { s with net := { n with rtIdx := rwNat n.rtIdx 0 16 v m } }
  | 0x810 => rtDataWrite s (merged ((look 0 n.rtIdx n.route).setWidth 64) v m)
  | 0x818 => { s with net := { n with hopMax := rwNat n.hopMax 0 7 v m } }
  | _ =>
    let k := (off - 0x900) / 8
    if 0x900 ≤ off ∧ off < 0xA00 then bondWrite s k (merged (bondWord s k) v m) else s

def linkWrite (s : State) (l off : Nat) (v m : W64) : State :=
  let x := s.link l
  let hi (old : W32) : W32 := BitVec.ofNat 32 (rwNat old.toNat 32 32 v m)
  let lo (old : W32) : W32 := BitVec.ofNat 32 (rwNat old.toNat 0 32 v m)
  match off with
  | 0x000 => dlctlWrite s l v m
  | 0x010 => s.setLink l { x with fecc := merged x.fecc v m }
  | 0x018 => s.setLink l { x with fecu := merged x.fecu v m }
  | 0x020 => s.setLink l { x with crcErr := hi x.crcErr, replays := lo x.replays }
  | 0x028 => s.setLink l { x with recov := hi x.recov, fails := lo x.fails }
  | 0x038 => s.setLink l { x with framing := lo x.framing }
  | _ => dieWrite s l off v m

/-! ### Collective engines (R414, R415, R439) -/

def ceWrite (x : Ce) (off : Nat) (v m : W64) : Ce :=
  match off with
  | 0x010 => { x with stale := BitVec.ofNat 32 (rwNat x.stale.toNat 32 32 v m), aborts := BitVec.ofNat 32 (rwNat x.aborts.toNat 0 32 v m) }
  | 0x028 => { x with evBytes := merged x.evBytes v m }
  | _ =>
    if 0x100 ≤ off ∧ off < 0x200 then
      let n := (off - 0x100) / 8
      { x with jobs := put 0 n (wrField (look 0 n x.jobs) v m 0x800000000000FFFF) x.jobs }
    else x

/-! ### Ingest (R299, R317, R319) -/

def idpbWrite (d : Idpb) (v m : W64) : Idpb :=
  let d' := if d.lock then d
    else { d with stack := rwNat d.stack 48 3 v m, base := BitVec.ofNat 32 (rwNat d.base.toNat 16 32 v m)
                  size := BitVec.ofNat 16 (rwNat d.size.toNat 0 16 v m) }
  { d' with lock := w1s d.lock v m 63 }

def ingestWrite (g : Ingest) (off : Nat) (v m : W64) : Ingest :=
  match off with
  | 0x108 => { g with dp0 := idpbWrite g.dp0 v m }
  | 0x148 => { g with dp1 := idpbWrite g.dp1 v m }
  | 0x200 =>
    let g' := if g.sttLock then g
      else { g with sttStack := rwNat g.sttStack 48 3 v m, sttBase := BitVec.ofNat 32 (rwNat g.sttBase.toNat 16 32 v m) }
    { g' with sttLock := w1s g.sttLock v m 63 }
  | _ =>
    if 0x400 ≤ off ∧ off < 0x500 then
      let n := (off - 0x400) / 8
      { g with stq := put 0 n (rwNat (look 0 n g.stq) 0 19 v m) g.stq }
    else g

/-! ### Ledger and power (R494) -/

def powerWrite (s : State) (off : Nat) (v m : W64) : State :=
  let p := s.power
  match off with
  | 0x000 =>
    decideHead { s with power := { p with
      base := if p.lgLock then p.base else rwNat p.base 32 13 v m, limit := rwNat p.limit 0 13 v m, lgLock := w1s p.lgLock v m 63 } }
  | 0x0C0 => dthermWrite s (merged (dthermWord p) v m)
  | _ =>
    if 0x040 ≤ off ∧ off < 0x060 then
      let d := (off - 0x40) / 8
      if s.hasDie d then setDieLimit s d (rwNat (dieLimit s d) 0 13 v m) else s
    else if 0x100 ≤ off ∧ off < 0x200 then
      let n := (off - 0x100) / 8
      decideHead { s with power := { p with ctxLim := put 0x1770 n (rwNat (ctxLimit s n) 0 13 v m) p.ctxLim } }
    else s

/-! ### Error aggregator (R530) and timebase (R379) -/

def aggWrite (a : Agg) (off : Nat) (v m : W64) : Agg :=
  match off with
  | 0x008 =>
    { a with irqSev := if a.lock then a.irqSev else rwNat a.irqSev 12 2 v m, vec := if a.lock then a.vec else rwNat a.vec 0 11 v m
             lock := w1s a.lock v m 63 }
  | 0x010 =>
    { a with stper := if a.sfLock then a.stper else BitVec.ofNat 16 (rwNat a.stper.toNat 0 16 v m), sfLock := w1s a.sfLock v m 63 }
  | _ => a

def tbWrite (n : Net) (off : Nat) (v m : W64) : Net :=
  if off = 0x08 then
    { n with tbMaster := if n.tbLock then n.tbMaster else rwBit n.tbMaster 7 v m
             tbSrc := if n.tbLock then n.tbSrc else rwNat n.tbSrc 0 6 v m, tbLock := w1s n.tbLock v m 63 }
  else n

/-! ### TLY (R532 to R543) -/

/-- Counter bits of TLYOVF that an agent may clear. -/
def ovfMask (t : Tly) (ag : Agent) : W64 :=
  word ((List.range 64).map fun k => (b2n (tlyMay ag (t.groupOf (k / 8))), k))

/-- A write of TLYCNTk. -/
def tlyCntWrite (s : State) (ag : Agent) (k width : Nat) (v m : W64) : State :=
  if tlyMay ag (s.tly.groupOf (k / 8)) then
    let s := flow s
    s.setTly { s.tly with cnt := put 0 k (rwNat (s.tly.cntOf k) 0 48 v m) s.tly.cnt }
  else refuseWrite s ag (tlyCsr (0x400 + 8 * k)) width

/-- A write of BWCFGm, BWLASTm or BWPEAKm. -/
def monWrite (s : State) (ag : Agent) (off width : Nat) (v m : W64) : State :=
  let i := (off - 0x800) / 0x20
  let x := s.tly.mon i
  if off % 0x20 = 0 then bwcfgWrite s ag i (merged x.cfg v m)
  else if !tlyMay ag s.tly.bw then refuseWrite s ag (tlyCsr off) width
  else if off % 0x20 = 0x10 then
    s.setTly (s.tly.setMon i { x with peak := (w1c (word [(x.peak, 0)]) v m).toNat })
  else s

/-- A write of a dump register by the dump's holder. -/
def dumpWrite (s : State) (off : Nat) (v m : W64) : State :=
  let t := s.tly
  match off with
  | 0x020 =>
    let en := rwBit t.dEn 63 v m
    s.setTly { t with dEn := en, logn := rwNat t.logn 32 5 v m, period := rwNat t.period 0 20 v m
                      seq := if en && !t.dEn then 0 else t.seq }
  | 0x028 => s.setTly { t with dva := rwNat t.dva 0 48 v m / 1024 * 1024 }
  | _ => s

/-- A write of a TLY register. -/
def tlyWrite (s : State) (ag : Agent) (off width : Nat) (v m : W64) : State :=
  let refuse := refuseWrite s ag (tlyCsr off) width
  if off = 0 then (if (v &&& m).getLsbD 0 then (if maySnap s ag then latch s else refuse) else if maySnap s ag then s else refuse)
  else if off = 0x008 then
    if maySnap s ag then s.setTly { s.tly with ovf := w1c s.tly.ovf v (m &&& ovfMask s.tly ag) } else refuse
  else if off = 0x020 ∨ off = 0x028 ∨ off = 0x030 then (if tlyMay ag s.tly.dump then dumpWrite s off v m else refuse)
  else if 0x100 ≤ off ∧ off < 0x300 then
    tlySelWrite s ag ((off - 0x100) / 8) (merged (s.tly.selOf ((off - 0x100) / 8)) v m)
  else if 0x400 ≤ off ∧ off < 0x600 then tlyCntWrite s ag ((off - 0x400) / 8) width v m
  else if 0x800 ≤ off ∧ off < 0xA00 then monWrite s ag off width v m
  else match ag with
    | .firmware _ => s
    | _ => if 0x600 ≤ off ∧ off < 0x800 ∧ tlyMay ag (s.tly.groupOf ((off - 0x600) / 8 / 8)) then s else refuse

/-! ### CVU (R546 to R549) -/

/-- A write of a channel's register. While an operation runs only CVCTL.ABORT and CVSTS take effect. -/
def cvWriteReg (s : State) (ag : Agent) (k off width : Nat) (v m : W64) : State :=
  let x := s.cv k
  if off = 0 then cvCtlWrite s ag k v m
  else if off = 0x30 then
    cvFeed s ag k (if width = 4 ∧ !m.getLsbD 0 then 0x34 else 0x30) width (if width = 4 ∧ !m.getLsbD 0 then v >>> 32 else v)
  else if !cvMay ag k then refuseWrite s ag (cvCsr k off) width
  else if off = 0x40 then s.setCv k { x with done := x.done && !(v &&& m).getLsbD 55 }
  else if off = 0x38 then s
  else if x.busy then discardBy s ag (cvCsr k off)
  else
    s.setCv k (match off with
      | 0x08 => { x with src := merged x.src v m }
      | 0x10 => { x with dst := merged x.dst v m }
      | 0x18 => { x with len := rwNat x.len 0 40 v m }
      | 0x20 => { x with tag := merged x.tag v m }
      | 0x28 => { x with seq := BitVec.ofNat 32 (rwNat x.seq.toNat 0 32 v m) }
      | _ => x)

/-! ### A write by firmware -/

/-- A write to an assigned register of a present unit by firmware, under the access codes. The mailbox is the PFs' to
write (R500). -/
def blockWrite (s : State) (ag : Agent) (width : Nat) (v m : W64) : Block → State
  | .core c off => s.modCore c fun k => k.write true off v m
  | .stack k off => stackWrite s k off v m
  | .lpp off => { s with lpp := lppWrite s.lpp off v m }
  | .link l off => linkWrite s l off v m
  | .ce e off => s.modCe e fun x => ceWrite x off v m
  | .ingest off => { s with ingest := ingestWrite s.ingest off v m }
  | .power off => powerWrite s off v m
  | .sec off => if off = 0x08 then s.setSec { s.sec with tmp := (w1c (s.sec.tmp.setWidth 64) v m).setWidth 5 } else s
  | .tly off => tlyWrite s ag off width v m
  | .cvu k off => cvWriteReg s ag k off width v m
  | .agg off => { s with agg := aggWrite s.agg off v m }
  | .tb off => { s with net := tbWrite s.net off v m }
  | _ => s

/-- Firmware writes an aligned register. -/
def firmwareWrite (s : State) (ag : Agent) (off width : Nat) (v m : W64) : State :=
  let b := blockOf (off / 8 * 8)
  if blockAbsent s b then s
  else if (blockRead s b).isNone then agentEvent s ag off 1 width true
  else blockWrite s ag width v m b

/-! ### A write through BAR4 (R447, R500, R546) -/

/-- A PF's write: its own mailbox set, and the CVU channels of its port. -/
def bar4Write (s : State) (ag : Agent) (p off width : Nat) (v m : W64) : State :=
  match blockOf (off / 8 * 8) with
  | .mailbox n o =>
    if (blockRead s (.mailbox n o)).isNone then agentEvent s ag off 1 width true else if n = p then mbWrite s n o v m else s
  | .cvu k o => if (blockRead s (.cvu k o)).isSome then cvWriteReg s ag k o width v m else agentEvent s ag off 1 width true
  | _ => refuseWrite s ag off width

/-! ### A write in the context page (R475, R541) -/

/-- AQCFG: AEN set or cleared; ASIZE while AEN = 0. -/
def aqcfgWrite (s : State) (n : Nat) (v m : W64) : State :=
  let x := s.ctx n
  let new := merged (word [(b2n x.aen, 63), (x.asize, 0)]) v m
  if new.getLsbD 63 then adminEnable s n new
  else if x.aen then adminDisable s n
  else s.modCtx n fun x => { x with asize := fld new.toNat 12 0 }

/-- A write at an offset of the context page. -/
def pageWrite (s : State) (ag : Agent) (n off width : Nat) (v m : W64) : State :=
  let x := s.ctx n
  let o := off / 8 * 8
  if o = 0x100 then aqcfgWrite s n v m
  else if o = 0x108 then (if x.aen then s else s.setCtx n { x with asqBase := merged x.asqBase v m })
  else if o = 0x110 then (if x.aen then s else s.setCtx n { x with acqBase := merged x.acqBase v m })
  else if o ≤ 0x20 ∨ o = 0x80 then s
  else if 0x1000 ≤ o ∧ o < 0x2000 then tlyWrite s ag (o - 0x1000) width v m
  else refuseWrite s ag (pageBase + off) width

/-! ### CSR_WRITE (R10, R11, R27) -/

/-- The value and the bits reached, in the register's place. -/
def placed (off width : Nat) (val : W64) : W64 × W64 :=
  if width = 8 then (val, -1)
  else if off % 8 = 4 then (val <<< 32, 0xFFFFFFFF00000000)
  else (val &&& 0xFFFFFFFF, 0xFFFFFFFF)

/-- A write by an agent. -/
def csrWrite (s : State) (ag : Agent) (off width : Nat) (val : W64) : State :=
  if !formatOk off width then agentEvent s ag (eventOff ag off) 0 width true
  else
    let p := placed off width val
    match ag with
    | .firmware _ => firmwareWrite s ag off width p.1 p.2
    | .bar4 n => bar4Write s ag n off width p.1 p.2
    | .ctxPage n => pageWrite s ag n off width p.1 p.2
    | .debugPort => refuseWrite s ag off width

/-- The write reaches the part: before READY a PF reaches only the mailbox (R497). -/
def writeReaches (s : State) (ag : Agent) (off : Nat) : Bool :=
  agentLive s ag ||
  (match ag, blockOf off with | .bar4 p, .mailbox _ _ => mailboxOpen s p | _, _ => false)

/-- CSR_WRITE; `off` is the CSR offset, or the offset in the context page; `val` holds the bytes written, from bit 0. -/
def execCsrWrite (ag : Agent) (off width : Nat) (val : W64) (s : State) : Res :=
  .next (if writeReaches s ag off then csrWrite s ag off width val else s)

end Sys2Proof.Machine
end

