-- ==== Sys2Proof/Machine/Ledger.lean ====
section
/-! DEFINITION. Grants of the ledger, and the rate windows of the vector engines (R483 to R487). -/

namespace Sys2Proof.Machine

/-- The units of a request are granted: they count on the book, and a core's CLIPS counts one granted in part (R484). -/
def giveGrant (s : State) (r : LedgerReq) (u : Nat) : State :=
  match r.who with
  | .core c => s.modCore c fun k =>
      { k with grant := u, lreq := .granted, clips := if u < r.units then satInc 16 k.clips else k.clips }
  | .ingest k =>
    let g := s.ingest
    let id : Option Nat := (waitingBatch s k).map (·.id)
    let q := (g.queue k).map fun (b : Batch) => if some b.id = id then { b with granted := true, units := u } else b
    { s with
      ingest := g.setQueue k q
      power := { s.power with grants := put 0 (96 + k) (look 0 (96 + k) s.power.grants + u) s.power.grants } }
  | w => { s with power := { s.power with grants := put 0 (grantKey w) u s.power.grants } }

/-- LEDGER_GRANT: a request that fits is granted the units counted for it, 24 cycles after it fitted (R484). -/
def execLedgerGrant (who : Requester) (s : State) : Res :=
  .next (match s.power.waiting.find? fun r => decide (r.who = who) with
    | some r =>
      match r.fit with
      | some u =>
        decideHead (giveGrant { s with power := { s.power with waiting := s.power.waiting.filter fun r => decide (r.who ≠ who) } } r u)
      | none => s
    | none => s)

/-- VE_RATE_WINDOW_END: an aligned window of 64 cycles of engine e ends, and the next begins. After one in which it issued
in 32 cycles or fewer it releases the units it booked (R483, R486, R487). The command names the cycles it issued in; one
that names another number than the engine counted is no event of this machine. -/
def execVeRateWindowEnd (c e issued : Nat) (s : State) : Res :=
  let k := s.core c
  let x := k.ve e
  let next : Core := { k with winIssued := put 0 e 0 k.winIssued }
  .next (
    if !s.coreRuns c || decide (2 ≤ e) || issued != look 0 e k.winIssued then s
    else if issued ≤ 32 then decideHead (s.setCore c (next.setVe e { x with book := 0, tail := 0 }))
    else s.setCore c next)

end Sys2Proof.Machine
end

