-- ==== Sys2Proof/Machine/Lpp.lean ====
section
/-! DEFINITION. Commands of the LPDDR recovery port (R351, R352). -/

namespace Sys2Proof.Machine

/-- Every byte of the range is populated LPDDR memory (R25, R352). -/
def lppHolds (s : State) (addr len : Nat) : Bool := decide (0x18000000000 ≤ addr) && decide (addr + len ≤ 0x18000000000 + s.lpp.bytes)

/-- An access to populated LPDDR memory: what link ECC found decides how it ends (R351). -/
def lppAccess (s : State) (addr : Nat) (link : LppLink) : State :=
  let answer (s : State) (code : Byte) : State := { s with lpp := { s.lpp with rsp := code } }
  match link with
  | .clean => answer (touchLpp s) Code.ok
  | .corrected =>
    let s := answer (touchLpp s) Code.ok
    recordCorrected { s with lpp := { s.lpp with lce := satInc 32 s.lpp.lce } } .lpp 0 0 addr
  | .failed => answer (lppFail s addr) Code.eccUncorr

/-- LPP_ACCESS (R351). An unpopulated range answers E_XLATE (R25, R352). -/
def execLppAccess (addr len : Nat) (link : LppLink) (s : State) : Res :=
  .next (if !s.powered then s else if lppHolds s addr len && decide (0 < len) then lppAccess s addr link
    else { s with lpp := { s.lpp with rsp := Code.xlate } })

/-- LPP_SELF_REFRESH_ENTRY (R351): 1 ms after the last request. -/
def execLppSelfRefreshEntry (s : State) : Res :=
  .next (if s.lpp.ready && decide (1000000 ≤ (s.tbtime - s.lpp.lastReq).toNat) then { s with lpp := { s.lpp with sref := true } }
    else s)

end Sys2Proof.Machine
end

