-- ==== Sys2Proof/Machine/Mgmt.lean ====
section
/-! DEFINITION. The management and debug interfaces (R513, R562, R563). -/

namespace Sys2Proof.Machine

/-! ### SMBus (R562) -/

/-- The target answers with n bytes of a value, in every package state with power. -/
def smbAnswer (s : State) (n v : Nat) : State :=
  if s.pkg = .off then s else { s with mgmt := { s.mgmt with smb := .data (leBytes n v) } }

/-- SMB_PHASE: command 0x01. -/
def execSmbPhase (s : State) : Res := .next (smbAnswer s 1 s.boot.phase)

/-- SMB_SAFE: command 0x02. -/
def execSmbSafe (s : State) : Res := .next (smbAnswer s 1 (b2n s.agg.safe * 128 + s.agg.cause))

/-- SMB_PART: command 0x08. -/
def execSmbPart (s : State) : Res := .next (smbAnswer s 2 (fld deviceId.toNat 15 0))

/-- SMB_STEPPING: command 0x09. -/
def execSmbStepping (s : State) : Res := .next (smbAnswer s 1 (fld stepping.toNat 15 8))

/-- SMB_DIE_TEMP: commands 0x10 to 0x15; an absent die reads zero, an unassigned command 0xFF bytes. -/
def execSmbDieTemp (k : Nat) (s : State) : Res :=
  let x := dtempOf s k
  .next (smbAnswer s 2 (if 6 ≤ k then 0xFFFF else if diePresent s k then x.tlevel * 256 + x.temp.toNat else 0))

/-- SMB_STACK_TEMP: commands 0x20 to 0x27. -/
def execSmbStackTemp (k : Nat) (s : State) : Res :=
  let x := s.stack k
  .next (smbAnswer s 2 (if 8 ≤ k then 0xFFFF else if s.hasStack k then x.tlevel * 256 + x.temp.toNat else 0))

/-- SMB_LEDGER_USED: command 0x30. -/
def execSmbLedgerUsed (s : State) : Res := .next (smbAnswer s 2 (granted s + s.power.base))

/-- SMB_LEDGER_LIMIT: command 0x31. -/
def execSmbLedgerLimit (s : State) : Res := .next (smbAnswer s 2 s.power.limit)

/-- SMB_WRITE: a write transaction is NACKed. -/
def execSmbWrite (_ : Byte) (_ : List Byte) (s : State) : Res :=
  .next (if s.pkg = .off then s else { s with mgmt := { s.mgmt with smb := .nack } })

/-- SMB_ALERT_N is low: a die or stack at hot or above, or the safe state. -/
def smbAlert (s : State) : Bool :=
  s.agg.safe || (s.power.dtemp.any fun p => decide (2 ≤ p.2.tlevel)) || s.hbms.any fun p => decide (2 ≤ p.2.tlevel)

/-! ### JTAG (R563) -/

/-- An instruction is selected; the lands are driven only under EXTEST. -/
def jtag (s : State) (i : JtagInstr) (dr : W64) (driven : Bool) : State :=
  { s with mgmt := { s.mgmt with instr := i, dr := dr, driven := driven } }

/-- The bypass register captures 0. -/
def selectBypass (s : State) : State := jtag s .bypass 0 false

/-- BYPASS. -/
def execBypass (s : State) : Res := .next (if s.pkg = .off then s else selectBypass s)

/-- IDCODE's 32 bits. -/
def idcode : W64 := word [(fld stepping.toNat 15 8, 28), (0x8160, 12), (Config.jedecId % 2 ^ 11, 1), (1, 0)]

/-- IDCODE. -/
def execIdcode (s : State) : Res := .next (if s.pkg = .off then s else jtag s .idcode idcode false)

/-- SAMPLE_PRELOAD: the boundary samples the pins and takes the values preloaded. -/
def execSamplePreload (pins preload : List Bool) (s : State) : Res :=
  .next (
    if s.pkg = .off then s
    else
      let s := jtag s .sample 0 false
      { s with mgmt := { s.mgmt with sampled := pins, preload := preload } })

/-- EXTEST: in boundary-scan mode the lands are driven from the boundary register; else the code selects BYPASS. -/
def execExtest (s : State) : Res :=
  .next (
    if s.pkg = .off then s
    else if s.straps.dbgscan then jtag s .extest 0 true
    else selectBypass s)

/-! ### DBGACC (R513) -/

/-- What an access at the unlocked level does: CSRs at level 1 and above, memory and halts at level 2; otherwise reads
give zero and the rest is discarded. A memory read that cannot be made gives no data. -/
def debugAccess (s : State) : DebugAccess → State
  | .readCsr off =>
    if 1 ≤ s.sec.debug then
      let r := csrRead s .debugPort off 8
      jtag r.1 .dbgacc r.2 false
    else jtag s .dbgacc 0 false
  | .readMem addr len =>
    let s := jtag s .dbgacc 0 false
    let set (s : State) (b : Option (List Byte)) : State := { s with mgmt := { s.mgmt with dbg := b } }
    if s.sec.debug < 2 then set s (some (List.replicate len 0))
    else if !(upFrom addr len).all (populated s) then set s none
    else match readCheck s (upFrom addr len) with
      | (s, some _) => set s none
      | (s, none) => set s (some (s.bytes addr len))
  | .writeMem addr bytes =>
    let s := jtag s .dbgacc 0 false
    if s.sec.debug < 2 ∨ !(upFrom addr bytes.length).all (populated s) then s
    else (writeCheck s (pairs addr bytes)).1
  | .haltCore c =>
    let s := jtag s .dbgacc 0 false
    if s.sec.debug < 2 ∨ !s.hasCore c then s else { s with mgmt := { s.mgmt with halted := s.mgmt.halted.add c } }
  | .haltCasori p =>
    let s := jtag s .dbgacc 0 false
    if s.sec.debug < 2 ∨ 2 ≤ p then s else { s with mgmt := { s.mgmt with halted := s.mgmt.halted.add (96 + p) } }

/-- DBGACC. -/
def execDbgacc (acc : DebugAccess) (s : State) : Res := .next (if s.pkg = .off then s else debugAccess s acc)

end Sys2Proof.Machine
end

