-- ==== Sys2Proof/Machine/RsuOps.lean ====
section
/-! DEFINITION. The row-statistics unit's arithmetic: X64 (R152), mean and variance (R153, R154), online softmax (R158),
and rows of the tile view. -/

namespace Sys2Proof.Machine

/-! ### X64 (R152) -/

/-- A number rounded to 64 significant bits under RNE, below 2^-1022 to zero; the top exponent is not limited here. -/
def round64 (d : Dy) : Dy :=
  if d.m = 0 then d
  else
    let q := d.log2 - 63
    let r := roundAt .rne d q
    if q + 63 < -1022 then dyZero d.neg else ⟨d.neg, r.1, q⟩

/-- At or above 2^128: outside X64. -/
def Dy.tooBig (d : Dy) : Bool := decide (d.m ≠ 0) && decide (128 ≤ d.log2)

/-- X64 from an exact value. -/
def X64.of (x : FVal) : X64 :=
  match x with
  | .nan _ => .nan
  | .inf n => .inf n
  | .num d => let r := round64 d; if r.tooBig then .inf r.neg else .num r.neg r.m r.e

/-- The value of an X64. -/
def X64.val : X64 → FVal
  | .nan => .nan false
  | .inf n => .inf n
  | .num n m e => .num ⟨n, m, e⟩

/-- a + b, a × b and a ÷ n in X64, on finite numbers. -/
def xadd (a b : Dy) : Dy := round64 (a.add b false)
def xmul (a b : Dy) : Dy := round64 (a.mul b)
def xdivNat (a : Dy) (n : Nat) : Dy := if a.m = 0 then a else round64 (dyQuot a.neg a.m n a.e 64)

/-! ### Mean and variance (R153, R154) -/

/-- A partial: count, mean and m2; m2 is none once it has left the X64 range (R154). -/
structure Part where
  n : Nat
  mean : Dy
  m2 : Option Dy

def Part.zero : Part := ⟨0, dyZero false, some (dyZero false)⟩

/-- max(m2 + t, +0), where the term t has overflowed if none. -/
def addM2 (m2 t : Option Dy) : Option Dy :=
  match m2, t with
  | some a, some b =>
    let y := (xadd a b).max (dyZero false)
    if y.tooBig then none else some y.abs
  | _, _ => none

/-- A number that stays in the X64 range. -/
def inRange (d : Dy) : Option Dy := if d.tooBig then none else some d

/-- One step of Welford's update (R153). -/
def Part.push (p : Part) (x : Dy) : Part :=
  let n := p.n + 1
  let d := xadd x p.mean.negate
  let mean := xadd p.mean (xdivNat d n)
  let e := xadd x mean.negate
  ⟨n, mean, addM2 p.m2 (inRange (xmul d e))⟩

/-- The combine of R153; a partial with n = 0 passes the other through. -/
def Part.combine (a b : Part) : Part :=
  if a.n = 0 then b
  else if b.n = 0 then a
  else
    let n := a.n + b.n
    let d := xadd b.mean a.mean.negate
    let mean := xadd a.mean (xdivNat (xmul d (dyInt b.n)) n)
    let sq := inRange (xmul d d)
    let t := sq.map fun y => xdivNat (xmul (xmul y (dyInt a.n)) (dyInt b.n)) n
    let q := addM2 (addM2 a.m2 b.m2) (t.bind inRange)
    ⟨n, mean, q⟩

/-- Pairs 2j and 2j + 1 brought together. -/
def pairUp {α : Type} (f : α → α → α) : List α → List α
  | a :: b :: l => f a b :: pairUp f l
  | l => l

/-- A fixed tree: pairs level by level until one value remains. -/
def treeFold {α : Type} (f : α → α → α) (z : α) : Nat → List α → α
  | 0, l => l.headD z
  | fuel + 1, l => match l with
    | [] => z
    | [a] => a
    | l => treeFold f z fuel (pairUp f l)

/-- Consecutive groups of 32. -/
def groups32 {α : Type} : Nat → List α → List (List α)
  | 0, _ => []
  | fuel + 1, l => if l.isEmpty then [] else l.take 32 :: groups32 fuel (l.drop 32)

/-- What a row's active elements hold besides finite numbers. -/
structure Specials64 where
  nan : Bool
  snan : Bool
  pinf : Bool
  ninf : Bool

def specialsOf (xs : List FVal) : Specials64 :=
  ⟨xs.any (·.isNan), xs.any (·.isSnan), xs.any (fun x => match x with | .inf false => true | _ => false),
   xs.any (fun x => match x with | .inf true => true | _ => false)⟩

/-- The statistics of a row: its slot form, and the flags that its elements raise (R153, R154). -/
def rowStats (xs : List (Option FVal)) : RsuSlot × Byte :=
  let act := xs.filterMap id
  let sp := specialsOf act
  let n := act.length
  if sp.nan then (.stats n .nan .nan, flagIf sp.snan flagInv)
  else if sp.pinf && sp.ninf then (.stats n .nan .nan, flagInv)
  else if sp.pinf || sp.ninf then (.stats n (.inf sp.ninf) .nan, 0)
  else
    let p := treeFold Part.combine Part.zero 8 ((groups32 64 xs).map fun g =>
      (g.filterMap id).foldl (fun p x => match x with | .num d => p.push d | _ => p) Part.zero)
    let m2 : X64 := match p.m2 with | some d => .num d.neg d.m d.e | none => .inf false
    (.stats n (.num p.mean.neg p.mean.m p.mean.e) m2, flagIf p.m2.isNone flagOvf)

/-- A finite partial of a slot; none where its mean is not finite. -/
def partOf (n : Nat) (mean m2 : X64) : Option Part :=
  match mean with
  | .num s m e =>
    some ⟨n, ⟨s, m, e⟩, match m2 with | .num s2 a b => some ⟨s2, a, b⟩ | _ => none⟩
  | _ => none

/-- The 32-bit count of a slot (R156); past its range its value is not stated (log 9). -/
def count32 (n : Nat) : Nat := if n < 2 ^ 32 then n else Config.rsuCount n % 2 ^ 32

/-- Two statistics combined (R153, R154, R157). -/
def combineStats (a b : RsuSlot) : RsuSlot × Byte :=
  match a, b with
  | .stats na ma qa, .stats nb mb qb =>
    if na = 0 then (b, 0)
    else if nb = 0 then (a, 0)
    else match partOf na ma qa, partOf nb mb qb with
      | some p, some q =>
        let r := p.combine q
        let m2 : X64 := match r.m2 with | some d => .num d.neg d.m d.e | none => .inf false
        (.stats (count32 r.n) (.num r.mean.neg r.mean.m r.mean.e) m2, flagIf (r.m2.isNone) flagOvf)
      | _, _ =>
        let n := count32 (na + nb)
        match ma, mb with
        | .nan, _ => (.stats n .nan .nan, 0)
        | _, .nan => (.stats n .nan .nan, 0)
        | .inf x, .inf y => if x = y then (.stats n (.inf x) .nan, 0) else (.stats n .nan .nan, flagInv)
        | .inf x, _ => (.stats n (.inf x) .nan, 0)
        | _, y => (.stats n y .nan, 0)
  | _, _ => (b, 0)

/-- The canonical FP32 NaN. -/
def nan32 : W32 := 0x7FC00000

/-- A finite or special value rounded to FP32 under RM. -/
def toFp32 (rm : RMode) (x : FVal) : W32 × Byte :=
  let r := fmtFP32.convert rm false x
  (BitVec.ofNat 32 r.bits, r.flags)

/-- MEAN of a slot (R153, R154, R120). -/
def slotMean (rm : RMode) (sl : RsuSlot) : W32 × Byte :=
  match sl with
  | .stats n mean _ => if n = 0 then (nan32, flagEmpty) else toFp32 rm mean.val
  | _ => (nan32, flagEmpty)

/-- The variance of a slot as an exact quotient: none, its value is special. -/
def slotVar (rm : RMode) (sl : RsuSlot) : W32 × Byte :=
  match sl with
  | .stats n mean m2 =>
    if n = 0 then (nan32, flagEmpty)
    else match mean, m2 with
      | .nan, _ => (nan32, 0)
      | .inf _, _ => (nan32, flagInv)
      | _, .inf _ => (0x7F800000, flagOvf)
      | _, .num s m e => toFp32 rm (.num (if m = 0 then ⟨s, 0, 0⟩ else dyQuot false m n e 24))
      | _, .nan => (nan32, 0)
  | _ => (nan32, flagEmpty)

/-- A number with its significand brought to 64 bits, so that equal numbers look alike. -/
def Dy.norm64 (d : Dy) : Dy := let q := d.log2 - 63; ⟨d.neg, (roundAt .rz d q).1, q⟩

/-- 1/√ of a positive number in X64, on either side of the exact value, and whether it is exact (R157). -/
def rsqrtX (d : Dy) : Dy × Bool :=
  let v := d.norm64
  let m := v.mant4
  let y := near (fxDiv fxOne (fxSqrt m.1)) (- m.2)
  (y.round 64 (Config.rsuRsqrtUp v.m v.e), y.exact)

/-- 1/√v of an X64 argument, computed in X64 and rounded once to FP32 under RM; DZ at the pole (R157, R59, log 9). -/
def rsqrt64 (rm : RMode) (v : FVal) : W32 × Byte :=
  match v with
  | .nan _ => (nan32, 0)
  | .inf n => if n then (nan32, flagInv) else (0, 0)
  | .num d =>
    if d.m = 0 then (if d.neg then 0xFF800000 else 0x7F800000, flagDz)
    else if d.neg then (nan32, flagInv)
    else
      let y := rsqrtX d
      let r := toFp32 rm (.num y.1)
      (r.1, r.2 ||| flagIf (!y.2) flagInx)

/-- 1/√(VAR + ε) of a slot (R157). -/
def slotRstd (rm : RMode) (eps : W32) (sl : RsuSlot) : W32 × Byte :=
  match sl with
  | .stats n mean m2 =>
    if n = 0 then (nan32, flagEmpty)
    else match mean, m2 with
      | .nan, _ => (nan32, 0)
      | .inf _, _ => (nan32, flagInv)
      | _, .nan => (nan32, 0)
      | _, .inf _ => let r := rsqrt64 rm (.inf false); (r.1, r.2 ||| flagOvf)
      | _, .num _ m e =>
        let var := if m = 0 then dyZero false else round64 (dyQuot false m n e 64)
        let s := fadd false (.num var) (fmtFP32.decode eps.toNat)
        let s := match s.1 with | .num d => (X64.of (.num d)).val | y => y
        rsqrt64 rm s
  | _ => (nan32, flagEmpty)

/-! ### Online softmax (R158) -/

/-- e^x of a nonzero number in X64, on either side of the exact value (R158, log 9). -/
def expX (d : Dy) : Dy :=
  let v := d.norm64
  let a : Int := capped v.fx 800
  let r := fxExp (if v.neg then - a else a)
  (near r.1 r.2).round 64 (Config.rsuExpUp v.neg v.m v.e)

/-- e^d in X64; e^0 is 1. -/
def exp64 (d : FVal) : Dy :=
  match d with
  | .num q => if q.m = 0 then dyInt 1 else round64 (expX q)
  | .inf true => dyZero false
  | _ => dyInt 1

/-- x − M for finite or −Inf x and finite M. -/
def subMax (x m : FVal) : FVal := match (fadd false x m.negate).1 with | .num d => .num (round64 d) | y => y

/-- A running maximum and sum after one row of active and inactive elements (R158). -/
def smaxRow (sl : RsuSlot) (xs : List (Option FVal)) : RsuSlot × Byte :=
  let act := xs.filterMap id
  let sp := specialsOf act
  let (n, m, sum) : Nat × X64 × X64 := match sl with | .smax n m s => (n, m, s) | _ => (0, .inf true, .zero)
  let n' := count32 (n + act.length)
  if m = .nan ∨ sp.nan then (.smax n' .nan .nan, flagIf sp.snan flagInv)
  else
    let mx := act.foldl (fun b x => if totalCmp b x = .lt then x else b) m.val
    match mx, sum with
    | .inf true, _ => (.smax n' m sum, 0)
    | .inf false, .num s a e =>
      let keep : Dy := match m with | .inf false => ⟨s, a, e⟩ | _ => dyZero false
      let t (x : FVal) : Dy := match x with | .inf false => dyInt 1 | _ => dyZero false
      let add := treeFold xadd (dyZero false) 8 ((groups32 64 xs).map fun g =>
        (g.filterMap id).foldl (fun p x => xadd p (t x)) (dyZero false))
      (.smax n' (.inf false) (X64.of (.num (xadd keep add))), 0)
    | _, .num s a e =>
      let scaled := xmul ⟨s, a, e⟩ (exp64 (subMax m.val mx))
      let add := treeFold xadd (dyZero false) 8 ((groups32 64 xs).map fun g =>
        (g.filterMap id).foldl (fun p x => xadd p (exp64 (subMax x mx))) (dyZero false))
      (.smax n' (X64.of mx) (X64.of (.num (xadd scaled add))), 0)
    | _, _ => (.smax n' (X64.of mx) sum, 0)

/-- The running maximum, and 1/Σ, of a slot; an empty one gives −Inf and the canonical NaN (R158). -/
def smaxOut (rm : RMode) (sl : RsuSlot) : W32 × W32 × Byte :=
  match sl with
  | .smax n m sum =>
    if n = 0 then (0xFF800000, nan32, flagEmpty)
    else
      let a := toFp32 rm m.val
      let b : W32 × Byte := match sum with
        | .nan => (nan32, 0)
        | .inf _ => (0, 0)
        | .num _ v e => if v = 0 then (0x7F800000, flagDz) else toFp32 rm (.num (dyQuot false 1 v (- e) 24))
      (a.1, b.1, a.2 ||| b.2)
  | _ => (0xFF800000, nan32, flagEmpty)

/-! ### Rows -/

/-- The elements of row r of VA, in element order; none: inactive. -/
def VIn.rowElems (i : VIn) (reg w r : Nat) : List (Option Nat) :=
  (upFrom (r * w) w).flatMap fun l =>
    (elemsOf (vType i.w) (i.x.lane reg l)).map fun x => if i.active l then some x else none

/-- The values of row r. -/
def VIn.rowVals (i : VIn) (reg w r : Nat) : List (Option FVal) :=
  (i.rowElems reg w r).map fun x => x.map (typeFmt (vType i.w)).decode

/-- A state slot of an engine. -/
def Ve.rsuSlot (x : Ve) (n : Nat) : RsuSlot := look .empty n x.rsu
def Ve.setRsu (x : Ve) (n : Nat) (v : RsuSlot) : Ve := { x with rsu := put .empty n v x.rsu }

end Sys2Proof.Machine
end

