-- ==== Sys2Proof/Machine/Rsu.lean ====
section
/-! DEFINITION. The row-statistics instructions (R156 to R160). -/

namespace Sys2Proof.Machine

/-- SB (R157). -/
def rsSb (w : W64) : Nat := vImm w % 64

/-- Rows of the tile view. -/
def rsRows (w : W64) : Nat := 1024 / tileW (vTw w)

/-- Legality: IMM bits, SB + R − 1 not above 63, and VD + 1 a register (R157). -/
def rsSpec (types imm : Nat) (two pair : Bool) (w : W64) : VSpec :=
  { vSpec types with imm := imm, pair := pair,
                     bad := decide (63 < rsSb w + rsRows w - 1) || (two && vVd w == 31) }

/-- Rows as (row, lane values): writes lane r of VD, and of VD + 1. -/
def VIn.rowOut (i : VIn) (a : List (Nat × W32)) (b : List (Nat × W32)) : Ve :=
  (i.x.setLanes (vVd i.w) a).setLanes (vVd i.w + 1) b

/-- The second result of a row: VAR, or 1/√(VAR + ε) with IMM[7] = 1 (R157). -/
def VIn.second (i : VIn) (sl : RsuSlot) : W32 × Byte :=
  if bitOf (vImm i.w) 7 then slotRstd (vRound i.w) (i.sx.setWidth 32) sl else slotVar (vRound i.w) sl

/-- VRSTAT (R157). -/
def execVrstat (c t : Nat) (mm : Option Nat) (s : State) : Res :=
  .next (vecPure s c t 0x70 mm (fun w => [vVa w, vVd w, vVd w + 1]) (fun w => rsSpec tyFloat 0xBF true false w) fun i =>
    if i.badLanes (vVa i.w) i.lanes then .fault Code.eccUncorr 0
    else
      let rs := (List.range (rsRows i.w)).map fun r =>
        let p := rowStats (i.rowVals (vVa i.w) (tileW (vTw i.w)) r)
        let m := slotMean (vRound i.w) p.1
        let v := i.second p.1
        (r, m.1, v.1, p.2 ||| m.2 ||| v.2)
      .done (i.rowOut (rs.map fun q => (q.1, q.2.1)) (rs.map fun q => (q.1, q.2.2.1))) (flagsOr (rs.map (·.2.2.2))) none)

/-- VRSACC: each row's partial into its slot; a slot of another kind starts afresh (R156, R157). -/
def execVrsacc (c t : Nat) (mm : Option Nat) (s : State) : Res :=
  .next (vecPure s c t 0x71 mm (fun w => [vVa w]) (fun w => rsSpec tyFloat 0x3F false false w) fun i =>
    if i.badLanes (vVa i.w) i.lanes then .fault Code.eccUncorr 0
    else
      let r := (List.range (rsRows i.w)).foldl (fun (q : Ve × Byte) r =>
        let p := rowStats (i.rowVals (vVa i.w) (tileW (vTw i.w)) r)
        let old := match q.1.rsuSlot (rsSb i.w + r) with
          | .stats n a b => RsuSlot.stats n a b
          | _ => .stats 0 .zero .zero
        let m := combineStats old p.1
        (q.1.setRsu (rsSb i.w + r) m.1, q.2 ||| p.2 ||| m.2)) (i.x, 0)
      .done r.1 r.2 none)

/-- Empties the slots of the rows. -/
def VIn.clearSlots (i : VIn) (x : Ve) : Ve := (List.range (rsRows i.w)).foldl (fun x r => x.setRsu (rsSb i.w + r) .empty) x

/-- VRSOUT: MEAN and VAR, or 1/√(VAR + ε), of each slot (R157). -/
def execVrsout (c t : Nat) (mm : Option Nat) (s : State) : Res :=
  .next (vecPure s c t 0x72 mm (fun w => [vVd w, vVd w + 1]) (fun w => rsSpec tyFloat 0xFF true false w) fun i =>
    let rs := (List.range (rsRows i.w)).map fun r =>
      let sl := i.x.rsuSlot (rsSb i.w + r)
      let m := slotMean (vRound i.w) sl
      let v := i.second sl
      (r, m.1, v.1, m.2 ||| v.2)
    let x := i.rowOut (rs.map fun q => (q.1, q.2.1)) (rs.map fun q => (q.1, q.2.2.1))
    .done (if bitOf (vImm i.w) 6 then i.clearSlots x else x) (flagsOr (rs.map (·.2.2.2))) none)

/-- VRSCLR: empties slots SB to SB + R − 1 (R157). -/
def execVrsclr (c t : Nat) (s : State) : Res :=
  .next (vecPure s c t 0x73 none (fun _ => []) (fun w => rsSpec tyAll 0x3F false false w) fun i =>
    .done (i.clearSlots i.x) 0 none)

/-- VSMXACC (R158). -/
def execVsmxacc (c t : Nat) (mm : Option Nat) (s : State) : Res :=
  .next (vecPure s c t 0x74 mm (fun w => [vVa w]) (fun w => rsSpec tyFloat 0x3F false false w) fun i =>
    if i.badLanes (vVa i.w) i.lanes then .fault Code.eccUncorr 0
    else
      let r := (List.range (rsRows i.w)).foldl (fun (q : Ve × Byte) r =>
        let p := smaxRow (q.1.rsuSlot (rsSb i.w + r)) (i.rowVals (vVa i.w) (tileW (vTw i.w)) r)
        (q.1.setRsu (rsSb i.w + r) p.1, q.2 ||| p.2)) (i.x, 0)
      .done r.1 r.2 none)

/-- VSMXOUT: the running maximum and 1/sum of each slot (R157, R158). -/
def execVsmxout (c t : Nat) (mm : Option Nat) (s : State) : Res :=
  .next (vecPure s c t 0x75 mm (fun w => [vVd w, vVd w + 1]) (fun w => rsSpec tyFloat 0x7F true false w) fun i =>
    let rs := (List.range (rsRows i.w)).map fun r => (r, smaxOut (vRound i.w) (i.x.rsuSlot (rsSb i.w + r)))
    let x := i.rowOut (rs.map fun q => (q.1, q.2.1)) (rs.map fun q => (q.1, q.2.2.1))
    .done (if bitOf (vImm i.w) 6 then i.clearSlots x else x) (flagsOr (rs.map (·.2.2.2))) none)

/-- The carry of a row: +0, or with IMM[7] = 1 the value of its slot (R159). -/
def VIn.carry (i : VIn) (r : Nat) : X64 :=
  if bitOf (vImm i.w) 7 then
    match i.x.rsuSlot (rsSb i.w + r) with
    | .scan v => v
    | _ => .zero
  else .zero

/-- A positive zero. -/
def posZero : FVal → Bool
  | .num d => d.m == 0 && !d.neg
  | _ => false

/-- The prefix sums of a row: each active element's result bits, the flags, and the exact sum at the end (R159). -/
def scanRow (rm : RMode) (f : Fmt) (carry : FVal) (xs : List (Option FVal)) : List (Option Nat) × Byte × X64 :=
  let step (q : SumAcc × Bool × List (Option Nat) × Byte) (x : Option FVal) : SumAcc × Bool × List (Option Nat) × Byte :=
    match x with
    | none => (q.1, q.2.1, none :: q.2.2.1, q.2.2.2)
    | some v =>
      let acc := q.1.term (v, false)
      let pos := q.2.1 && posZero v
      let r := f.finish rm (if rm = .rd then acc.valueRd pos else acc.value)
      (acc, pos, some r.bits :: q.2.2.1, q.2.2.2 ||| r.flags)
  let r := xs.foldl step (SumAcc.start.term (carry, false), posZero carry, [], 0)
  (r.2.2.1.reverse, r.2.2.2, X64.of r.1.value.1)

/-- VSCAN: prefix sums within rows (R159). -/
def execVscan (c t : Nat) (mm : Option Nat) (s : State) : Res :=
  .next (vecPure s c t 0x76 mm (fun w => [vVa w, vVd w]) (fun w => rsSpec tyFloat 0xBF false false w) fun i =>
    if i.badLanes (vVa i.w) i.lanes then .fault Code.eccUncorr 0
    else
      let w := tileW (vTw i.w)
      let k := perLane (vType i.w)
      let rows := (List.range (rsRows i.w)).map fun r =>
        (r, scanRow (vRound i.w) (typeFmt (vType i.w)) (i.carry r).val (i.rowVals (vVa i.w) w r))
      let lanes := rows.flatMap fun q => (List.range w).filterMap fun j =>
        if i.active (q.1 * w + j) then
          some (q.1 * w + j, laneOf (vType i.w) (((q.2.1.drop (k * j)).take k).map (·.getD 0)))
        else none
      let x := i.x.setLanes (vVd i.w) (lanes ++ i.zeroed.map fun l => (l, 0))
      let x := if bitOf (vImm i.w) 7 then rows.foldl (fun x q => x.setRsu (rsSb i.w + q.1) (.scan q.2.2.2)) x else x
      .done x (flagsOr (rows.map (·.2.2.1))) none)

/-- One level of R160's tree over (A, B) pairs of FP32 bits. -/
def lscanLevel (d : Nat) (l : List (Nat × Nat)) : List (Nat × Nat) × Byte :=
  let prev : List (Option (Nat × Nat)) := List.replicate d none ++ l.map some
  let f (b : Nat) : FVal := fmtFP32.decode b
  let rs := l.zipWith (fun (x : Nat × Nat) (p : Option (Nat × Nat)) =>
    match p with
    | none => (x, (0 : Byte))
    | some y =>
      let a := fmtFP32.finish .rne (fmul (f x.1) (f y.1))
      let b := fmtFP32.finish .rne (ffma false (f x.1) (f y.2) (f x.2))
      ((a.bits, b.bits), a.flags ||| b.flags)) prev
  (rs.map (·.1), flagsOr (rs.map (·.2)))

/-- All levels: d = 1, 2, 4, … below W. -/
def lscanTree (w : Nat) : Nat → Nat → List (Nat × Nat) → Byte → List (Nat × Nat) × Byte
  | 0, _, l, fl => (l, fl)
  | fuel + 1, d, l, fl =>
    if d < w then let r := lscanLevel d l; lscanTree w fuel (2 * d) r.1 (fl ||| r.2) else (l, fl)

/-- The recurrence along one row (R160). -/
def lscanRow (carry : FVal) (ab : List (Nat × Nat)) : List Nat × Byte :=
  let r := lscanTree ab.length 11 1 ab 0
  let hs := r.1.map fun p => fmtFP32.finish .rne (ffma false (fmtFP32.decode p.1) carry (fmtFP32.decode p.2))
  (hs.map (·.bits), r.2 ||| flagsOr (hs.map (·.flags)))

/-- VLSCAN (R160). -/
def execVlscan (c t : Nat) (mm : Option Nat) (s : State) : Res :=
  .next (vecPure s c t 0x77 mm (fun w => [vVa w, vVb w, vVd w]) (fun w => rsSpec 0x01 0xBF false false w) fun i =>
    if i.badLanes (vVa i.w) i.lanes || i.badLanes (vVb i.w) i.bLanes then .fault Code.eccUncorr 0
    else
      let w := tileW (vTw i.w)
      let rows := (List.range (rsRows i.w)).map fun r =>
        (r, lscanRow (i.carry r).val ((upFrom (r * w) w).map fun l =>
          if i.active l then ((i.x.lane (vVa i.w) l).toNat, (i.b l).toNat) else (0x3F800000, 0)))
      let lanes := rows.flatMap fun q => (List.range w).filterMap fun j =>
        if i.active (q.1 * w + j) then some (q.1 * w + j, BitVec.ofNat 32 (q.2.1.getD j 0)) else none
      let x := i.x.setLanes (vVd i.w) (lanes ++ i.zeroed.map fun l => (l, 0))
      let x := if bitOf (vImm i.w) 7 then
        rows.foldl (fun x q => x.setRsu (rsSb i.w + q.1) (.scan (X64.of (fmtFP32.decode (q.2.1.getD (w - 1) 0))))) x
        else x
      .done x (flagsOr (rows.map (·.2.2))) none)

end Sys2Proof.Machine
end

