-- ==== Sys2Proof/Machine/SelfTests.lean ====
section
/-! DEFINITION. Array self-tests, core tests, and the supervision of the Casori pairs (R517 to R523). -/

namespace Sys2Proof.Machine

/-! ### Array self-tests (R519, R520) -/

def testOf (s : State) (c a h : Nat) : SelfTest := look .reset (testKey c a h) s.agg.tests
def setTest (s : State) (c a h : Nat) (t : SelfTest) : State :=
  { s with agg := { s.agg with tests := put .reset (testKey c a h) t s.agg.tests } }

/-- Half h of array a of core c has a self-test of its own: in whole mode the array has one, that of half 0. -/
def hasTest (s : State) (c a h : Nat) : Bool :=
  s.coreOn c && decide (a < 2) && (decide (h = 0) || (decide (h = 1) && ((s.core c).mxa a).split))

/-- STPER µs in nanoseconds: values below 100 act as 100, and values above 900 as 900 (R530). -/
def Agg.testPeriod (a : Agg) : Nat := min 900 (max 100 a.stper.toNat) * 1000

/-- STPER has passed since the half's last passed test (R519). -/
def testDue (s : State) (t : SelfTest) : Bool := decide (s.agg.testPeriod ≤ (s.tbtime - t.lastPass).toNat)

/-- SELF_TEST_DUE: the test waits for the next command boundary; timing only. -/
def execSelfTestDue (c a h : Nat) (s : State) : Res :=
  .next (
    let t := testOf s c a h
    if s.powered && hasTest s c a h && testDue s t then setTest s c a h { t with due := true } else s)

/-- SELF_TEST_SUSPEND: a due test suspends the command that runs; timing only. -/
def execSelfTestSuspend (c a h : Nat) (s : State) : Res :=
  .next (
    if hasTest s c a h && (testOf s c a h).due && (((s.core c).mxa a).half h).head.isSome then
      setTest s c a h { testOf s c a h with suspended := true }
    else s)

/-- A test passes: the rows written since the last one are good. -/
def testPassed (s : State) (c a h : Nat) : State :=
  let s := setTest s c a h ⟨false, false, s.tbtime, false⟩
  s.modMxa c a fun m => { m with written := m.written.delAll (m.poisonKeys h 0 512) }

/-- The half is fenced though no command waits: the next one to reach it takes the fault. -/
def fenceEmpty (s : State) (c a h col : Nat) : State :=
  let w := afltWord Code.arrayFault col 0 0
  let s := setTest s c a h { testOf s c a h with failNext := true }
  let s := s.modMxa c a fun m => m.modHalf h fun x => { x with fenced := true, aflt := w }
  record s ⟨0x20, 2, .core, c, a, Code.arrayFault, w.toNat, 0⟩

/-- A test fails on a column, or 0xFF. The command it stops may have had part of its effect (log 11). -/
def testFailed (s : State) (c a h col : Nat) : State :=
  let t := testOf s c a h
  let s := setTest s c a h { t with due := false, suspended := false }
  let s := match (((s.core c).mxa a).half h).head with
    | some e => arrayFault (abortOne s c a h e) c a h e Code.arrayFault col
    | none => fenceEmpty s c a h col
  let s := s.modMxa c a fun m =>
    { m with poison := m.poison.addAll ((m.poisonKeys h 0 512).filter m.written.has) }
  record s ⟨0x21, 2, .core, c, a, Code.arrayFault, t.lastPass.toNat, col % 256⟩

/-- SELF_TEST_RESULT: `res` names the failing column, 0xFF if the fault is not confined to one. -/
def execSelfTestResult (c a h : Nat) (res : Option Nat) (s : State) : Res :=
  .next (
    if hasTest s c a h && (testOf s c a h).due then
      match res with
      | none => testPassed s c a h
      | some col => testFailed s c a h col
    else s)

/-! ### Core tests (R521) -/

/-- The test leaves a core as a first launch after reset finds it. -/
def clearedCore (s : State) (c : Nat) : State := (clearCore s c).modCore c fun k => { k with prevCtx := none }

/-- CORE_TEST_COMPLETE. -/
def execCoreTestComplete (c : Nat) (pass : Bool) (s : State) : Res :=
  .next (
    if s.agg.tst.has c then
      let s := clearedCore s c
      let s := { s with agg := { s.agg with tst := s.agg.tst.del c, oos := if pass then s.agg.oos else s.agg.oos.add c } }
      record s ⟨0x24, 1, .core, c, 0, 0, 0, b2n (!pass)⟩
    else s)

/-! ### Casori (R517, R523) -/

/-- CASORI_LOCKSTEP_MISMATCH. -/
def execCasoriLockstepMismatch (pair : Nat) (s : State) : Res :=
  .next (if s.pkg = .off ∨ 2 ≤ pair then s else safeCause s 2 ⟨0x58, 3, .casori, pair, 0, 0, pair, 0⟩)

/-- CASORI_WATCHDOG_EXPIRY. -/
def execCasoriWatchdogExpiry (pair : Nat) (s : State) : Res :=
  .next (if s.pkg = .off ∨ 2 ≤ pair then s else safeCause s 2 ⟨0x59, 3, .casori, pair, 0, 0, pair, 0⟩)

end Sys2Proof.Machine
end

