-- ==== Sys2Proof/Machine/Timebase.lean ====
section
/-! DEFINITION. The timebase exchange (R372, R373). -/

namespace Sys2Proof.Machine

/-- TSREQ_TIMER: a follower sends TSREQ with its TBTIME on its source link (R372). -/
def execTsreqTimer (s : State) : Res :=
  let n := s.net
  .next (if !n.tbMaster && isActive (s.link n.tbSrc).st && !s.agg.safe then
      s.modLink n.tbSrc fun x => x.sendCtrl (2 :: leBytes 8 s.tbtime.toNat)
    else s)

/-- TSREQ: answered with t1, t2 and t3, and source valid = MASTER | SYNC (R372). -/
def execTsreq (l : Nat) (f : Flit) (fec : Bool) (s : State) : Res :=
  .next (rxCtrl s l f fec isActive 2 fun s =>
    let t := leBytes 8 s.tbtime.toNat
    s.modLink l fun x =>
      x.sendCtrl (3 :: (f.payload.drop 1).take 8 ++ t ++ t ++ [BitVec.ofNat 8 (b2n (s.net.tbMaster || s.net.tbSync))]))

/-- Half of an integer; of an odd one the rules give no rounding, so one of its two neighbours (log 10). -/
def halve (n : Int) (up : Bool) : Int := if n % 2 = 0 then n / 2 else if up then (n + 1) / 2 else n / 2

/-- A measured offset (R372, R373): before SYNC it steps TBTIME forward and sets SYNC, or holds TBTIME, which sets SYNC
once it has caught up; a later one is slewed. -/
def applyOffset (s : State) (off : Int) : State :=
  let n := { s.net with tbOffset := BitVec.ofInt 32 off, tbHold := false }
  if n.tbSync then { s with net := { n with tbSlew := off, tbSlewed := 0 } }
  else if 0 < off then { s with tbtime := s.tbtime + BitVec.ofInt 64 off, net := { n with tbSync := true, tbStop := 0 } }
  else { s with net := { n with tbSync := decide (off = 0), tbStop := (-off).toNat } }

/-- TSRSP: a follower's offset from its source link; a response whose source is not valid is ignored (R372). -/
def execTsrsp (l : Nat) (f : Flit) (fec : Bool) (s : State) : Res :=
  .next (rxCtrl s l f fec isActive 3 fun s =>
    if s.net.tbMaster ∨ s.net.tbSrc ≠ l ∨ flitByte f 37 % 2 = 0 then s
    else
      let t1 : Int := flitField f 13 8
      let t2 : Int := flitField f 21 8
      let t3 : Int := flitField f 29 8
      let t4 : Int := s.tbtime.toNat
      let (r, s) := freeNat s
      applyOffset s (t2 - t1 - halve (t4 - t1 - (t3 - t2)) (r % 2 == 1)))

end Sys2Proof.Machine
end

