-- ==== Sys2Proof/Machine/VectorMem.lean ====
section
/-! DEFINITION. Working-store loads and stores, gathers and scatters of the vector engines (R116, R117, R107, R573). -/

namespace Sys2Proof.Machine

/-- VLD and VST: S, the row stride, is read only with more than one row (R117). -/
def memSpec (w : W64) : VSpec := { vSpec tyAll with pair := vTw w != 0 }

/-- The working-store offset of each active lane of VLD and VST (R117), as numbers that do not wrap: the model's choice
(log 114). -/
def VIn.memLanes (i : VIn) : List (Nat × Nat) :=
  let w := tileW (vTw i.w)
  let st := if vTw i.w = 0 then 0 else i.sx1.toNat
  i.lanes.map fun l => (l, i.sx.toNat + l / w * st + 4 * (l % w))

/-- The fault of words that lie at or beyond 8 MiB: E_XLATE and one of their offsets (R116, R117, R131) (log 107). -/
def beyondFault (offs : List Nat) : Option (Byte × Nat) :=
  match offs.filter fun a => decide (wsSize < a + 4) with
  | [] => none
  | bad => some (Code.xlate, bad.getD (Config.faultPick bad % bad.length) 0)

/-- The addressing checks of VLD and VST: a bad stride before a bad address; none at VL = 0 (R117). The
error of the stride has no offset (log 107). -/
def VIn.memCheck (i : VIn) : Option (Byte × Nat) :=
  if i.x.vl.val = 0 then none
  else if vTw i.w ≠ 0 ∧ i.sx1.toNat % 64 ≠ 0 then some (Code.badParam, 0)
  else if i.sx.toNat % 64 ≠ 0 then some (Code.xlate, i.sx.toNat)
  else beyondFault (i.memLanes.map (·.2))

/-- Reads the words of 4-byte accesses, up to the first that cannot be read. -/
def readLanes (s : State) (c : Nat) (offs : List Nat) : State × Option Byte :=
  readWords s c (offs.map fun a => wsPa c a / 8).eraseDups

/-- Four bytes at a working-store offset. -/
def wsWord (s : State) (c off : Nat) : W32 := BitVec.ofNat 32 (leNat (s.ws c off 4))

/-- VLD (R117): active lanes from the working store; it waits for the stream's drains there (R107). -/
def execVld (c t : Nat) (s : State) : Res :=
  .next (vecStep s c t 0x48 none (fun s i => (s.core i.c).drainWaits i.t i.n) (fun w => [vVd w])
    fun s i =>
      if vBad (memSpec i.w) i.w then (s, .fault Code.badParam 0)
      else match i.memCheck with
        | some (code, a) => (s, .fault code a)
        | none =>
          match readLanes s i.c (i.memLanes.map (·.2)) with
          | (s, some e) => (s, .fault e 0)
          | (s, none) =>
            (s, .done (i.x.setLanes (vVd i.w)
              ((i.memLanes.map fun p => (p.1, wsWord s i.c p.2)) ++ i.zeroed.map fun l => (l, 0))) 0 none))

/-- A store of lanes. Where lanes of a VST meet, the highest lane's value remains, as R116 says of VSCATTER: the model's
choice (log 114). A partial write of an uncorrectable word is a fault, the other words are written (R573). -/
def storeLanes (s : State) (i : VIn) (l : List (Nat × W32)) : State × VOut :=
  match writeCheck s (l.flatMap fun p => pairs (wsPa i.c p.1) (leBytes 4 p.2.toNat)) with
  | (s, some e) => (s, .fault e 0)
  | (s, none) => (s, .done i.x 0 none)

/-- The store would change descriptor bytes that have not been read (R200, R234). -/
def storeWaits (s : State) (i : VIn) (offs : List Nat) : Bool :=
  let k := s.core i.c
  offs.any fun a => k.hitsDesc i.t i.n a 4

/-- VST (R117). An addressing error is reported before an uncorrectable lane of VA: the model's choice (log 114). -/
def execVst (c t : Nat) (s : State) : Res :=
  .next (vecStep s c t 0x49 none (fun s i => storeWaits s i (i.memLanes.map (·.2))) (fun w => [vVa w]) fun s i =>
    if vBad (memSpec i.w) i.w then (s, .fault Code.badParam 0)
    else match i.memCheck with
      | some (code, a) => (s, .fault code a)
      | none =>
        if i.badLanes (vVa i.w) i.lanes then (s, .fault Code.eccUncorr 0)
        else storeLanes s i (i.memLanes.map fun p => (p.2, i.x.lane (vVa i.w) p.1)))

/-- Gathers and scatters read SX and SX + 1. -/
def gatherSpec : VSpec := { vSpec tyAll with pair := true }

/-- Active lanes with their offset if the index is below the bound N (R116). The index comes from lane l of VB whatever BCB
is: the model's choice (log 65). -/
def VIn.gatherLanes (i : VIn) : List (Nat × Option Nat) :=
  i.lanes.map fun l =>
    let k := (i.x.lane (vVb i.w) l).toNat
    (l, if k < i.sx1.toNat % 2 ^ 32 then some (i.sx.toNat + 4 * k) else none)

/-- The addressing checks of VGATHER and VSCATTER (R116). -/
def VIn.gatherCheck (i : VIn) : Option (Byte × Nat) :=
  if i.sx.toNat % 4 ≠ 0 then some (Code.xlate, i.sx.toNat)
  else beyondFault (i.gatherLanes.filterMap (·.2))

/-- PERM_OOR if some index is out of range. -/
def VIn.oor (i : VIn) : Byte := flagIf (i.gatherLanes.any fun p => p.2.isNone) flagPermOor

/-- VGATHER (R116). -/
def execVgather (c t : Nat) (s : State) : Res :=
  .next (vecStep s c t 0x4A none (fun s i => (s.core i.c).drainWaits i.t i.n) (fun w => [vVd w, vVb w])
    fun s i =>
      if vBad gatherSpec i.w then (s, .fault Code.badParam 0)
      else if i.badLanes (vVb i.w) i.lanes then (s, .fault Code.eccUncorr 0)
      else match i.gatherCheck with
        | some (code, a) => (s, .fault code a)
        | none =>
          match readLanes s i.c (i.gatherLanes.filterMap (·.2)) with
          | (s, some e) => (s, .fault e 0)
          | (s, none) =>
            let rs := i.gatherLanes.map fun p => (p.1, match p.2 with | some a => wsWord s i.c a | none => 0)
            (s, .done (i.x.setLanes (vVd i.w) (rs ++ i.zeroed.map fun l => (l, 0))) i.oor none))

/-- VSCATTER: among lanes of one offset the highest remains (R116). An uncorrectable register lane is reported before an
addressing error: the model's choice (log 114). -/
def execVscatter (c t : Nat) (s : State) : Res :=
  .next (vecStep s c t 0x4B none (fun s i => storeWaits s i (i.gatherLanes.filterMap (·.2))) (fun w => [vVa w, vVb w])
    fun s i =>
      let inb := i.gatherLanes.filterMap fun p => p.2.map fun a => (p.1, a)
      if vBad gatherSpec i.w then (s, .fault Code.badParam 0)
      else if i.badLanes (vVb i.w) i.lanes || i.badLanes (vVa i.w) (inb.map (·.1)) then (s, .fault Code.eccUncorr 0)
      else match i.gatherCheck with
        | some (code, a) => (s, .fault code a)
        | none =>
          match storeLanes s i (inb.map fun p => (p.2, i.x.lane (vVa i.w) p.1)) with
          | (s, .done x _ _) => (s, .done x i.oor none)
          | r => r)

end Sys2Proof.Machine
end

