-- ==== Sys2Proof/Machine/VectorRed.lean ====
section
/-! DEFINITION. Reductions (R118 to R122, R155). -/

namespace Sys2Proof.Machine

/-- What a reduction gives: the lane's bits, VALUE and INDEX of a summary, flags, EMPTY and NF. -/
structure Red where
  lane : W32
  val : W32
  index : Nat
  flags : Byte
  empty : Bool
  nf : Bool

/-- A reduction whose summary value is its result. -/
def redOf (lane : W32) (flags : Byte) (empty nf : Bool) : Red := ⟨lane, lane, 0, flags ||| flagIf empty flagEmpty, empty, nf⟩

/-- TYPEs a reduction accepts (R118, R572). -/
def redTypes : Nat → Nat
  | 0 => 0x1B | 1 => 0x03 | 2 => 0x1F | 3 => 0x1F | 4 => 0xFF | 5 => 0xFF | 6 => 0xFF | 7 => 0x07 | 8 => 0x07
  | 9 => 0x19 | 10 => 0x19 | _ => 0

/-- SUM (R119). -/
def redSum (rm : RMode) (ty : Nat) (xs : List (Option Nat)) : Red :=
  let act := xs.filterMap id
  if ty = 1 then
    let s : Int := (act.map (sext 32)).foldl (· + ·) 0
    let lo : Int := -2147483648
    let hi : Int := 2147483647
    let c := if s < lo then lo else if hi < s then hi else s
    redOf (BitVec.ofInt 32 c) (flagIf (c != s) flagSat) act.isEmpty false
  else
    let vs := act.map (typeFmt ty).decode
    let acc := (vs.map fun v => (v, false)).foldl SumAcc.term SumAcc.start
    let allPos := vs.all fun v => match v with | .num d => d.m == 0 && !d.neg | _ => false
    let v := if rm = .rd then acc.valueRd allPos else acc.value
    let r := fmtFP32.finish rm v
    redOf (BitVec.ofNat 32 r.bits) r.flags act.isEmpty (vs.any fun v => !v.isFinite)

/-- PROD: a fixed pairwise tree with the identity at inactive positions (R119). INT32 products wrap whatever SAT is: the
model's choice (log 113). -/
def redProd (rm : RMode) (ty : Nat) (xs : List (Option Nat)) : Red :=
  let empty := xs.all (·.isNone)
  if ty = 1 then
    let r := treeFold (fun a b => a * b) 1 11 (xs.map fun x => BitVec.ofNat 32 (x.getD 1))
    redOf r 0 empty false
  else
    let f (a b : Nat × Byte) : Nat × Byte :=
      let r := fmtFP32.finish rm (fmul (fmtFP32.decode a.1) (fmtFP32.decode b.1))
      (r.bits, a.2 ||| b.2 ||| r.flags)
    let r := treeFold f (0x3F800000, 0) 11 (xs.map fun x => (x.getD 0x3F800000, (0 : Byte)))
    redOf (BitVec.ofNat 32 r.1) r.2 empty (xs.any fun x => match x with | some b => !(fmtFP32.decode b).isFinite | none => false)

/-- The extreme element and its index: strict, so that the lowest index wins. `lt` orders elements. -/
def extreme (lt : Nat → Nat → Bool) (xs : List (Nat × Nat)) : Option (Nat × Nat) :=
  xs.foldl (fun b x => match b with | none => some x | some y => if lt y.2 x.2 then some x else b) none

/-- The identity of MAX or MIN of a TYPE (R120). -/
def extremeEmpty (mx : Bool) (ty : Nat) : W32 :=
  match ty with
  | 1 => if mx then 0x80000000 else 0x7FFFFFFF
  | 2 => if mx then 0 else 0xFFFFFFFF
  | _ => BitVec.ofNat 32 ((typeFmt ty).withSign mx (typeFmt ty).infBits)

/-- MAX, MIN, ARGMAX, ARGMIN (R118, R120, R121). The VALUE of an empty ARGMAX or ARGMIN of an integer type is the identity
of MAX or MIN: the model's choice (log 113). -/
def redExtreme (mx arg : Bool) (ty : Nat) (xs : List (Option Nat)) : Red :=
  let act := ((List.range xs.length).zip xs).filterMap fun p => p.2.map fun x => (p.1, x)
  let f := typeFmt ty
  let isF := typeFloat ty
  let nans := if isF then act.filter fun p => (f.decode p.2).isNan else []
  let mk (v : W32) (idx : Nat) (fl : Byte) (nf : Bool) : Red :=
    ⟨if arg then BitVec.ofNat 32 idx else v, v, if arg then idx else 0, fl, false, nf⟩
  match act, nans with
  | [], _ =>
    let v := extremeEmpty mx ty
    ⟨if arg then 0xFFFFFFFF else v, v, if arg then 0xFFFFFFFF else 0, flagEmpty, true, false⟩
  | _, (i, _) :: _ => mk (BitVec.ofNat 32 f.nanBits) i (flagIf (nans.any fun p => (f.decode p.2).isSnan) flagInv) true
  | _, [] =>
    let lt (a b : Nat) : Bool :=
      let up : Bool := match ty with
        | 1 => decide (sext 32 a < sext 32 b)
        | 2 => decide (a < b)
        | _ => totalCmp (f.decode a) (f.decode b) == .lt
      let dn : Bool := match ty with
        | 1 => decide (sext 32 b < sext 32 a)
        | 2 => decide (b < a)
        | _ => totalCmp (f.decode b) (f.decode a) == .lt
      if mx then up else dn
    match extreme lt act with
    | some (i, x) => mk (BitVec.ofNat 32 x) i 0 (isF && act.any fun p => !(f.decode p.2).isFinite)
    | none => mk 0 0 0 false

/-- ANY, ALL and COUNT of predicate bits (R118, R120). -/
def redPred (op : Nat) (bs : List Bool) : Red :=
  let n := (bs.filter id).length
  let v := if op = 4 then b2n (decide (0 < n)) else if op = 5 then b2n (n == bs.length) else n
  redOf (BitVec.ofNat 32 v) 0 bs.isEmpty false

/-- MEAN and VAR (R155). -/
def redStats (rm : RMode) (op : Nat) (xs : List (Option FVal)) : Red :=
  let (sl, fl) := rowStats xs
  let r := if op = 9 then slotMean rm sl else slotVar rm sl
  let act := xs.filterMap id
  redOf r.1 (fl ||| r.2) act.isEmpty (act.any fun v => !v.isFinite)

/-- The reduction of row r of width w. -/
def VIn.reduce (i : VIn) (w r : Nat) : Red :=
  let op := vImm i.w % 16
  let rm := vRound i.w
  let ty := vType i.w
  let xs := i.rowElems (vVa i.w) w r
  match op with
  | 0 => redSum rm ty xs
  | 1 => redProd rm ty xs
  | 2 => redExtreme true false ty xs
  | 3 => redExtreme false false ty xs
  | 7 => redExtreme true true ty xs
  | 8 => redExtreme false true ty xs
  | 9 => redStats rm op (i.rowVals (vVa i.w) w r)
  | 10 => redStats rm op (i.rowVals (vVa i.w) w r)
  | _ => redPred op (((upFrom (r * w) w).filter i.active).map fun l => i.x.pbit (vPa i.w) l)

/-- The reduction reads a predicate, not VA. -/
def redOnPred (w : W64) : Bool := decide (4 ≤ vImm w % 16) && decide (vImm w % 16 ≤ 6)

/-- Legality of a reduction: its operation and TYPE; `row`: SMEN is illegal (R121). -/
def redSpec (row : Bool) (w : W64) : VSpec :=
  { vSpec tyAll with imm := 0xF, bad := !bitOf (redTypes (vImm w % 16)) (vType w) || (row && vSmen w) }

/-- Registers of a reduction. -/
def redRegs (w : W64) : List Nat := vVd w :: (if redOnPred w then [] else [vVa w])

/-- VRED: one result in lane 0, and a summary with SMEN (R118, R121). -/
def execVred (c t : Nat) (mm : Option Nat) (s : State) : Res :=
  .next (vecStep s c t 0x50 mm (fun s i => vSmen i.w && (s.core i.c).summaryWaits (vMs i.w) i.n) redRegs fun s i =>
    (s, if vBad (redSpec false i.w) i.w then .fault Code.badParam 0
        else if !redOnPred i.w && i.badLanes (vVa i.w) i.lanes then .fault Code.eccUncorr 0
        else
          let r := i.reduce 1024 0
          .done (i.x.setLanes (vVd i.w) [(0, r.lane)]) r.flags
            (if vSmen i.w then some ⟨vMs i.w, BitVec.ofNat 64 (r.index * 2 ^ 32 + r.val.toNat), r.nf, r.empty⟩
             else none)))

/-- VREDR: row r's result in lane r (R118). -/
def execVredr (c t : Nat) (mm : Option Nat) (s : State) : Res :=
  .next (vecPure s c t 0x51 mm redRegs (redSpec true) fun i =>
    if !redOnPred i.w && i.badLanes (vVa i.w) i.lanes then .fault Code.eccUncorr 0
    else
      let w := tileW (vTw i.w)
      let rs := (List.range (1024 / w)).map fun r => (r, i.reduce w r)
      .done (i.x.setLanes (vVd i.w) (rs.map fun p => (p.1, p.2.lane))) (flagsOr (rs.map (·.2.flags))) none)

end Sys2Proof.Machine
end

