-- ==== Sys2Proof/Machine/Dispatch.lean ====
section
/-! DEFINITION. The effect of one command on everything but the queue: one arm per row of spec/opcode_table.json. -/

namespace Sys2Proof.Machine

open Sys2Proof

/-- The command's effect. -/
def exec (i : Instr) (s : State) : Host.Outcome State Fault Refusal :=
  match i with
  | .csrWrite ag off width val => Sys2Proof.Machine.execCsrWrite ag off width val s
  | .ldst c a q => Sys2Proof.Machine.execLdst c a q s
  | .pass c a q fault => Sys2Proof.Machine.execPass c a q fault s
  | .drain c a q => Sys2Proof.Machine.execDrain c a q s
  | .zero c a q => Sys2Proof.Machine.execZero c a q s
  | .modeCmd c a q => Sys2Proof.Machine.execModeCmd c a q s
  | .aack c a q => Sys2Proof.Machine.execAack c a q s
  | .arrayCommandComplete c a q => Sys2Proof.Machine.execArrayCommandComplete c a q s
  | .colmaskApply c a => Sys2Proof.Machine.execColmaskApply c a s
  | .rampIntervalEnd c a h work => Sys2Proof.Machine.execRampIntervalEnd c a h work s
  | .vnop c t => Sys2Proof.Machine.execVnop c t s
  | .vsetvl c t => Sys2Proof.Machine.execVsetvl c t s
  | .vmov c t => Sys2Proof.Machine.execVmov c t s
  | .vbcast c t => Sys2Proof.Machine.execVbcast c t s
  | .viota c t => Sys2Proof.Machine.execViota c t s
  | .vsel c t => Sys2Proof.Machine.execVsel c t s
  | .vadd c t mm => Sys2Proof.Machine.execVadd c t mm s
  | .vsub c t mm => Sys2Proof.Machine.execVsub c t mm s
  | .vmul c t mm => Sys2Proof.Machine.execVmul c t mm s
  | .vfma c t mm => Sys2Proof.Machine.execVfma c t mm s
  | .vfms c t mm => Sys2Proof.Machine.execVfms c t mm s
  | .vnfma c t mm => Sys2Proof.Machine.execVnfma c t mm s
  | .vmax c t mm => Sys2Proof.Machine.execVmax c t mm s
  | .vmin c t mm => Sys2Proof.Machine.execVmin c t mm s
  | .vabs c t => Sys2Proof.Machine.execVabs c t s
  | .vneg c t => Sys2Proof.Machine.execVneg c t s
  | .vcmp c t => Sys2Proof.Machine.execVcmp c t s
  | .vscale c t mm => Sys2Proof.Machine.execVscale c t mm s
  | .vand c t => Sys2Proof.Machine.execVand c t s
  | .vor c t => Sys2Proof.Machine.execVor c t s
  | .vxor c t => Sys2Proof.Machine.execVxor c t s
  | .vshl c t => Sys2Proof.Machine.execVshl c t s
  | .vshr c t => Sys2Proof.Machine.execVshr c t s
  | .vsra c t => Sys2Proof.Machine.execVsra c t s
  | .vcvt c t mm => Sys2Proof.Machine.execVcvt c t mm s
  | .vcvtmx c t mm => Sys2Proof.Machine.execVcvtmx c t mm s
  | .pand c t => Sys2Proof.Machine.execPand c t s
  | .por c t => Sys2Proof.Machine.execPor c t s
  | .pxor c t => Sys2Proof.Machine.execPxor c t s
  | .pandn c t => Sys2Proof.Machine.execPandn c t s
  | .pfromv c t => Sys2Proof.Machine.execPfromv c t s
  | .vfromp c t => Sys2Proof.Machine.execVfromp c t s
  | .vperm c t => Sys2Proof.Machine.execVperm c t s
  | .vpermr c t => Sys2Proof.Machine.execVpermr c t s
  | .vld c t => Sys2Proof.Machine.execVld c t s
  | .vst c t => Sys2Proof.Machine.execVst c t s
  | .vgather c t => Sys2Proof.Machine.execVgather c t s
  | .vscatter c t => Sys2Proof.Machine.execVscatter c t s
  | .vred c t mm => Sys2Proof.Machine.execVred c t mm s
  | .vredr c t mm => Sys2Proof.Machine.execVredr c t mm s
  | .vrng c t => Sys2Proof.Machine.execVrng c t s
  | .vdrop c t => Sys2Proof.Machine.execVdrop c t s
  | .vdropp c t => Sys2Proof.Machine.execVdropp c t s
  | .vsf c t mm => Sys2Proof.Machine.execVsf c t mm s
  | .vsfr c t mm => Sys2Proof.Machine.execVsfr c t mm s
  | .vsfsel c t => Sys2Proof.Machine.execVsfsel c t s
  | .vsfld c t => Sys2Proof.Machine.execVsfld c t s
  | .sfuSlotWrite c e => Sys2Proof.Machine.execSfuSlotWrite c e s
  | .sfuTableScrub c e bank slot word => Sys2Proof.Machine.execSfuTableScrub c e bank slot word s
  | .vrstat c t mm => Sys2Proof.Machine.execVrstat c t mm s
  | .vrsacc c t mm => Sys2Proof.Machine.execVrsacc c t mm s
  | .vrsout c t mm => Sys2Proof.Machine.execVrsout c t mm s
  | .vrsclr c t => Sys2Proof.Machine.execVrsclr c t s
  | .vsmxacc c t mm => Sys2Proof.Machine.execVsmxacc c t mm s
  | .vsmxout c t mm => Sys2Proof.Machine.execVsmxout c t mm s
  | .vscan c t mm => Sys2Proof.Machine.execVscan c t mm s
  | .vlscan c t mm => Sys2Proof.Machine.execVlscan c t mm s
  | .seLoad c => Sys2Proof.Machine.execSeLoad c s
  | .seStore c => Sys2Proof.Machine.execSeStore c s
  | .sePost c => Sys2Proof.Machine.execSePost c s
  | .postComplete c => Sys2Proof.Machine.execPostComplete c s
  | .transferOpen c => Sys2Proof.Machine.execTransferOpen c s
  | .transferLanded c id => Sys2Proof.Machine.execTransferLanded c id s
  | .transferError c id moved => Sys2Proof.Machine.execTransferError c id moved s
  | .dbWrite c n val => Sys2Proof.Machine.execDbWrite c n val s
  | .computeSetRetired c => Sys2Proof.Machine.execComputeSetRetired c s
  | .ledgerRequestSend c => Sys2Proof.Machine.execLedgerRequestSend c s
  | .ledgerGrant who => Sys2Proof.Machine.execLedgerGrant who s
  | .beatStart c => Sys2Proof.Machine.execBeatStart c s
  | .watchdogExpiry c => Sys2Proof.Machine.execWatchdogExpiry c s
  | .copy c => Sys2Proof.Machine.execCopy c s
  | .copyComplete c => Sys2Proof.Machine.execCopyComplete c s
  | .coreLaunch c => Sys2Proof.Machine.execCoreLaunch c s
  | .add c t => Sys2Proof.Machine.execAdd c t s
  | .sub c t => Sys2Proof.Machine.execSub c t s
  | .mul c t => Sys2Proof.Machine.execMul c t s
  | .and c t => Sys2Proof.Machine.execAnd c t s
  | .or c t => Sys2Proof.Machine.execOr c t s
  | .xor c t => Sys2Proof.Machine.execXor c t s
  | .shl c t => Sys2Proof.Machine.execShl c t s
  | .shr c t => Sys2Proof.Machine.execShr c t s
  | .sra c t => Sys2Proof.Machine.execSra c t s
  | .slt c t => Sys2Proof.Machine.execSlt c t s
  | .sltu c t => Sys2Proof.Machine.execSltu c t s
  | .min c t => Sys2Proof.Machine.execMin c t s
  | .max c t => Sys2Proof.Machine.execMax c t s
  | .addi c t => Sys2Proof.Machine.execAddi c t s
  | .andi c t => Sys2Proof.Machine.execAndi c t s
  | .ori c t => Sys2Proof.Machine.execOri c t s
  | .xori c t => Sys2Proof.Machine.execXori c t s
  | .shli c t => Sys2Proof.Machine.execShli c t s
  | .shri c t => Sys2Proof.Machine.execShri c t s
  | .srai c t => Sys2Proof.Machine.execSrai c t s
  | .li c t => Sys2Proof.Machine.execLi c t s
  | .lih c t => Sys2Proof.Machine.execLih c t s
  | .fadd c t => Sys2Proof.Machine.execFadd c t s
  | .fsub c t => Sys2Proof.Machine.execFsub c t s
  | .fmul c t => Sys2Proof.Machine.execFmul c t s
  | .ffma c t => Sys2Proof.Machine.execFfma c t s
  | .fcvtif c t => Sys2Proof.Machine.execFcvtif c t s
  | .fcvtfi c t => Sys2Proof.Machine.execFcvtfi c t s
  | .ld c t => Sys2Proof.Machine.execLd c t s
  | .ldw c t => Sys2Proof.Machine.execLdw c t s
  | .st c t => Sys2Proof.Machine.execSt c t s
  | .stw c t => Sys2Proof.Machine.execStw c t s
  | .csrr c t => Sys2Proof.Machine.execCsrr c t s
  | .csrw c t => Sys2Proof.Machine.execCsrw c t s
  | .mrd c t => Sys2Proof.Machine.execMrd c t s
  | .msr c t => Sys2Proof.Machine.execMsr c t s
  | .dbf c t => Sys2Proof.Machine.execDbf c t s
  | .dbb c t => Sys2Proof.Machine.execDbb c t s
  | .beq c t => Sys2Proof.Machine.execBeq c t s
  | .bne c t => Sys2Proof.Machine.execBne c t s
  | .blt c t => Sys2Proof.Machine.execBlt c t s
  | .bge c t => Sys2Proof.Machine.execBge c t s
  | .bltu c t => Sys2Proof.Machine.execBltu c t s
  | .bgeu c t => Sys2Proof.Machine.execBgeu c t s
  | .bflt c t => Sys2Proof.Machine.execBflt c t s
  | .bfge c t => Sys2Proof.Machine.execBfge c t s
  | .jal c t => Sys2Proof.Machine.execJal c t s
  | .jr c t => Sys2Proof.Machine.execJr c t s
  | .vtgt c t => Sys2Proof.Machine.execVtgt c t s
  | .acmd c t => Sys2Proof.Machine.execAcmd c t s
  | .secmd c t => Sys2Proof.Machine.execSecmd c t s
  | .cpcmd c t => Sys2Proof.Machine.execCpcmd c t s
  | .swap c t => Sys2Proof.Machine.execSwap c t s
  | .fence c t => Sys2Proof.Machine.execFence c t s
  | .endCmd c t => Sys2Proof.Machine.execEndCmd c t s
  | .raise c t => Sys2Proof.Machine.execRaise c t s
  | .xack c t => Sys2Proof.Machine.execXack c t s
  | .xrd c t => Sys2Proof.Machine.execXrd c t s
  | .cnop c t => Sys2Proof.Machine.execCnop c t s
  | .streamDone c t => Sys2Proof.Machine.execStreamDone c t s
  | .streamException c t => Sys2Proof.Machine.execStreamException c t s
  | .ccLockstepMismatch c t => Sys2Proof.Machine.execCcLockstepMismatch c t s
  | .ugateWrite c => Sys2Proof.Machine.execUgateWrite c s
  | .gateDecide c => Sys2Proof.Machine.execGateDecide c s
  | .cecmdTrigger c => Sys2Proof.Machine.execCecmdTrigger c s
  | .cecmdXfer c => Sys2Proof.Machine.execCecmdXfer c s
  | .ingestBatch sq => Sys2Proof.Machine.execIngestBatch sq s
  | .batchStart k => Sys2Proof.Machine.execBatchStart k s
  | .segmentStart k d => Sys2Proof.Machine.execSegmentStart k d s
  | .segmentComplete d => Sys2Proof.Machine.execSegmentComplete d s
  | .batchComplete b => Sys2Proof.Machine.execBatchComplete b s
  | .ingestAbort sq => Sys2Proof.Machine.execIngestAbort sq s
  | .sttServe => Sys2Proof.Machine.execSttServe s
  | .stOpen sq => Sys2Proof.Machine.execStOpen sq s
  | .stStart sq => Sys2Proof.Machine.execStStart sq s
  | .stStop sq => Sys2Proof.Machine.execStStop sq s
  | .streamDrained stid => Sys2Proof.Machine.execStreamDrained stid s
  | .stSave sq => Sys2Proof.Machine.execStSave sq s
  | .stRestore sq => Sys2Proof.Machine.execStRestore sq s
  | .stResync sq => Sys2Proof.Machine.execStResync sq s
  | .stClose sq => Sys2Proof.Machine.execStClose sq s
  | .hbmSectorRead k off rd => Sys2Proof.Machine.execHbmSectorRead k off rd s
  | .hbmSectorWrite k off src bytes start => Sys2Proof.Machine.execHbmSectorWrite k off src bytes start s
  | .hbmShareWindow k => Sys2Proof.Machine.execHbmShareWindow k s
  | .hbmReserve sq => Sys2Proof.Machine.execHbmReserve sq s
  | .hbmRelease sq => Sys2Proof.Machine.execHbmRelease sq s
  | .hbmScrubRead k => Sys2Proof.Machine.execHbmScrubRead k s
  | .hbmRefresh k pc bank => Sys2Proof.Machine.execHbmRefresh k pc bank s
  | .hbmTempReadout k reading => Sys2Proof.Machine.execHbmTempReadout k reading s
  | .stackClosed k => Sys2Proof.Machine.execStackClosed k s
  | .hctlOpen k => Sys2Proof.Machine.execHctlOpen k s
  | .hctlClose k => Sys2Proof.Machine.execHctlClose k s
  | .hthermWrite k val => Sys2Proof.Machine.execHthermWrite k val s
  | .retrainStart k pc trig => Sys2Proof.Machine.execRetrainStart k pc trig s
  | .retrainAttemptEnd k ok => Sys2Proof.Machine.execRetrainAttemptEnd k ok s
  | .hrepairStart k val => Sys2Proof.Machine.execHrepairStart k val s
  | .repairCopyGranule k => Sys2Proof.Machine.execRepairCopyGranule k s
  | .lppAccess addr len link => Sys2Proof.Machine.execLppAccess addr len link s
  | .lppSelfRefreshEntry => Sys2Proof.Machine.execLppSelfRefreshEntry s
  | .dataFlit l f fec => Sys2Proof.Machine.execDataFlit l f fec s
  | .idleFlit l f fec => Sys2Proof.Machine.execIdleFlit l f fec s
  | .flitTransmit l => Sys2Proof.Machine.execFlitTransmit l s
  | .nak l f fec => Sys2Proof.Machine.execNak l f fec s
  | .nakHoldoffExpiry l => Sys2Proof.Machine.execNakHoldoffExpiry l s
  | .replayTimeout l => Sys2Proof.Machine.execReplayTimeout l s
  | .param l f fec => Sys2Proof.Machine.execParam l f fec s
  | .recover l f fec => Sys2Proof.Machine.execRecover l f fec s
  | .linkLockLoss l => Sys2Proof.Machine.execLinkLockLoss l s
  | .linkEnable l => Sys2Proof.Machine.execLinkEnable l s
  | .linkDisable l => Sys2Proof.Machine.execLinkDisable l s
  | .linkRetrain l => Sys2Proof.Machine.execLinkRetrain l s
  | .linkTrainingComplete l => Sys2Proof.Machine.execLinkTrainingComplete l s
  | .linkTrainingTimeout l => Sys2Proof.Machine.execLinkTrainingTimeout l s
  | .linkRecoveryComplete l => Sys2Proof.Machine.execLinkRecoveryComplete l s
  | .linkRecoveryTimeout l => Sys2Proof.Machine.execLinkRecoveryTimeout l s
  | .rtdataWrite val => Sys2Proof.Machine.execRtdataWrite val s
  | .bondWrite k val => Sys2Proof.Machine.execBondWrite k val s
  | .tsreqTimer => Sys2Proof.Machine.execTsreqTimer s
  | .tsreq l f fec => Sys2Proof.Machine.execTsreq l f fec s
  | .tsrsp l f fec => Sys2Proof.Machine.execTsrsp l f fec s
  | .put e => Sys2Proof.Machine.execPut e s
  | .putLandedAtTarget e id => Sys2Proof.Machine.execPutLandedAtTarget e id s
  | .getreq e => Sys2Proof.Machine.execGetreq e s
  | .getrsp e => Sys2Proof.Machine.execGetrsp e s
  | .ack e => Sys2Proof.Machine.execAck e s
  | .noroute e => Sys2Proof.Machine.execNoroute e s
  | .xferTimeout e tag => Sys2Proof.Machine.execXferTimeout e tag s
  | .instanceStart e h => Sys2Proof.Machine.execInstanceStart e h s
  | .collectiveStep e h step => Sys2Proof.Machine.execCollectiveStep e h step s
  | .chunk e => Sys2Proof.Machine.execChunk e s
  | .flag e => Sys2Proof.Machine.execFlag e s
  | .slown e => Sys2Proof.Machine.execSlown e s
  | .slownTimer e h => Sys2Proof.Machine.execSlownTimer e h s
  | .straggleTimeout e h l => Sys2Proof.Machine.execStraggleTimeout e h l s
  | .detach e => Sys2Proof.Machine.execDetach e s
  | .instanceTimeout e h => Sys2Proof.Machine.execInstanceTimeout e h s
  | .abortMsg e => Sys2Proof.Machine.execAbortMsg e s
  | .instanceComplete e h => Sys2Proof.Machine.execInstanceComplete e h s
  | .planLoad sq => Sys2Proof.Machine.execPlanLoad sq s
  | .planUnload sq => Sys2Proof.Machine.execPlanUnload sq s
  | .ceTrigger sq => Sys2Proof.Machine.execCeTrigger sq s
  | .ceXfer sq => Sys2Proof.Machine.execCeXfer sq s
  | .ceAbort sq => Sys2Proof.Machine.execCeAbort sq s
  | .evDecode sq => Sys2Proof.Machine.execEvDecode sq s
  | .evDecodeComplete => Sys2Proof.Machine.execEvDecodeComplete s
  | .evCheck sq => Sys2Proof.Machine.execEvCheck sq s
  | .nop sq => Sys2Proof.Machine.execNop sq s
  | .dma sq => Sys2Proof.Machine.execDma sq s
  | .dmaComplete pid hostFail => Sys2Proof.Machine.execDmaComplete pid hostFail s
  | .launch sq => Sys2Proof.Machine.execLaunch sq s
  | .tokenPost sq => Sys2Proof.Machine.execTokenPost sq s
  | .qwait sq => Sys2Proof.Machine.execQwait sq s
  | .qCreate sq => Sys2Proof.Machine.execQCreate sq s
  | .qDelete sq => Sys2Proof.Machine.execQDelete sq s
  | .qReset sq => Sys2Proof.Machine.execQReset sq s
  | .ctxSetroot sq => Sys2Proof.Machine.execCtxSetroot sq s
  | .xlateInval sq => Sys2Proof.Machine.execXlateInval sq s
  | .ctxTeardown sq => Sys2Proof.Machine.execCtxTeardown sq s
  | .progAbort sq => Sys2Proof.Machine.execProgAbort sq s
  | .sfLoad sq => Sys2Proof.Machine.execSfLoad sq s
  | .quotaSet sq => Sys2Proof.Machine.execQuotaSet sq s
  | .reclaim sq => Sys2Proof.Machine.execReclaim sq s
  | .ctxCores sq => Sys2Proof.Machine.execCtxCores sq s
  | .ctxJob sq => Sys2Proof.Machine.execCtxJob sq s
  | .ledgerSet sq => Sys2Proof.Machine.execLedgerSet sq s
  | .dieParkComplete d => Sys2Proof.Machine.execDieParkComplete d s
  | .dieUnparkComplete d => Sys2Proof.Machine.execDieUnparkComplete d s
  | .tlyGrant sq => Sys2Proof.Machine.execTlyGrant sq s
  | .stewardRenew sq => Sys2Proof.Machine.execStewardRenew sq s
  | .stewardClaim sq => Sys2Proof.Machine.execStewardClaim sq s
  | .stewardHandoff sq => Sys2Proof.Machine.execStewardHandoff sq s
  | .stewardLeaseExpiry => Sys2Proof.Machine.execStewardLeaseExpiry s
  | .attest sq => Sys2Proof.Machine.execAttest sq s
  | .keyPush sq => Sys2Proof.Machine.execKeyPush sq s
  | .debugUnlock sq => Sys2Proof.Machine.execDebugUnlock sq s
  | .sqTailDoorbell ctx q val => Sys2Proof.Machine.execSqTailDoorbell ctx q val s
  | .cqHeadDoorbell ctx q val => Sys2Proof.Machine.execCqHeadDoorbell ctx q val s
  | .statusReplyWrite cq => Sys2Proof.Machine.execStatusReplyWrite cq s
  | .adminQueueEnable ctx val => Sys2Proof.Machine.execAdminQueueEnable ctx val s
  | .adminQueueDisable ctx val => Sys2Proof.Machine.execAdminQueueDisable ctx val s
  | .bar2Read ctx addr len => Sys2Proof.Machine.execBar2Read ctx addr len s
  | .bar2Write ctx addr bytes => Sys2Proof.Machine.execBar2Write ctx addr bytes s
  | .atsInvalidation ctx page count => Sys2Proof.Machine.execAtsInvalidation ctx page count s
  | .pageRequestResponse ctx page resp => Sys2Proof.Machine.execPageRequestResponse ctx page resp s
  | .pageRequestTimeout ctx page => Sys2Proof.Machine.execPageRequestTimeout ctx page s
  | .portLinkDown port => Sys2Proof.Machine.execPortLinkDown port s
  | .hotReset port => Sys2Proof.Machine.execHotReset port s
  | .flrPf port => Sys2Proof.Machine.execFlrPf port s
  | .flrVf ctx => Sys2Proof.Machine.execFlrVf ctx s
  | .vfEnableClear port => Sys2Proof.Machine.execVfEnableClear port s
  | .veRateWindowEnd c e issued => Sys2Proof.Machine.execVeRateWindowEnd c e issued s
  | .pllLockLoss dom => Sys2Proof.Machine.execPllLockLoss dom s
  | .supplyMonitorTrip rail millivolts sec => Sys2Proof.Machine.execSupplyMonitorTrip rail millivolts sec s
  | .dieTempSample k readings => Sys2Proof.Machine.execDieTempSample k readings s
  | .dthermWrite val => Sys2Proof.Machine.execDthermWrite val s
  | .powerRailsFall => Sys2Proof.Machine.execPowerRailsFall s
  | .coldReset straps => Sys2Proof.Machine.execColdReset straps s
  | .warmReset => Sys2Proof.Machine.execWarmReset s
  | .romInit env => Sys2Proof.Machine.execRomInit env s
  | .romInitComplete => Sys2Proof.Machine.execRomInitComplete s
  | .romInitTimeout => Sys2Proof.Machine.execRomInitTimeout s
  | .mbPush port => Sys2Proof.Machine.execMbPush port s
  | .mbReload port => Sys2Proof.Machine.execMbReload port s
  | .mbAbort port => Sys2Proof.Machine.execMbAbort port s
  | .imageLoadComplete env => Sys2Proof.Machine.execImageLoadComplete env s
  | .imageVerifyComplete lppError => Sys2Proof.Machine.execImageVerifyComplete lppError s
  | .firmwareReady => Sys2Proof.Machine.execFirmwareReady s
  | .fwInitTimeout => Sys2Proof.Machine.execFwInitTimeout s
  | .fwInitFailure code => Sys2Proof.Machine.execFwInitFailure code s
  | .tamperTrip sensor => Sys2Proof.Machine.execTamperTrip sensor s
  | .selfTestDue c a h => Sys2Proof.Machine.execSelfTestDue c a h s
  | .selfTestSuspend c a h => Sys2Proof.Machine.execSelfTestSuspend c a h s
  | .selfTestResult c a h res => Sys2Proof.Machine.execSelfTestResult c a h res s
  | .coreTestComplete c pass => Sys2Proof.Machine.execCoreTestComplete c pass s
  | .casoriLockstepMismatch pair => Sys2Proof.Machine.execCasoriLockstepMismatch pair s
  | .casoriWatchdogExpiry pair => Sys2Proof.Machine.execCasoriWatchdogExpiry pair s
  | .tlyselWrite ag k val => Sys2Proof.Machine.execTlyselWrite ag k val s
  | .tlySnap ag => Sys2Proof.Machine.execTlySnap ag s
  | .bwcfgWrite ag m val => Sys2Proof.Machine.execBwcfgWrite ag m val s
  | .bwWindowEnd m => Sys2Proof.Machine.execBwWindowEnd m s
  | .tlyDumpLatch => Sys2Proof.Machine.execTlyDumpLatch s
  | .dumpRecordLanded => Sys2Proof.Machine.execDumpRecordLanded s
  | .cvGo ag k val => Sys2Proof.Machine.execCvGo ag k val s
  | .cvAbort ag k val => Sys2Proof.Machine.execCvAbort ag k val s
  | .cvInit ag k val => Sys2Proof.Machine.execCvInit ag k val s
  | .cvFeed ag k off width val => Sys2Proof.Machine.execCvFeed ag k off width val s
  | .cvComplete k hostFail => Sys2Proof.Machine.execCvComplete k hostFail s
  | .smbPhase => Sys2Proof.Machine.execSmbPhase s
  | .smbSafe => Sys2Proof.Machine.execSmbSafe s
  | .smbPart => Sys2Proof.Machine.execSmbPart s
  | .smbStepping => Sys2Proof.Machine.execSmbStepping s
  | .smbDieTemp k => Sys2Proof.Machine.execSmbDieTemp k s
  | .smbStackTemp k => Sys2Proof.Machine.execSmbStackTemp k s
  | .smbLedgerUsed => Sys2Proof.Machine.execSmbLedgerUsed s
  | .smbLedgerLimit => Sys2Proof.Machine.execSmbLedgerLimit s
  | .smbWrite cmd data => Sys2Proof.Machine.execSmbWrite cmd data s
  | .bypass => Sys2Proof.Machine.execBypass s
  | .idcode => Sys2Proof.Machine.execIdcode s
  | .samplePreload pins preload => Sys2Proof.Machine.execSamplePreload pins preload s
  | .extest => Sys2Proof.Machine.execExtest s
  | .dbgacc acc => Sys2Proof.Machine.execDbgacc acc s
  | .pcieLinkUp up => Sys2Proof.Machine.execPcieLinkUp up s
  | .vfEnableSet port vfs => Sys2Proof.Machine.execVfEnableSet port vfs s
  | .laneDidNotTrain l => Sys2Proof.Machine.execLaneDidNotTrain l s
  | .idleFlitSend l => Sys2Proof.Machine.execIdleFlitSend l s
  | .unlistedCcOpcode c t => Sys2Proof.Machine.execUnlistedCcOpcode c t s
  | .unlistedVectorOpcode c t => Sys2Proof.Machine.execUnlistedVectorOpcode c t s
  | .unlistedArrayOpcode c a q => Sys2Proof.Machine.execUnlistedArrayOpcode c a q s
  | .unlistedSeOpcode c => Sys2Proof.Machine.execUnlistedSeOpcode c s
  | .unlistedPacketOpcode sq => Sys2Proof.Machine.execUnlistedPacketOpcode sq s
  | .cecmdReservedKind c => Sys2Proof.Machine.execCecmdReservedKind c s
  | .reservedKindMessage e => Sys2Proof.Machine.execReservedKindMessage e s
  | .ctrlFlitOtherKind l f fec => Sys2Proof.Machine.execCtrlFlitOtherKind l f fec s
  | .mbcmdDiscarded port op => Sys2Proof.Machine.execMbcmdDiscarded port op s

end Sys2Proof.Machine
end

