-- ==== Sys2Proof/WellFormed.lean ====
section
/-! DEFINITION. Well-formed commands: every operand lies in the range the spec gives the unit or field it names. -/

namespace Sys2Proof

/-- Requesters by number (R447, R450, R475). -/
def Agent.wf : Agent → Bool
  | .firmware p => decide (p < 2)
  | .bar4 p => decide (p < 2)
  | .ctxPage n => decide (n < 32)
  | .debugPort => true

/-- Requesters of the ledger (R483). -/
def Requester.wf : Requester → Bool
  | .core c => decide (c < 96)
  | .ingest k => decide (k < 2)
  | .link l => decide (l < 64)

/-- Sources of an HBM request. -/
def HbmSource.wf : HbmSource → Bool
  | .ctx n => decide (n < 32)
  | .firmware => true
  | .repairCopier => true

/-- Domains that exist (R477). -/
def ClockDomain.wf : ClockDomain → Bool
  | .arith d => decide (d < 4)
  | .hbm k => decide (k < 8)
  | .phy k => decide (k < 8)
  | .link m => decide (m < 32)
  | .pcie n => decide (n < 2)
  | .ingest k => decide (k < 2)
  | _ => true

/-- Strap fields fit their pins (R560). -/
def Straps.wf (x : Straps) : Bool := decide (x.lpden < 8) && decide (x.smbaddr < 4)

/-- A flit's fields fit their bits, and it has 240 payload bytes (R356). -/
def Flit.wf (f : Flit) : Bool :=
  decide (f.ftype < 16) && decide (f.vl < 8) && decide (f.hops < 128) && decide (f.seq < 4096) && decide (f.ack < 4096) &&
  decide (f.crvl < 8) && decide (f.crcnt < 4096) && decide (f.plen < 256) && decide (f.dst < 65536) && decide (f.src < 65536) &&
  decide (f.payload.length = 240)

/-- BAR2 is from 1 GiB to 128 GiB large (R445). -/
def FnCfg.wf (c : FnCfg) : Bool := decide (30 ≤ c.bar2) && decide (c.bar2 ≤ 37)

/-- Debug accesses name a place the port can name. -/
def DebugAccess.wf : DebugAccess → Bool
  | .readCsr off => decide (off < 0x100000000)
  | .readMem addr len => decide (addr + len ≤ 2 ^ 48)
  | .writeMem addr bytes => decide (addr + bytes.length ≤ 2 ^ 48)
  | .haltCore c => decide (c < 96)
  | .haltCasori p => decide (p < 2)

/-- A well-formed command. -/
def Instr.wf : Instr → Bool
  | .csrWrite ag off width _ => ag.wf && decide (off < 0x100000000) && (width == 1 || width == 2 || width == 4 || width == 8)
  | .ldst c a q => decide (c < 96) && decide (a < 2) && decide (q < 2)
  | .pass c a q _ => decide (c < 96) && decide (a < 2) && decide (q < 2)
  | .drain c a q => decide (c < 96) && decide (a < 2) && decide (q < 2)
  | .zero c a q => decide (c < 96) && decide (a < 2) && decide (q < 2)
  | .modeCmd c a q => decide (c < 96) && decide (a < 2) && decide (q < 2)
  | .aack c a q => decide (c < 96) && decide (a < 2) && decide (q < 2)
  | .arrayCommandComplete c a q => decide (c < 96) && decide (a < 2) && decide (q < 2)
  | .colmaskApply c a => decide (c < 96) && decide (a < 2)
  | .rampIntervalEnd c a h _ => decide (c < 96) && decide (a < 2) && decide (h < 2)
  | .vnop c t => decide (c < 96) && decide (t < 3)
  | .vsetvl c t => decide (c < 96) && decide (t < 3)
  | .vmov c t => decide (c < 96) && decide (t < 3)
  | .vbcast c t => decide (c < 96) && decide (t < 3)
  | .viota c t => decide (c < 96) && decide (t < 3)
  | .vsel c t => decide (c < 96) && decide (t < 3)
  | .vadd c t _ => decide (c < 96) && decide (t < 3)
  | .vsub c t _ => decide (c < 96) && decide (t < 3)
  | .vmul c t _ => decide (c < 96) && decide (t < 3)
  | .vfma c t _ => decide (c < 96) && decide (t < 3)
  | .vfms c t _ => decide (c < 96) && decide (t < 3)
  | .vnfma c t _ => decide (c < 96) && decide (t < 3)
  | .vmax c t _ => decide (c < 96) && decide (t < 3)
  | .vmin c t _ => decide (c < 96) && decide (t < 3)
  | .vabs c t => decide (c < 96) && decide (t < 3)
  | .vneg c t => decide (c < 96) && decide (t < 3)
  | .vcmp c t => decide (c < 96) && decide (t < 3)
  | .vscale c t _ => decide (c < 96) && decide (t < 3)
  | .vand c t => decide (c < 96) && decide (t < 3)
  | .vor c t => decide (c < 96) && decide (t < 3)
  | .vxor c t => decide (c < 96) && decide (t < 3)
  | .vshl c t => decide (c < 96) && decide (t < 3)
  | .vshr c t => decide (c < 96) && decide (t < 3)
  | .vsra c t => decide (c < 96) && decide (t < 3)
  | .vcvt c t _ => decide (c < 96) && decide (t < 3)
  | .vcvtmx c t _ => decide (c < 96) && decide (t < 3)
  | .pand c t => decide (c < 96) && decide (t < 3)
  | .por c t => decide (c < 96) && decide (t < 3)
  | .pxor c t => decide (c < 96) && decide (t < 3)
  | .pandn c t => decide (c < 96) && decide (t < 3)
  | .pfromv c t => decide (c < 96) && decide (t < 3)
  | .vfromp c t => decide (c < 96) && decide (t < 3)
  | .vperm c t => decide (c < 96) && decide (t < 3)
  | .vpermr c t => decide (c < 96) && decide (t < 3)
  | .vld c t => decide (c < 96) && decide (t < 3)
  | .vst c t => decide (c < 96) && decide (t < 3)
  | .vgather c t => decide (c < 96) && decide (t < 3)
  | .vscatter c t => decide (c < 96) && decide (t < 3)
  | .vred c t _ => decide (c < 96) && decide (t < 3)
  | .vredr c t _ => decide (c < 96) && decide (t < 3)
  | .vrng c t => decide (c < 96) && decide (t < 3)
  | .vdrop c t => decide (c < 96) && decide (t < 3)
  | .vdropp c t => decide (c < 96) && decide (t < 3)
  | .vsf c t _ => decide (c < 96) && decide (t < 3)
  | .vsfr c t _ => decide (c < 96) && decide (t < 3)
  | .vsfsel c t => decide (c < 96) && decide (t < 3)
  | .vsfld c t => decide (c < 96) && decide (t < 3)
  | .sfuSlotWrite c e => decide (c < 96) && decide (e < 2)
  | .sfuTableScrub c e bank slot word => decide (c < 96) && decide (e < 2) && decide (bank < 2) && decide (slot < 32) && decide (word < 128)
  | .vrstat c t _ => decide (c < 96) && decide (t < 3)
  | .vrsacc c t _ => decide (c < 96) && decide (t < 3)
  | .vrsout c t _ => decide (c < 96) && decide (t < 3)
  | .vrsclr c t => decide (c < 96) && decide (t < 3)
  | .vsmxacc c t _ => decide (c < 96) && decide (t < 3)
  | .vsmxout c t _ => decide (c < 96) && decide (t < 3)
  | .vscan c t _ => decide (c < 96) && decide (t < 3)
  | .vlscan c t _ => decide (c < 96) && decide (t < 3)
  | .seLoad c => decide (c < 96)
  | .seStore c => decide (c < 96)
  | .sePost c => decide (c < 96)
  | .postComplete c => decide (c < 96)
  | .transferOpen c => decide (c < 96)
  | .transferLanded c _ => decide (c < 96)
  | .transferError c _ _ => decide (c < 96)
  | .dbWrite c n _ => decide (c < 96) && decide (n < 16)
  | .computeSetRetired c => decide (c < 96)
  | .ledgerRequestSend c => decide (c < 96)
  | .ledgerGrant who => who.wf
  | .beatStart c => decide (c < 96)
  | .watchdogExpiry c => decide (c < 96)
  | .copy c => decide (c < 96)
  | .copyComplete c => decide (c < 96)
  | .coreLaunch c => decide (c < 96)
  | .add c t => decide (c < 96) && decide (t < 3)
  | .sub c t => decide (c < 96) && decide (t < 3)
  | .mul c t => decide (c < 96) && decide (t < 3)
  | .and c t => decide (c < 96) && decide (t < 3)
  | .or c t => decide (c < 96) && decide (t < 3)
  | .xor c t => decide (c < 96) && decide (t < 3)
  | .shl c t => decide (c < 96) && decide (t < 3)
  | .shr c t => decide (c < 96) && decide (t < 3)
  | .sra c t => decide (c < 96) && decide (t < 3)
  | .slt c t => decide (c < 96) && decide (t < 3)
  | .sltu c t => decide (c < 96) && decide (t < 3)
  | .min c t => decide (c < 96) && decide (t < 3)
  | .max c t => decide (c < 96) && decide (t < 3)
  | .addi c t => decide (c < 96) && decide (t < 3)
  | .andi c t => decide (c < 96) && decide (t < 3)
  | .ori c t => decide (c < 96) && decide (t < 3)
  | .xori c t => decide (c < 96) && decide (t < 3)
  | .shli c t => decide (c < 96) && decide (t < 3)
  | .shri c t => decide (c < 96) && decide (t < 3)
  | .srai c t => decide (c < 96) && decide (t < 3)
  | .li c t => decide (c < 96) && decide (t < 3)
  | .lih c t => decide (c < 96) && decide (t < 3)
  | .fadd c t => decide (c < 96) && decide (t < 3)
  | .fsub c t => decide (c < 96) && decide (t < 3)
  | .fmul c t => decide (c < 96) && decide (t < 3)
  | .ffma c t => decide (c < 96) && decide (t < 3)
  | .fcvtif c t => decide (c < 96) && decide (t < 3)
  | .fcvtfi c t => decide (c < 96) && decide (t < 3)
  | .ld c t => decide (c < 96) && decide (t < 3)
  | .ldw c t => decide (c < 96) && decide (t < 3)
  | .st c t => decide (c < 96) && decide (t < 3)
  | .stw c t => decide (c < 96) && decide (t < 3)
  | .csrr c t => decide (c < 96) && decide (t < 3)
  | .csrw c t => decide (c < 96) && decide (t < 3)
  | .mrd c t => decide (c < 96) && decide (t < 3)
  | .msr c t => decide (c < 96) && decide (t < 3)
  | .dbf c t => decide (c < 96) && decide (t < 3)
  | .dbb c t => decide (c < 96) && decide (t < 3)
  | .beq c t => decide (c < 96) && decide (t < 3)
  | .bne c t => decide (c < 96) && decide (t < 3)
  | .blt c t => decide (c < 96) && decide (t < 3)
  | .bge c t => decide (c < 96) && decide (t < 3)
  | .bltu c t => decide (c < 96) && decide (t < 3)
  | .bgeu c t => decide (c < 96) && decide (t < 3)
  | .bflt c t => decide (c < 96) && decide (t < 3)
  | .bfge c t => decide (c < 96) && decide (t < 3)
  | .jal c t => decide (c < 96) && decide (t < 3)
  | .jr c t => decide (c < 96) && decide (t < 3)
  | .vtgt c t => decide (c < 96) && decide (t < 3)
  | .acmd c t => decide (c < 96) && decide (t < 3)
  | .secmd c t => decide (c < 96) && decide (t < 3)
  | .cpcmd c t => decide (c < 96) && decide (t < 3)
  | .swap c t => decide (c < 96) && decide (t < 3)
  | .fence c t => decide (c < 96) && decide (t < 3)
  | .endCmd c t => decide (c < 96) && decide (t < 3)
  | .raise c t => decide (c < 96) && decide (t < 3)
  | .xack c t => decide (c < 96) && decide (t < 3)
  | .xrd c t => decide (c < 96) && decide (t < 3)
  | .cnop c t => decide (c < 96) && decide (t < 3)
  | .streamDone c t => decide (c < 96) && decide (t < 3)
  | .streamException c t => decide (c < 96) && decide (t < 3)
  | .ccLockstepMismatch c t => decide (c < 96) && decide (t < 3)
  | .ugateWrite c => decide (c < 96)
  | .gateDecide c => decide (c < 96)
  | .cecmdTrigger c => decide (c < 96)
  | .cecmdXfer c => decide (c < 96)
  | .ingestBatch sq => decide (sq < 4096)
  | .batchStart k => decide (k < 2)
  | .segmentStart k d => decide (k < 2) && decide (d < 64)
  | .segmentComplete d => decide (d < 64)
  | .batchComplete _ => true
  | .ingestAbort sq => decide (sq < 4096)
  | .sttServe => true
  | .stOpen sq => decide (sq < 4096)
  | .stStart sq => decide (sq < 4096)
  | .stStop sq => decide (sq < 4096)
  | .streamDrained stid => decide (stid < 262144)
  | .stSave sq => decide (sq < 4096)
  | .stRestore sq => decide (sq < 4096)
  | .stResync sq => decide (sq < 4096)
  | .stClose sq => decide (sq < 4096)
  | .hbmSectorRead s off rd => decide (s < 8) && decide (off % 32 = 0) && decide (off < 0x1400000000) && rd.src.wf
  | .hbmSectorWrite s off src bytes start => decide (s < 8) && decide (off % 32 = 0) && decide (off < 0x1400000000) && src.wf && decide (0 < bytes.length) && decide (start + bytes.length ≤ 32)
  | .hbmShareWindow s => decide (s < 8)
  | .hbmReserve sq => decide (sq < 4096)
  | .hbmRelease sq => decide (sq < 4096)
  | .hbmScrubRead s => decide (s < 8)
  | .hbmRefresh s pc _ => decide (s < 8) && decide (pc < 64)
  | .hbmTempReadout s _ => decide (s < 8)
  | .stackClosed s => decide (s < 8)
  | .hctlOpen s => decide (s < 8)
  | .hctlClose s => decide (s < 8)
  | .hthermWrite s _ => decide (s < 8)
  | .retrainStart s pc _ => decide (s < 8) && decide (pc < 64)
  | .retrainAttemptEnd s _ => decide (s < 8)
  | .hrepairStart s _ => decide (s < 8)
  | .repairCopyGranule s => decide (s < 8)
  | .lppAccess _ _ _ => true
  | .lppSelfRefreshEntry => true
  | .dataFlit l f _ => decide (l < 64) && f.wf
  | .idleFlit l f _ => decide (l < 64) && f.wf
  | .flitTransmit l => decide (l < 64)
  | .nak l f _ => decide (l < 64) && f.wf
  | .nakHoldoffExpiry l => decide (l < 64)
  | .replayTimeout l => decide (l < 64)
  | .param l f _ => decide (l < 64) && f.wf
  | .recover l f _ => decide (l < 64) && f.wf
  | .linkLockLoss l => decide (l < 64)
  | .linkEnable l => decide (l < 64)
  | .linkDisable l => decide (l < 64)
  | .linkRetrain l => decide (l < 64)
  | .linkTrainingComplete l => decide (l < 64)
  | .linkTrainingTimeout l => decide (l < 64)
  | .linkRecoveryComplete l => decide (l < 64)
  | .linkRecoveryTimeout l => decide (l < 64)
  | .rtdataWrite _ => true
  | .bondWrite k _ => decide (k < 32)
  | .tsreqTimer => true
  | .tsreq l f _ => decide (l < 64) && f.wf
  | .tsrsp l f _ => decide (l < 64) && f.wf
  | .put e => decide (e < 2)
  | .putLandedAtTarget e _ => decide (e < 2)
  | .getreq e => decide (e < 2)
  | .getrsp e => decide (e < 2)
  | .ack e => decide (e < 2)
  | .noroute e => decide (e < 2)
  | .xferTimeout e tag => decide (e < 2) && decide (tag < 65536)
  | .instanceStart e h => decide (e < 2) && decide (h < 256)
  | .collectiveStep e h _ => decide (e < 2) && decide (h < 256)
  | .chunk e => decide (e < 2)
  | .flag e => decide (e < 2)
  | .slown e => decide (e < 2)
  | .slownTimer e h => decide (e < 2) && decide (h < 256)
  | .straggleTimeout e h l => decide (e < 2) && decide (h < 256) && decide (l < 64)
  | .detach e => decide (e < 2)
  | .instanceTimeout e h => decide (e < 2) && decide (h < 256)
  | .abortMsg e => decide (e < 2)
  | .instanceComplete e h => decide (e < 2) && decide (h < 256)
  | .planLoad sq => decide (sq < 4096)
  | .planUnload sq => decide (sq < 4096)
  | .ceTrigger sq => decide (sq < 4096)
  | .ceXfer sq => decide (sq < 4096)
  | .ceAbort sq => decide (sq < 4096)
  | .evDecode sq => decide (sq < 4096)
  | .evDecodeComplete => true
  | .evCheck sq => decide (sq < 4096)
  | .nop sq => decide (sq < 4096)
  | .dma sq => decide (sq < 4096)
  | .dmaComplete _ _ => true
  | .launch sq => decide (sq < 4096)
  | .tokenPost sq => decide (sq < 4096)
  | .qwait sq => decide (sq < 4096)
  | .qCreate sq => decide (sq < 4096)
  | .qDelete sq => decide (sq < 4096)
  | .qReset sq => decide (sq < 4096)
  | .ctxSetroot sq => decide (sq < 4096)
  | .xlateInval sq => decide (sq < 4096)
  | .ctxTeardown sq => decide (sq < 4096)
  | .progAbort sq => decide (sq < 4096)
  | .sfLoad sq => decide (sq < 4096)
  | .quotaSet sq => decide (sq < 4096)
  | .reclaim sq => decide (sq < 4096)
  | .ctxCores sq => decide (sq < 4096)
  | .ctxJob sq => decide (sq < 4096)
  | .ledgerSet sq => decide (sq < 4096)
  | .dieParkComplete d => decide (d < 4)
  | .dieUnparkComplete d => decide (d < 4)
  | .tlyGrant sq => decide (sq < 4096)
  | .stewardRenew sq => decide (sq < 4096)
  | .stewardClaim sq => decide (sq < 4096)
  | .stewardHandoff sq => decide (sq < 4096)
  | .stewardLeaseExpiry => true
  | .attest sq => decide (sq < 4096)
  | .keyPush sq => decide (sq < 4096)
  | .debugUnlock sq => decide (sq < 4096)
  | .sqTailDoorbell ctx q _ => decide (ctx < 32) && decide (q < 4096)
  | .cqHeadDoorbell ctx q _ => decide (ctx < 32) && decide (q < 4096)
  | .statusReplyWrite cq => decide (cq < 4096)
  | .adminQueueEnable ctx _ => decide (ctx < 32)
  | .adminQueueDisable ctx _ => decide (ctx < 32)
  | .bar2Read ctx addr _ => decide (ctx < 32) && decide (addr < 2 ^ 48)
  | .bar2Write ctx addr _ => decide (ctx < 32) && decide (addr < 2 ^ 48)
  | .atsInvalidation ctx _ _ => decide (ctx < 32)
  | .pageRequestResponse ctx _ _ => decide (ctx < 32)
  | .pageRequestTimeout ctx _ => decide (ctx < 32)
  | .portLinkDown port => decide (port < 2)
  | .hotReset port => decide (port < 2)
  | .flrPf port => decide (port < 2)
  | .flrVf ctx => decide (ctx < 32)
  | .vfEnableClear port => decide (port < 2)
  | .veRateWindowEnd c e issued => decide (c < 96) && decide (e < 2) && decide (issued ≤ 64)
  | .pllLockLoss dom => dom.wf
  | .supplyMonitorTrip _ _ _ => true
  | .dieTempSample k readings => decide (k < 6) && decide (readings.length = if k < 4 then 8 else 4)
  | .dthermWrite _ => true
  | .powerRailsFall => true
  | .coldReset straps => straps.wf
  | .warmReset => true
  | .romInit env => env.link0.all FnCfg.wf && env.link1.all FnCfg.wf
  | .romInitComplete => true
  | .romInitTimeout => true
  | .mbPush port => decide (port < 2)
  | .mbReload port => decide (port < 2)
  | .mbAbort port => decide (port < 2)
  | .imageLoadComplete _ => true
  | .imageVerifyComplete _ => true
  | .firmwareReady => true
  | .fwInitTimeout => true
  | .fwInitFailure _ => true
  | .tamperTrip _ => true
  | .selfTestDue c a h => decide (c < 96) && decide (a < 2) && decide (h < 2)
  | .selfTestSuspend c a h => decide (c < 96) && decide (a < 2) && decide (h < 2)
  | .selfTestResult c a h _ => decide (c < 96) && decide (a < 2) && decide (h < 2)
  | .coreTestComplete c _ => decide (c < 96)
  | .casoriLockstepMismatch pair => decide (pair < 2)
  | .casoriWatchdogExpiry pair => decide (pair < 2)
  | .tlyselWrite ag k _ => ag.wf && decide (k < 64)
  | .tlySnap ag => ag.wf
  | .bwcfgWrite ag m _ => ag.wf && decide (m < 16)
  | .bwWindowEnd m => decide (m < 16)
  | .tlyDumpLatch => true
  | .dumpRecordLanded => true
  | .cvGo ag k _ => ag.wf && decide (k < 4)
  | .cvAbort ag k _ => ag.wf && decide (k < 4)
  | .cvInit ag k _ => ag.wf && decide (k < 4)
  | .cvFeed ag k off width _ => ag.wf && decide (k < 4) && decide (0x30 ≤ off) && decide (off < 0x38) && (width == 1 || width == 2 || width == 4 || width == 8)
  | .cvComplete k _ => decide (k < 4)
  | .smbPhase => true
  | .smbSafe => true
  | .smbPart => true
  | .smbStepping => true
  | .smbDieTemp k => decide (k < 6)
  | .smbStackTemp k => decide (k < 8)
  | .smbLedgerUsed => true
  | .smbLedgerLimit => true
  | .smbWrite _ _ => true
  | .bypass => true
  | .idcode => true
  | .samplePreload _ _ => true
  | .extest => true
  | .dbgacc acc => acc.wf
  | .pcieLinkUp up => decide (up.port < 2) && up.cfg.wf
  | .vfEnableSet port vfs => decide (port < 2) && vfs.cfg.wf && decide (1 ≤ vfs.num) && decide (vfs.num ≤ 15)
  | .laneDidNotTrain l => decide (l < 64)
  | .idleFlitSend l => decide (l < 64)
  | .unlistedCcOpcode c t => decide (c < 96) && decide (t < 3)
  | .unlistedVectorOpcode c t => decide (c < 96) && decide (t < 3)
  | .unlistedArrayOpcode c a q => decide (c < 96) && decide (a < 2) && decide (q < 2)
  | .unlistedSeOpcode c => decide (c < 96)
  | .unlistedPacketOpcode sq => decide (sq < 4096)
  | .cecmdReservedKind c => decide (c < 96)
  | .reservedKindMessage e => decide (e < 2)
  | .ctrlFlitOtherKind l f _ => decide (l < 64) && f.wf
  | .mbcmdDiscarded port op => decide (port < 2) && decide (op < 16)

end Sys2Proof
end

