-- ==== Sys2Proof/Safety.lean ====
section
/-! DEFINITION. What counts as a safe run of the block, and the frames the statements speak of: what a step leaves
unchanged. -/

namespace Sys2Proof.Machine

/-! ### Safe runs -/

/-- Every memory the state holds, that of the part and those of the two hosts, is in its one canonical form (log 5). -/
def State.memoriesOk (s : State) : Prop :=
  wfTable 0 s.mem = true ∧ wfTable 0 s.hmem0 = true ∧ wfTable 0 s.hmem1 = true

/-- The part serves its commands: the package is ON and the part is outside its safe state (R480, R530). -/
def State.serving (s : State) : Prop := s.pkg = .on ∧ s.agg.safe = false

/-- The answer is a next state. -/
def answers (r : Res) : Prop := ∃ t, r = .next t

/-- A run of k steps is safe: no step of it stops, and the part still serves its commands at the end. -/
def safeRun (k : Nat) (s : State) : Prop := ∃ t, core.run k s = .next t ∧ t.serving

/-- A command answers a next state that stands in relation P to the state before. -/
def completes (i : Instr) (s : State) (P : State → State → Prop) : Prop := ∃ s', exec i s = .next s' ∧ P s s'

/-- A command answers the next state t. -/
def becomes (i : Instr) (s t : State) : Prop := completes i s fun _ s' => s' = t

/-! ### Frames -/

/-- Every byte of the part's memory reads as before. -/
def sameMemory (s s' : State) : Prop := ∀ a, s'.byte a = s.byte a

/-- Every byte of the part's memory outside [lo, lo + n) reads as before. -/
def sameMemoryBut (lo n : Nat) (s s' : State) : Prop := ∀ a, a < lo ∨ lo + n ≤ a → s'.byte a = s.byte a

/-- Nothing but the cores changed. -/
def onlyCores (s s' : State) : Prop := { s' with cores := s.cores } = s ∧ sameMemory s s'

/-- Nothing but core c changed. -/
def onlyCore (c : Nat) (s s' : State) : Prop := onlyCores s s' ∧ ∀ d, d ≠ c → s'.core d = s.core d

/-- Nothing but stream t of core c changed. -/
def onlyStream (c t : Nat) (s s' : State) : Prop :=
  onlyCore c s s' ∧ s'.core c = (s.core c).setStream t ((s'.core c).stream t)

/-- Stream t of core c moved to its next instruction with scalar register rd written with v and nothing else changed; a
write to s0 is discarded (R219). -/
def wroteRd (c t rd : Nat) (v : W64) (s s' : State) : Prop :=
  let x := (s.core c).stream t
  let x' := (s'.core c).stream t
  onlyStream c t s s' ∧ (∀ r, x'.reg r = if r = rd ∧ r ≠ 0 then v else x.reg r) ∧ x'.pc = x.pc + 1 ∧
  { x' with s := x.s, pc := x.pc } = x

/-- Stream t of core c went to word n, and nothing else changed. -/
def wentTo (c t n : Nat) (s s' : State) : Prop :=
  let x := (s.core c).stream t
  let x' := (s'.core c).stream t
  onlyStream c t s s' ∧ x'.pc = n ∧ { x' with pc := x.pc } = x

/-- The next instruction of stream t of core c is the CC word w with opcode op, it may issue, and no accepted vector word
of the stream has yet to read the register it writes (R220, R229, R233). -/
def ccRuns (s : State) (c t : Nat) (w : W64) (op : Nat) : Prop :=
  fetch s c t = .word w ∧ w.getLsbD 63 = true ∧ ccOp w = op ∧
  (ccWrites op = true → (s.core c).sxHeld t (ccRd w) = false)

/-- Nothing but core c and the tally counters changed. -/
def onlyCoreTly (c : Nat) (s s' : State) : Prop := onlyCore c s { s' with tly := s.tly }

/-- The ranges of core c's working store lie in it, and no word of them holds an error. -/
def wsClean (s : State) (c : Nat) (l : List (Nat × Nat)) : Prop :=
  ∀ r ∈ l, r.1 + r.2 ≤ wsSize ∧
    ∀ o, r.1 ≤ o → o < r.1 + r.2 → s.wsBad.has (wsPa c o / 8) = false ∧ s.wsSoft.has (wsPa c o / 8) = false

/-! ### Array commands -/

/-- The command that queue q of array a of core c runs next is e, of opcode op, and the checks common to all commands
pass it (R68, R69). -/
def arrRuns (s : State) (c a q : Nat) (e : ArrCmd) (op : Nat) : Prop :=
  let m := (s.core c).mxa a
  s.coreRuns c = true ∧ a < 2 ∧ q < 2 ∧ (m.half q).head = some e ∧ arOp e = op ∧
  ((m.half q).fenced = false ∨ op = 6) ∧ commonCheck m e = none

/-- Nothing but array a of core c and the core's ASTAT changed; of the array's halves x, each is now g x of what it was,
with command e of queue q ended with a status. -/
def arrEnds (c a q : Nat) (e : ArrCmd) (code : Byte) (g : Nat → Half → Half) (s s' : State) : Prop :=
  let k := s.core c
  let k' := s'.core c
  onlyCoreTly c s s' ∧ { k' with mxa0 := k.mxa0, mxa1 := k.mxa1, astat := k.astat } = k ∧
  (∀ b, b < 2 → b ≠ a → k'.mxa b = k.mxa b) ∧
  ∀ x, x < 2 → (k'.mxa a).half x =
    let y := g x ((k.mxa a).half x)
    if x = q then { y with queue := y.queue.map fun f => if f.id = e.id then { f with done := some code } else f } else y

/-! ### Packets -/

/-- The packet p at the front of submission queue q leaves the ring as number pid, in the expected sequence and held back
by no FENCE, and t is the state right after it (R453, R457, R458, R462). -/
def pktFront (s : State) (q pid : Nat) (p : Pkt) (t : State) : Prop :=
  let x := s.sq q
  x.owner = some p.ctx ∧ canDispatch s q = true ∧ s.agg.safe = false ∧ p.seq = x.expSeq ∧
  ∃ s1 bs, readSpace s p.ctx x.host (x.ring + 64 * x.head) 64 = (s1, .ok bs) ∧
    p = ⟨q, p.ctx, packetWords bs, .unit, false, false⟩ ∧ (pid, t) = takePacket s1 q p.ctx (packetWords bs) false ∧
    (bitOf (p.w 0) 55 = true → sqHas s1 q (fun r => !r.silent) = false) ∧
    ((p.opcode = 0x08 ∨ p.opcode = 0x10) →
      sqHas s1 q (fun r => decide (r.opcode = 1) && decide (r.work ≠ .replied)) = false)

/-- The packet at the front of queue q is one of opcode o that leaves the ring and passes the checks of R458. -/
def pktRuns (s : State) (q : Nat) (o : Op) (pid : Nat) (p : Pkt) (t : State) : Prop :=
  pktFront s q pid p t ∧ p.opcode = o.code ∧ (0x40 ≤ o.code → firmwareHalted s o p.ctx = false) ∧
  hasRight t p.ctx o.right = true ∧ o.formOk p.words = true

/-! ### Messages -/

/-- The next message of a kind in the inbox of engine e is m, and s1 is the state once it has been consumed (R360,
R382, R383). -/
def msgNext (s : State) (e : Nat) (sel : Nat → Bool) (m : InMsg) (s1 : State) : Prop :=
  e < 2 ∧ s.agg.safe = false ∧
  ∃ rest, inboxHead (s.ce e) sel = some (m, rest) ∧ s1 = consume (s.modCe e fun x => { x with inbox := rest }) m

/-- Handle h of engine e runs instance i of plan p, and the engine works. -/
def instRuns (s : State) (e h : Nat) (p : Plan) (i : Inst) : Prop :=
  e < 2 ∧ s.agg.safe = false ∧ (s.ce e).plan h = some p ∧ (s.ce e).inst h = some i

/-! ### Vector words -/

/-- What the vector word w meets at engine e of core c when stream t issues it. -/
def vecIn (s : State) (c t e : Nat) (w : W64) : VIn :=
  let x := (s.core c).stream t
  ⟨c, t, e, w, (s.core c).ve e, x.reg (vSx w), x.reg (vSx w + 1), (s.core c).issued⟩

/-- The next instruction of stream t of core c is the vector word w with opcode op, and it may issue to the engines the
stream targets at once: their acceptance queues are empty, they are not above half rate, and no earlier drain to them
waits (R102, R103, R104, R106, R229, R486). -/
def vecRuns (s : State) (c t : Nat) (w : W64) (op : Nat) : Prop :=
  let k := s.core c
  let x := k.stream t
  fetch s c t = .word w ∧ w.getLsbD 63 = false ∧ vOp w = op ∧ x.vtgt ≤ 2 ∧ (vSmen w = true → x.vtgt ≠ 2) ∧
  ∀ e, e < 2 → k.accOf e = [] ∧ look 0 e k.winIssued < 32 ∧ drainRegs (k.mxa e) k.issued = []

/-- Everything but engines, ASTAT and summary registers of core c, its streams, its count of words issued, its engines'
rate windows and the tally counters is as before; stream t moved to its next instruction, one more word issued, and it
counts in the window of each engine it went to. -/
def vecFrame (c t : Nat) (s s' : State) : Prop :=
  let k := s.core c
  let k' := s'.core c
  { s' with cores := s.cores, tly := s.tly } = s ∧ sameMemory s s' ∧ (∀ d, d ≠ c → s'.core d = s.core d) ∧
  { k' with ve0 := k.ve0, ve1 := k.ve1, astat := k.astat, m := k.m, mstat := k.mstat, winIssued := k.winIssued } =
    { k with issued := k.issued + 1 }.setStream t { k.stream t with pc := (k.stream t).pc + 1 } ∧
  ∀ e, e < 2 → look 0 e k'.winIssued = look 0 e k.winIssued + if e ∈ (k.stream t).targets then 1 else 0

/-- A vector word ran: at every engine the stream targets, result and flags stand in relation P to what the word met;
the other engine, the summary registers and all else are as before, and the flags joined ASTAT (R58, R98, R229). -/
def vecRan (c t : Nat) (w : W64) (P : VIn → Ve → Byte → Prop) (s s' : State) : Prop :=
  let k := s.core c
  let k' := s'.core c
  vecFrame c t s s' ∧ k'.m = k.m ∧ k'.mstat = k.mstat ∧
  (∀ e, e < 2 → e ∉ (k.stream t).targets → k'.ve e = k.ve e) ∧
  ∃ fl : Nat → Byte, (∀ e ∈ (k.stream t).targets, P (vecIn s c t e w) (k'.ve e) (fl e)) ∧
    k'.astat = (k.stream t).targets.foldl (fun a e => a ||| ((fl e).setWidth 32 <<< (8 * (2 + e)))) k.astat

/-- The lanes of VD hold the results of f on lanes a, b and c where the lane is active, zero where it is not and Z
zeroes it, and what they held elsewhere; no other register and nothing else of the engine changed (R98, R99). -/
def lanesGiven (f : VIn → Nat → W32 → W32 → W32 → W32 × Byte) (i : VIn) (y : Ve) (fl : Byte) : Prop :=
  let at' (l : Nat) : W32 × Byte := f i l (i.x.lane (vVa i.w) l) (i.b l) (i.x.lane (vVc i.w) l)
  (∀ r l, l < 1024 →
    y.lane r l = if r = vVd i.w ∧ i.active l then (at' l).1
      else if r = vVd i.w ∧ l < i.x.vl.val ∧ vZ i.w then 0 else i.x.lane r l) ∧
  { y with v := i.x.v, bad := i.x.bad } = i.x ∧ fl = flagsOr (i.lanes.map fun l => (at' l).2)

/-- The bits of the destination predicate hold the results of f where the lane is active, zero where it is not and Z
zeroes it, and what they held elsewhere; nothing else of the engine changed (R99). -/
def predsGiven (f : VIn → Nat → W32 → W32 → Bool × Byte) (i : VIn) (y : Ve) (fl : Byte) : Prop :=
  let at' (l : Nat) : Bool × Byte := f i l (i.x.lane (vVa i.w) l) (i.b l)
  (∀ q l, l < 1024 →
    y.p.has (q * 1024 + l) = if q = vPd i.w ∧ i.active l then (at' l).1
      else if q = vPd i.w ∧ l < i.x.vl.val ∧ vZ i.w then false else i.x.p.has (q * 1024 + l)) ∧
  { y with p := i.x.p } = i.x ∧ fl = flagsOr (i.lanes.map fun l => (at' l).2)

/-- Row r of the tile view has its result in lane r of VD, and its second result in lane r of VD + 1; no other lane and
nothing else of the engine but its state slots changed (R157). -/
def rowsGiven (rows : Nat) (a b : Nat → W32) (i : VIn) (y : Ve) : Prop :=
  (∀ r l, l < 1024 →
    y.lane r l = if r = vVd i.w ∧ l < rows then a l else if r = vVd i.w + 1 ∧ l < rows then b l else i.x.lane r l) ∧
  { y with v := i.x.v, bad := i.x.bad, rsu := i.x.rsu } = i.x

end Sys2Proof.Machine
end

