-- ==== Sys2Proof/Certificates/Slice0/Obligations.lean ====
section
/-! DEFINITION. The statements for the provers. -/

open Sys2Proof Sys2Proof.Machine

/-! ### The control core (08) -/

/-- The scalar instructions write the stated value of sRA, sRB, sRC or IMM to RD, and nothing else but the stream's PC
changes (R219, R229, R230). -/
def Obligations.ScalarResults : Prop :=
  ∀ (s : State) (c t : Nat) (w : W64),
    let x := (s.core c).stream t
    let a := x.reg (ccRa w)
    let b := x.reg (ccRb w)
    let d := x.reg (ccRc w)
    let i := ccSimm w
    let z := BitVec.ofNat 64 (ccImm w)
    let gives (cmd : Instr) (op : Nat) (v : W64) : Prop := ccRuns s c t w op → completes cmd s (wroteRd c t (ccRd w) v)
    gives (.add c t) 0x80 (a + b) ∧ gives (.sub c t) 0x81 (a - b) ∧ gives (.mul c t) 0x82 (a * b) ∧
    gives (.and c t) 0x83 (a &&& b) ∧ gives (.or c t) 0x84 (a ||| b) ∧ gives (.xor c t) 0x85 (a ^^^ b) ∧
    gives (.shl c t) 0x86 (a <<< (b.toNat % 64)) ∧ gives (.shr c t) 0x87 (a >>> (b.toNat % 64)) ∧
    gives (.sra c t) 0x88 (a.sshiftRight (b.toNat % 64)) ∧
    gives (.slt c t) 0x89 (if a.toInt < b.toInt then 1 else 0) ∧ gives (.sltu c t) 0x8A (if a.toNat < b.toNat then 1 else 0) ∧
    gives (.min c t) 0x8B (if b.toInt < a.toInt then b else a) ∧ gives (.max c t) 0x8C (if a.toInt < b.toInt then b else a) ∧
    gives (.addi c t) 0x90 (a + i) ∧ gives (.andi c t) 0x91 (a &&& z) ∧ gives (.ori c t) 0x92 (a ||| z) ∧
    gives (.xori c t) 0x93 (a ^^^ z) ∧ gives (.shli c t) 0x94 (a <<< (ccImm w % 64)) ∧
    gives (.shri c t) 0x95 (a >>> (ccImm w % 64)) ∧ gives (.srai c t) 0x96 (a.sshiftRight (ccImm w % 64)) ∧
    gives (.li c t) 0x97 i ∧ gives (.lih c t) 0x98 (BitVec.ofNat 64 (ccImm w * 2 ^ 32 + a.toNat % 2 ^ 32)) ∧
    gives (.fadd c t) 0xA0 (f32Res (fadd false (f32 a) (f32 b))) ∧
    gives (.fsub c t) 0xA1 (f32Res (fadd false (f32 a) (f32 b).negate)) ∧
    gives (.fmul c t) 0xA2 (f32Res (fmul (f32 a) (f32 b))) ∧
    gives (.ffma c t) 0xA3 (f32Res (ffma false (f32 a) (f32 b) (f32 d))) ∧
    gives (.fcvtif c t) 0xA4 (f32Res (.num (dyInt (a.setWidth 32).toInt), false)) ∧
    gives (.fcvtfi c t) 0xA5 (BitVec.ofInt 64 (toInteger 32 .rne (f32 a)).1) ∧
    gives (.dbf c t) 0xBE (dbHalf (look 0 (ccFn w) (s.core c).db) true) ∧
    gives (.dbb c t) 0xBF (dbHalf (look 0 (ccFn w) (s.core c).db) false) ∧
    gives (.xrd c t) 0xE5 x.sexc

/-- Branches, JAL and JR go to the target the rules give when it lies in the code, and a branch not taken goes to the
next word; a jump whose target lies below 0 or at or above CODELEN has no effect but an exception with E_BADPARAM that
waits for the stream (R230, R231, R243). -/
def Obligations.ControlTransfers : Prop :=
  (∀ (s : State) (c t : Nat) (w : W64),
     let k := s.core c
     let x := k.stream t
     let a := x.reg (ccRa w)
     let b := x.reg (ccRb w)
     let tgt : Int := (x.pc : Int) + (ccSimm w).toInt
     let inside (n : Int) : Prop := 0 ≤ n ∧ n < (k.codeLen : Int)
     let goes (cmd : Instr) (op : Nat) (cond : Prop) : Prop :=
       ccRuns s c t w op → (cond → inside tgt → completes cmd s (wentTo c t tgt.toNat)) ∧ (¬cond → completes cmd s (wentTo c t (x.pc + 1)))
     goes (.beq c t) 0xC0 (a = b) ∧ goes (.bne c t) 0xC1 (a ≠ b) ∧ goes (.blt c t) 0xC2 (a.toInt < b.toInt) ∧
     goes (.bge c t) 0xC3 (b.toInt ≤ a.toInt) ∧ goes (.bltu c t) 0xC4 (a.toNat < b.toNat) ∧
     goes (.bgeu c t) 0xC5 (b.toNat ≤ a.toNat) ∧ goes (.bflt c t) 0xC6 (fpCmp a b = some .lt) ∧
     goes (.bfge c t) 0xC7 (fpCmp a b = some .gt ∨ fpCmp a b = some .eq) ∧
     (ccRuns s c t w 0xC8 → inside tgt → completes (.jal c t) s fun s s' =>
       let x' := (s'.core c).stream t
       onlyStream c t s s' ∧ x'.pc = tgt.toNat ∧
       ∀ r, x'.reg r = if r = ccRd w ∧ r ≠ 0 then BitVec.ofNat 64 (x.pc + 1) else x.reg r) ∧
     (ccRuns s c t w 0xC9 → inside (a.toNat % 2 ^ 14 : Nat) → completes (.jr c t) s (wentTo c t (a.toNat % 2 ^ 14)))) ∧
  (∀ (s : State) (c t : Nat) (w : W64),
     let k := s.core c
     let x := k.stream t
     let tgt : Int := (x.pc : Int) + (ccSimm w).toInt
     ccRuns s c t w 0xC8 → x.st = .run → (tgt < 0 ∨ (k.codeLen : Int) ≤ tgt) →
     completes (.jal c t) s fun s s' =>
       onlyStream c t s s' ∧ (s'.core c).stream t = { x with pend := x.pend ++ [⟨Code.badParam, 0, 0xC8, 0, false⟩] })

/-- LD, LDW, ST and STW read and write the working store at sRA + sext(IMM); a store leaves every other byte of memory
and every register as they were. CSRR reads the register at IMM, CSRW writes sRB to it; MRD and MSR read a summary
register and MSTAT (R230, R234). -/
def Obligations.CcMemoryAndRegisters : Prop :=
  (∀ (s : State) (c t : Nat) (w : W64),
     let k := s.core c
     let x := k.stream t
     let off := (x.reg (ccRa w) + ccSimm w).toNat
     let clean (n : Nat) : Prop :=
       off % n = 0 ∧ off + n ≤ wsSize ∧ s.wsBad.has (wsPa c off / 8) = false ∧ s.wsSoft.has (wsPa c off / 8) = false
     let stored (n : Nat) (s s' : State) : Prop :=
       { s' with cores := s.cores, mem := s.mem, wsSoft := s.wsSoft } = s ∧
       (∀ d, d ≠ c → s'.core d = s.core d) ∧ s'.core c = k.setStream t x.advance ∧
       s'.ws c off n = leBytes n (x.reg (ccRb w)).toNat ∧ sameMemoryBut (wsPa c off) n s s'
     (ccRuns s c t w 0xB0 → clean 8 → k.drainWaits t k.issued = false →
       completes (.ld c t) s (wroteRd c t (ccRd w) (BitVec.ofNat 64 (leNat (s.ws c off 8))))) ∧
     (ccRuns s c t w 0xB1 → clean 4 → k.drainWaits t k.issued = false →
       completes (.ldw c t) s (wroteRd c t (ccRd w) (BitVec.ofNat 64 (leNat (s.ws c off 4))))) ∧
     (ccRuns s c t w 0xB2 → clean 8 → k.hitsDesc t k.issued off 8 = false → completes (.st c t) s (stored 8)) ∧
     (ccRuns s c t w 0xB3 → clean 4 → k.hitsDesc t k.issued off 4 = false → completes (.stw c t) s (stored 4))) ∧
   ∀ (s : State) (c t : Nat) (w : W64),
     let k := s.core c
     let x := k.stream t
     let off := ccImm w
     let named : Prop := off % 8 = 0 ∧ off < 2 ^ 16 ∧ coreAssigned off = true
     (ccRuns s c t w 0xB8 → named → csrWaits k off = false → completes (.csrr c t) s (wroteRd c t (ccRd w) (k.read off))) ∧
     (ccRuns s c t w 0xB9 → named → k.allStarted t = true → off ≠ 0x1000 → off ≠ 0xE08 →
       completes (.csrw c t) s fun s s' =>
         onlyCore c s s' ∧ s'.core c = (k.setStream t x.advance).write false off (x.reg (ccRb w)) (-1)) ∧
     (ccRuns s c t w 0xBC → k.summaryWaits (ccFn w % 8) k.issued = false →
       completes (.mrd c t) s (wroteRd c t (ccRd w) (look 0 (ccFn w % 8) k.m))) ∧
     (ccRuns s c t w 0xBD → (∀ i < 8, k.summaryWaits i k.issued = false) →
       completes (.msr c t) s (wroteRd c t (ccRd w) (k.mstat.setWidth 64)))

/-- VTGT, FENCE, CNOP, SWAP, END and XACK change the stream as the rules say; XACK clears FAULTED of the engine whose
fault the record names, and lets the watchdog count again (R185, R230, R239 to R241, R245). -/
def Obligations.StreamControl : Prop :=
  (∀ (s : State) (c t : Nat) (w : W64),
     let k := s.core c
     let x := k.stream t
     let becomes (cmd : Instr) (y : Stream) : Prop :=
       completes cmd s fun s s' => onlyStream c t s s' ∧ (s'.core c).stream t = y
     (ccRuns s c t w 0xD0 → ccFn w % 4 ≠ 3 → becomes (.vtgt c t) { x with vtgt := ccFn w % 4, pc := x.pc + 1 }) ∧
     (ccRuns s c t w 0xE1 → k.fenceClear t (ccFn w) = true → becomes (.fence c t) { x with pc := x.pc + 1 }) ∧
     (ccRuns s c t w 0xE6 → becomes (.cnop c t) { x with pc := x.pc + 1 }) ∧
     (ccRuns s c t w 0xE0 → ccRa w ≠ 31 → x.st = .run →
       becomes (.swap c t)
         { x with st := .swap, pc := x.pc + 1, mask := x.reg (ccRa w), units := (x.reg (ccRa w + 1)).toNat % 2 ^ 16 }) ∧
     (ccRuns s c t w 0xE2 → x.st = .run → becomes (.endCmd c t) { x with ending := true })) ∧
  (∀ (s : State) (c t : Nat) (w : W64),
     let k := s.core c
     let x := k.stream t
     let src := fld x.sexc.toNat 55 52
     let y : Stream := { x with st := .run, pc := if bitOf (ccFn w) 0 then (x.reg (ccRa w)).toNat % 2 ^ 14 else fld x.sexc.toNat 45 32 }
     let freed : Core := if src = 1 ∨ src = 2 then k.setVe (src - 1) { k.ve (src - 1) with faulted := false } else k
     let others : Prop := ∃ u, u < 3 ∧ u ≠ t ∧ (k.stream u).st = .exc
     ccRuns s c t w 0xE4 → x.st = .exc → t < 3 →
     completes (.xack c t) s fun s s' =>
       onlyCore c s s' ∧
       (others → s'.core c = freed.setStream t y) ∧
       (¬others → s'.core c =
         { freed with wdStart := k.wdStart + (s.tbtime - k.wdExc.getD s.tbtime), wdExc := none }.setStream t y))

/-- ACMD, SECMD and CPCMD add their command at the end of the unit's queue while it has room, and the stream goes on
(R68, R169, R212, R230). -/
def Obligations.CommandIssue : Prop :=
  ∀ (s : State) (c t : Nat) (w : W64),
    let k := s.core c
    let x := k.stream t
    let w0 := x.reg (ccRa w)
    let w1 := x.reg (ccRb w)
    let a := ccFn w % 2
    let q := if fld w0.toNat 59 58 = 2 then 1 else 0
    (ccRuns s c t w 0xD1 → allotted k t a w0 w1 = true → ((k.mxa a).half q).queue.length < 16 →
      completes (.acmd c t) s fun s s' =>
        onlyCore c s s' ∧ (((s'.core c).mxa a).half q).queue = ((k.mxa a).half q).queue ++ [⟨k.issued, t, w0, w1, none⟩] ∧
        (s'.core c).stream t = { x with pc := x.pc + 1 } ∧ (s'.core c).issued = k.issued + 1) ∧
    (ccRuns s c t w 0xD2 → k.seQueue.length < 64 →
      completes (.secmd c t) s fun s s' =>
        onlyCore c s s' ∧ (∃ e, (s'.core c).seq = k.seq ++ [e] ∧ e.id = k.issued ∧ e.stream = t ∧ e.w0 = w0 ∧ e.w1 = w1 ∧
          e.stage = .queued ∧ e.waitFor = k.seq.map (·.id) ++ k.running.map (·.id)) ∧
        (s'.core c).stream t = { x with pc := x.pc + 1 }) ∧
    (ccRuns s c t w 0xD3 → k.cpq.length + (if k.copy.isSome then 1 else 0) < 16 →
      completes (.cpcmd c t) s fun s s' =>
        onlyCore c s s' ∧ (∃ e, (s'.core c).cpq = k.cpq ++ [e] ∧ e.id = k.issued ∧ e.stream = t ∧ e.w0 = w0 ∧ e.w1 = w1) ∧
        (s'.core c).stream t = { x with pc := x.pc + 1 })

/-! ### Vector engines (04, 05) -/

/-- The element-wise vector instructions: every active lane of VD takes the result the rules give, and nothing else of
the part changes but the flags and the stream's PC (R98 to R101, R108 to R113, R124 to R126). -/
def Obligations.VectorElementwise : Prop :=
  ∀ (s : State) (c t : Nat) (w : W64),
    let gives (cmd : Instr) (op : Nat) (sp : VSpec) (u : Uses) (f : VIn → Nat → W32 → W32 → W32 → W32 × Byte) : Prop :=
      vecRuns s c t w op → vBad sp w = false → (∀ e, (vecIn s c t e w).ecc u = false) →
      completes cmd s (vecRan c t w (lanesGiven f))
    let none' : Uses := ⟨false, false, false⟩
    let a' : Uses := ⟨true, false, false⟩
    let ab : Uses := ⟨true, true, false⟩
    let abc : Uses := ⟨true, true, true⟩
    let arith (g : FVal → FVal → FVal → FVal × Bool) (h : Int → Int → Int) (i : VIn) (_ : Nat) (a b d : W32) : W32 × Byte :=
      if vType i.w = 1 then intLane (vSat i.w) (h a.toInt b.toInt) else exactLane i.w g a b d
    let zs : Bool := (vRound w).zeroSign
    let sign : W32 := if perLane (vType w) = 2 then 0x80008000 else 0x80000000
    let bits (g : W32 → W32 → W32) (_ : VIn) (_ : Nat) (a b _ : W32) : W32 × Byte := (g a b, 0)
    gives (.vmov c t) 0x02 (vSpec tyAll) a' (fun _ _ a _ _ => (a, 0)) ∧
    gives (.vbcast c t) 0x03 (vSpec tyAll) none' (fun i _ _ _ _ => (i.sx.setWidth 32, 0)) ∧
    gives (.viota c t) 0x04 (vSpec tyAll) none' (fun _ l _ _ _ => (BitVec.ofNat 32 l, 0)) ∧
    gives (.vsel c t) 0x05 (vSpec tyAll) ab (fun i l a b _ => (if i.x.pbit (vPc i.w) l then a else b, 0)) ∧
    gives (.vadd c t none) 0x10 (vSpec tyArith) ab (arith (fun a b _ => fadd zs a b) (· + ·)) ∧
    gives (.vsub c t none) 0x11 (vSpec tyArith) ab (arith (fun a b _ => fadd zs a b.negate) (· - ·)) ∧
    gives (.vmul c t none) 0x12 (vSpec tyArith) ab (arith (fun a b _ => fmul a b) (· * ·)) ∧
    gives (.vfma c t none) 0x13 (vSpec tyFloat) abc (fun _ _ => exactLane w fun a b d => ffma zs a b d) ∧
    gives (.vfms c t none) 0x14 (vSpec tyFloat) abc (fun _ _ => exactLane w fun a b d => ffma zs a b d.negate) ∧
    gives (.vnfma c t none) 0x15 (vSpec tyFloat) abc (fun _ _ => exactLane w fun a b d => ffma zs a.negate b d) ∧
    gives (.vmax c t none) 0x16 (vSpec tyOrder) ab (fun _ _ a b d =>
      if vType w = 1 then (if b.toInt ≤ a.toInt then a else b, 0) else if vType w = 2 then (if b.toNat ≤ a.toNat then a else b, 0)
      else floatLane w (fun fm x y _ => pickFloat true fm x y) a b d) ∧
    gives (.vmin c t none) 0x17 (vSpec tyOrder) ab (fun _ _ a b d =>
      if vType w = 1 then (if b.toInt ≤ a.toInt then b else a, 0) else if vType w = 2 then (if b.toNat ≤ a.toNat then b else a, 0)
      else floatLane w (fun fm x y _ => pickFloat false fm x y) a b d) ∧
    gives (.vabs c t) 0x18 (vSpec tyFloat) a' (fun _ _ a _ _ => (a &&& ~~~sign, 0)) ∧
    gives (.vneg c t) 0x19 (vSpec tyFloat) a' (fun _ _ a _ _ => (a ^^^ sign, 0)) ∧
    gives (.vscale c t none) 0x1B (vSpec tyFloat) ab (fun _ _ => floatLane w fun fm x y _ =>
      let n := max (-600) (min 600 (sext (32 / perLane (vType w)) y))
      let r := fm.convert (vRound w) (vSat w) (match fm.decode x with | .num q => .num (q.scale n) | z => z)
      (r.bits, r.flags)) ∧
    gives (.vand c t) 0x20 (vSpec 0x04) ab (bits fun a b => a &&& b) ∧
    gives (.vor c t) 0x21 (vSpec 0x04) ab (bits fun a b => a ||| b) ∧
    gives (.vxor c t) 0x22 (vSpec 0x04) ab (bits fun a b => a ^^^ b) ∧
    gives (.vshl c t) 0x23 (vSpec 0x06) ab (bits fun a b => a <<< (b.toNat % 32)) ∧
    gives (.vshr c t) 0x24 (vSpec 0x06) ab (bits fun a b => a >>> (b.toNat % 32)) ∧
    gives (.vsra c t) 0x25 (vSpec 0x06) ab (bits fun a b => a.sshiftRight (b.toNat % 32)) ∧
    gives (.vfromp c t) 0x3D (vSpec tyAll) none' (fun i l _ _ _ => (if i.x.pbit (vPa i.w) l then 1 else 0, 0)) ∧
    gives (.vrng c t) 0x58 { vSpec ty32 with imm := 0x1, pair := true } none' (fun i l _ _ _ =>
      (if bitOf (vImm w) 0 then BitVec.ofNat 32 (fmtFP32.roundNum .rne false ⟨false, i.draw 0x524E0000 l / 256, -24⟩).bits
       else BitVec.ofNat 32 (i.draw 0x524E0000 l), 0)) ∧
    gives (.vdrop c t) 0x59 { vSpec tyOrder with pair := true } none' (fun i l _ _ _ =>
      let n := perLane (vType w)
      (laneOf (vType w) ((List.range n).map fun e =>
        if i.draw 0x44520000 (n * l + e) < i.sx1.toNat / 2 ^ 32 then 0 else 2 ^ (32 / n) - 1), 0))

/-- VNOP, VSETVL and the instructions that write a predicate (R97 to R100, R112, R125, R126). -/
def Obligations.VectorPredicates : Prop :=
  ∀ (s : State) (c t : Nat) (w : W64),
    let gives (cmd : Instr) (op : Nat) (sp : VSpec) (u : Uses) (f : VIn → Nat → W32 → W32 → Bool × Byte) : Prop :=
      vecRuns s c t w op → vBad sp w = false → (∀ e, (vecIn s c t e w).ecc u = false) →
      completes cmd s (vecRan c t w (predsGiven f))
    let none' : Uses := ⟨false, false, false⟩
    let pp (g : Bool → Bool → Bool) (i : VIn) (l : Nat) (_ _ : W32) : Bool × Byte :=
      (g (i.x.pbit (vPa i.w) l) (i.x.pbit (vPb i.w) l), 0)
    let cmp (a b : W32) : Option Ordering :=
      if vType w = 1 then some (compare a.toInt b.toInt) else if vType w = 2 then some (compare a.toNat b.toNat)
      else fpCmp (a.setWidth 64) (b.setWidth 64)
    (vecRuns s c t w 0x00 → vBad (vSpec tyAll) w = false →
      completes (.vnop c t) s (vecRan c t w fun i y fl => y = i.x ∧ fl = 0)) ∧
    (vecRuns s c t w 0x01 → vBad (vSpec tyAll) w = false →
      completes (.vsetvl c t) s (vecRan c t w fun i y fl =>
        y.vl.val = min i.sx.toNat 1024 ∧ { y with vl := i.x.vl } = i.x ∧ fl = 0)) ∧
    gives (.vcmp c t) 0x1A { vSpec ty32 with imm := 0x7, pdest := true } ⟨true, true, false⟩ (fun _ _ a b =>
      (condHolds (vImm w % 8) (cmp a b),
       flagIf (vType w = 0 && ((fmtFP32.decode a.toNat).isSnan || (fmtFP32.decode b.toNat).isSnan)) flagInv)) ∧
    gives (.pand c t) 0x38 { vSpec tyAll with pdest := true } none' (pp fun a b => a && b) ∧
    gives (.por c t) 0x39 { vSpec tyAll with pdest := true } none' (pp fun a b => a || b) ∧
    gives (.pxor c t) 0x3A { vSpec tyAll with pdest := true } none' (pp fun a b => a != b) ∧
    gives (.pandn c t) 0x3B { vSpec tyAll with pdest := true } none' (pp fun a b => a && !b) ∧
    gives (.pfromv c t) 0x3C { vSpec tyAll with pdest := true } ⟨true, false, false⟩ (fun _ _ a _ => (a != 0, 0)) ∧
    gives (.vdropp c t) 0x5A { vSpec ty32 with pdest := true, pair := true } none' (fun i l _ _ =>
      (decide (i.sx1.toNat / 2 ^ 32 ≤ i.draw 0x44520000 l), 0))

/-- Permutes and conversions: VPERM, VPERMR, VCVT and VCVTMX (R54, R113 to R115). -/
def Obligations.VectorPermuteConvert : Prop :=
  ∀ (s : State) (c t : Nat) (w : W64),
    let ty := vType w
    let dst := vImm w % 16
    let ks := perLane ty
    let kd := perLane dst
    let sound : Prop := ∀ e, ((s.core c).ve e).bad = []
    let cvtSpec : VSpec :=
      { types := tyConvert, imm := 0xF, pdest := false, pair := vRm w == 5,
        sr := decide (3 ≤ dst) && decide (dst ≤ 6), bad := !bitOf tyConvert dst }
    let mxSpec : VSpec :=
      { types := 0x01, imm := 0xF, pdest := false, pair := vRm w == 5, sr := true, bad := decide (dst < 3) || decide (7 < dst) }
    let fetched (i : VIn) (k : Option Nat) : W32 × Byte :=
      match k with | some j => (i.x.lane (vVa w) j, 0) | none => (0, flagPermOor)
    (vecRuns s c t w 0x40 → vBad (vSpec tyAll) w = false → sound →
      completes (.vperm c t) s (vecRan c t w (lanesGiven fun i l _ _ _ =>
        let k := (i.x.lane (vVb w) l).toNat
        fetched i (if k < i.x.vl.val then some k else none)))) ∧
    (vecRuns s c t w 0x41 → vBad (vSpec tyAll) w = false → sound →
      completes (.vpermr c t) s (vecRan c t w (lanesGiven fun i l _ _ _ =>
        let k := (i.x.lane (vVb w) l).toNat
        let wd := tileW (vTw w)
        fetched i (if k < wd ∧ wd * (l / wd) + k < i.x.vl.val then some (wd * (l / wd) + k) else none)))) ∧
    (vecRuns s c t w 0x30 → vBad cvtSpec w = false → sound → ks = kd →
      completes (.vcvt c t none) s (vecRan c t w (lanesGiven fun i l a _ _ =>
        let rs := (List.range kd).zipWith (fun e x => cvtElem ty dst (i.cvtMode (kd * l + e)) (vSat w) x) (elemsOf ty a)
        (laneOf dst (rs.map (·.1)), flagsOr (rs.map (·.2)))))) ∧
    (vecRuns s c t w 0x30 → vBad cvtSpec w = false → sound → ks ≠ kd →
      completes (.vcvt c t none) s (vecRan c t w fun i y fl =>
        let n := min (ks * i.x.vl.val) (1024 * kd)
        let conv (j : Nat) : Nat × Byte :=
          cvtElem ty dst (i.cvtMode j) (vSat w) ((elemsOf ty (i.x.lane (vVa w) (j / ks))).getD (j % ks) 0)
        (∀ r l, l < 1024 → y.lane r l =
          if r = vVd w ∧ l < (n + kd - 1) / kd then
            laneOf dst ((List.range kd).map fun e => if kd * l + e < n then (conv (kd * l + e)).1 else 0)
          else i.x.lane r l) ∧
        { y with v := i.x.v, bad := i.x.bad } = i.x ∧ fl = flagsOr ((List.range n).map fun j => (conv j).2))) ∧
    (vecRuns s c t w 0x31 → vBad mxSpec w = false → sound →
      completes (.vcvtmx c t none) s (vecRan c t w fun i y fl =>
        let blocks := (List.range ((i.x.vl.val + 31) / 32)).map fun b =>
          mxBlock dst (fun j => i.cvtMode (32 * b + j)) ((upFrom (32 * b) 32).map fun l =>
            if l < i.x.vl.val then fmtFP32.decode (i.x.lane (vVa w) l).toNat else .num (dyZero false))
        let width := fmtBits dst
        let codes := blocks.flatMap fun q => leBytes (4 * width) (q.2.1.foldr (fun x n => x + 2 ^ width * n) 0)
        let scales := blocks.map fun q => BitVec.ofNat 8 q.1
        (∀ r l, l < 1024 → y.lane r l =
          if r = vVc w then BitVec.ofNat 32 (fieldAt scales (4 * l) 4)
          else if r = vVd w then BitVec.ofNat 32 (fieldAt codes (4 * l) 4) else i.x.lane r l) ∧
        { y with v := i.x.v, bad := i.x.bad } = i.x ∧ fl = flagsOr (blocks.map (·.2.2))))

/-- VLD, VST, VGATHER and VSCATTER move the words of active lanes between a register and the core's working store, at
the offsets the rules give; a store changes no other byte (R107, R116, R117). -/
def Obligations.VectorMemory : Prop :=
  ∀ (s : State) (c t : Nat) (w : W64),
    let k := s.core c
    let i (e : Nat) : VIn := vecIn s c t e w
    let sound : Prop := ∀ e, (k.ve e).bad = []
    let clean (offs : List Nat) : Prop :=
      ∀ a ∈ offs, s.wsBad.has (wsPa c a / 8) = false ∧ s.wsSoft.has (wsPa c a / 8) = false
    let word (i : VIn) (r l : Nat) : W32 := i.x.lane r l
    let stores (offs : VIn → List (Nat × Nat)) (s s' : State) : Prop :=
      let l := (k.stream t).targets.flatMap fun e =>
        (offs (i e)).flatMap fun p => pairs (wsPa c p.2) (leBytes 4 (word (i e) (vVa w) p.1).toNat)
      { s' with cores := s.cores, tly := s.tly, mem := s.mem, wsSoft := s.wsSoft } = s ∧
      (∀ a, s'.byte a = look 0 a (putAll 0 l s.mem)) ∧ (∀ d, d ≠ c → s'.core d = s.core d) ∧
      (∀ e, e < 2 → (s'.core c).ve e = k.ve e) ∧ ((s'.core c).stream t).pc = (k.stream t).pc + 1
    let inb (i : VIn) : List (Nat × Nat) := i.gatherLanes.filterMap fun p => p.2.map fun a => (p.1, a)
    (vecRuns s c t w 0x48 → vBad (memSpec w) w = false → k.drainWaits t k.issued = false →
      (∀ e, (i e).memCheck = none ∧ clean ((i e).memLanes.map (·.2))) →
      completes (.vld c t) s (vecRan c t w (lanesGiven fun i l _ _ _ =>
        let wd := tileW (vTw w)
        (wsWord s c (i.sx.toNat + l / wd * (if vTw w = 0 then 0 else i.sx1.toNat) + 4 * (l % wd)), 0)))) ∧
    (vecRuns s c t w 0x49 → vBad (memSpec w) w = false → sound →
      (∀ e, (i e).memCheck = none ∧ clean ((i e).memLanes.map (·.2)) ∧ storeWaits s (i e) ((i e).memLanes.map (·.2)) = false) →
      completes (.vst c t) s (stores VIn.memLanes)) ∧
    (vecRuns s c t w 0x4A → vBad gatherSpec w = false → k.drainWaits t k.issued = false → sound →
      (∀ e, (i e).gatherCheck = none ∧ clean ((i e).gatherLanes.filterMap (·.2))) →
      completes (.vgather c t) s (vecRan c t w (lanesGiven fun i l _ _ _ =>
        let n := (i.x.lane (vVb w) l).toNat
        if n < i.sx1.toNat % 2 ^ 32 then (wsWord s c (i.sx.toNat + 4 * n), 0) else (0, flagPermOor)))) ∧
    (vecRuns s c t w 0x4B → vBad gatherSpec w = false → sound →
      (∀ e, (i e).gatherCheck = none ∧ clean ((i e).gatherLanes.filterMap (·.2)) ∧
        storeWaits s (i e) ((i e).gatherLanes.filterMap (·.2)) = false) →
      completes (.vscatter c t) s (stores inb))

/-- VRED puts the reduction of all active elements into lane 0 of VD and, with SMEN, into the summary register with its
two flags; VREDR puts that of row r into lane r (R118 to R122). -/
def Obligations.VectorReductions : Prop :=
  ∀ (s : State) (c t : Nat) (w : W64),
    let k := s.core c
    let sound : Prop := ∀ e, (k.ve e).bad = []
    let lanes (rows : Nat) (wd : Nat) (i : VIn) (y : Ve) : Prop :=
      (∀ r l, l < 1024 → y.lane r l = if r = vVd w ∧ l < rows then (i.reduce wd l).lane else i.x.lane r l) ∧
      { y with v := i.x.v, bad := i.x.bad } = i.x
    (vecRuns s c t w 0x50 → vBad (redSpec false w) w = false → sound → vSmen w = false →
      completes (.vred c t none) s (vecRan c t w fun i y fl => lanes 1 1024 i y ∧ fl = (i.reduce 1024 0).flags)) ∧
    (vecRuns s c t w 0x50 → vBad (redSpec false w) w = false → sound → vSmen w = true → k.summaryWaits (vMs w) k.issued = false →
      completes (.vred c t none) s fun s s' =>
        let e := (k.stream t).vtgt
        let r := (vecIn s c t e w).reduce 1024 0
        let k' := s'.core c
        vecFrame c t s s' ∧ lanes 1 1024 (vecIn s c t e w) (k'.ve e) ∧
        (∀ m, look 0 m k'.m = if m = vMs w then BitVec.ofNat 64 (r.index * 2 ^ 32 + r.val.toNat) else look 0 m k.m) ∧
        (∀ b, b < 16 → k'.mstat.getLsbD b =
          if b = 2 * vMs w then r.empty else if b = 2 * vMs w + 1 then r.nf else k.mstat.getLsbD b)) ∧
    (vecRuns s c t w 0x51 → vBad (redSpec true w) w = false → sound →
      completes (.vredr c t none) s (vecRan c t w fun i y fl =>
        let wd := tileW (vTw w)
        lanes (1024 / wd) wd i y ∧ fl = flagsOr ((List.range (1024 / wd)).map fun r => (i.reduce wd r).flags)))

/-- The special-function instructions: VSF and VSFR evaluate the slot of the active bank, VSFSEL selects the bank, VSFLD
queues a checked load; its slot is written whole, SFSTS names it with OK, and a stream's load writes OK to its summary
register; the table scrub corrects a single-bit error in place and counts it (R133, R135, R141, R144, R147 to R151,
R161, R517, R527). -/
def Obligations.SpecialFunctions : Prop :=
  (∀ (s : State) (c t : Nat) (w : W64),
     let k := s.core c
     let ty := vType w
     let n := vImm w % 32
     let sound : Prop := ∀ e, (k.ve e).bad = [] ∧ (k.ve e).sfBad = [] ∧ (k.ve e).bankLoading = false
     let sfSpec : VSpec := { vSpec tyFloat with imm := 0x31F, pair := bitOf (vImm w) 9 && vBcb w == 3 }
     let eval (g : VIn → FVal → Eval) (i : VIn) (l : Nat) (a b _ : W32) : W32 × Byte :=
       let fm := typeFmt ty
       let es := ((elemsOf ty a).zip ((elemsOf ty b).zip (elemsOf ty (i.mulc l)))).map fun p =>
         if (i.x.slot i.x.bankSel n).valid then sfuElem w fm (g i) p.1 p.2.1 p.2.2 else (fm.nanBits, flagInv, [])
       (laneOf ty (es.map (·.1)), flagsOr (es.map (·.2.1)))
     let off := ((k.stream t).reg (vSx w)).toNat
     let e := (k.stream t).vtgt
     let bank := vImm w / 32 % 2
     (vecRuns s c t w 0x60 → vBad sfSpec w = false → sound →
       completes (.vsf c t none) s (vecRan c t w (lanesGiven (eval fun i => fastEval (i.x.slot i.x.bankSel n))))) ∧
     (vecRuns s c t w 0x61 → vBad sfSpec w = false → sound →
       completes (.vsfr c t none) s
         (vecRan c t w (lanesGiven (eval fun i => refinedEval (i.x.slot i.x.bankSel n) (i.x.slot i.x.bankSel))))) ∧
     (vecRuns s c t w 0x62 → vBad { vSpec tyAll with imm := 0x1 } w = false → (∀ e, (k.ve e).streamLoad = false) →
       completes (.vsfsel c t) s (vecRan c t w fun i y fl => y = { i.x with bankSel := vImm w % 2 } ∧ fl = 0)) ∧
     (vecRuns s c t w 0x63 → vBad { vSpec tyAll with imm := 0x3F } w = false → vSmen w = true →
       k.summaryWaits (vMs w) k.issued = false → off % 64 = 0 → off + 1024 ≤ wsSize → bank ≠ (k.ve e).bankSel →
       (∀ a, off ≤ a → a < off + 1024 → s.wsBad.has (wsPa c a / 8) = false ∧ s.wsSoft.has (wsPa c a / 8) = false) →
       imageOk (s.ws c off 1024) = true →
       completes (.vsfld c t) s (vecRan c t w fun i y fl =>
         y = { i.x with loads := i.x.loads ++ [⟨bank, n, s.ws c off 1024, .stream t (vMs w)⟩] } ∧ fl = 0))) ∧
  (∀ (s : State) (c e : Nat) (l : SfLoad) (ls : List SfLoad),
     s.coreRuns c = true → e < 2 → ((s.core c).ve e).loads = l :: ls →
     completes (.sfuSlotWrite c e) s fun s s' =>
       let x := (s.core c).ve e
       let y := (s'.core c).ve e
       (∀ j, look .standard j y.slots = if j = l.bank * 32 + l.slot then .loaded l.image else look .standard j x.slots) ∧
       y.loads = ls ∧ y.ldCode = Code.ok ∧ y.ldSlot = l.slot ∧ y.ldBank = l.bank ∧ y.v = x.v ∧ y.p = x.p ∧ sameMemory s s' ∧
       ∀ u ms, l.origin = .stream u ms → look 0 ms (s'.core c).m = 0) ∧
  (∀ (s : State) (c e bank slot word : Nat),
     let key := (bank * 32 + slot) * 128 + word
     let x := (s.core c).ve e
     s.coreRuns c = true → e < 2 → bank < 2 → slot < 32 → word < 128 → x.sfBad.has key = false → x.sfSoft.has key = true →
     completes (.sfuTableScrub c e bank slot word) s fun s s' =>
       (∀ j, ((s'.core c).ve e).sfSoft.has j = if j = key then false else x.sfSoft.has j) ∧
       s'.agg.corr = satInc 32 s.agg.corr ∧ sameMemory s s')

/-- The row-statistics instructions: results in lane r of VD and VD + 1 for each row r, the state slots SB + r, and the
flags; a scan gives each active lane its prefix result and zeroes or keeps the others (R153 to R160). -/
def Obligations.RowStatistics : Prop :=
  ∀ (s : State) (c t : Nat) (w : W64),
    let k := s.core c
    let rows := rsRows w
    let sb := rsSb w
    let wd := tileW (vTw w)
    let rm := vRound w
    let sound : Prop := ∀ e, (k.ve e).bad = []
    let slots (g : Nat → RsuSlot) (i : VIn) (y : Ve) : Prop :=
      ∀ n, y.rsuSlot n = if sb ≤ n ∧ n < sb + rows then g (n - sb) else i.x.rsuSlot n
    let kept (i : VIn) (y : Ve) : Prop := ∀ n, y.rsuSlot n = i.x.rsuSlot n
    let cleared (i : VIn) (y : Ve) : Prop := if bitOf (vImm w) 6 then slots (fun _ => .empty) i y else kept i y
    let vals (i : VIn) (r : Nat) : List (Option FVal) := i.rowVals (vVa w) wd r
    let old (sl : RsuSlot) : RsuSlot := match sl with | .stats n a b => .stats n a b | _ => .stats 0 .zero .zero
    let rest (i : VIn) (y : Ve) : Prop := { y with rsu := i.x.rsu } = i.x
    let each (g : Nat → Byte) : Byte := flagsOr ((List.range rows).map g)
    let scanned (g : Nat → W32) (i : VIn) (y : Ve) : Prop :=
      (∀ r l, l < 1024 →
        y.lane r l = if r = vVd w ∧ i.active l then g l else if r = vVd w ∧ l < i.x.vl.val ∧ vZ w then 0 else i.x.lane r l) ∧
      { y with v := i.x.v, bad := i.x.bad, rsu := i.x.rsu } = i.x
    (vecRuns s c t w 0x70 → vBad (rsSpec tyFloat 0xBF true false w) w = false → sound →
      completes (.vrstat c t none) s (vecRan c t w fun i y fl =>
        rowsGiven rows (fun r => (slotMean rm (rowStats (vals i r)).1).1) (fun r => (i.second (rowStats (vals i r)).1).1) i y ∧
        kept i y ∧ fl = each fun r =>
          (rowStats (vals i r)).2 ||| (slotMean rm (rowStats (vals i r)).1).2 ||| (i.second (rowStats (vals i r)).1).2)) ∧
    (vecRuns s c t w 0x71 → vBad (rsSpec tyFloat 0x3F false false w) w = false → sound →
      completes (.vrsacc c t none) s (vecRan c t w fun i y fl =>
        let joined (r : Nat) := combineStats (old (i.x.rsuSlot (sb + r))) (rowStats (vals i r)).1
        slots (fun r => (joined r).1) i y ∧ rest i y ∧ fl = each fun r => (rowStats (vals i r)).2 ||| (joined r).2)) ∧
    (vecRuns s c t w 0x72 → vBad (rsSpec tyFloat 0xFF true false w) w = false →
      completes (.vrsout c t none) s (vecRan c t w fun i y fl =>
        rowsGiven rows (fun r => (slotMean rm (i.x.rsuSlot (sb + r))).1) (fun r => (i.second (i.x.rsuSlot (sb + r))).1) i y ∧
        cleared i y ∧ fl = each fun r => (slotMean rm (i.x.rsuSlot (sb + r))).2 ||| (i.second (i.x.rsuSlot (sb + r))).2)) ∧
    (vecRuns s c t w 0x73 → vBad (rsSpec tyAll 0x3F false false w) w = false →
      completes (.vrsclr c t) s (vecRan c t w fun i y fl => slots (fun _ => .empty) i y ∧ rest i y ∧ fl = 0)) ∧
    (vecRuns s c t w 0x74 → vBad (rsSpec tyFloat 0x3F false false w) w = false → sound →
      completes (.vsmxacc c t none) s (vecRan c t w fun i y fl =>
        slots (fun r => (smaxRow (i.x.rsuSlot (sb + r)) (vals i r)).1) i y ∧ rest i y ∧
        fl = each fun r => (smaxRow (i.x.rsuSlot (sb + r)) (vals i r)).2)) ∧
    (vecRuns s c t w 0x75 → vBad (rsSpec tyFloat 0x7F true false w) w = false →
      completes (.vsmxout c t none) s (vecRan c t w fun i y fl =>
        rowsGiven rows (fun r => (smaxOut rm (i.x.rsuSlot (sb + r))).1) (fun r => (smaxOut rm (i.x.rsuSlot (sb + r))).2.1) i y ∧
        cleared i y ∧ fl = each fun r => (smaxOut rm (i.x.rsuSlot (sb + r))).2.2)) ∧
    (vecRuns s c t w 0x76 → vBad (rsSpec tyFloat 0xBF false false w) w = false → sound →
      completes (.vscan c t none) s (vecRan c t w fun i y fl =>
        let row (r : Nat) := scanRow rm (typeFmt (vType w)) (i.carry r).val (vals i r)
        let n := perLane (vType w)
        scanned (fun l => laneOf (vType w) ((((row (l / wd)).1.drop (n * (l % wd))).take n).map (·.getD 0))) i y ∧
        (if bitOf (vImm w) 7 then slots (fun r => .scan (row r).2.2) i y else kept i y) ∧
        fl = each fun r => (row r).2.1)) ∧
    (vecRuns s c t w 0x77 → vBad (rsSpec 0x01 0xBF false false w) w = false → sound →
      completes (.vlscan c t none) s (vecRan c t w fun i y fl =>
        let row (r : Nat) := lscanRow (i.carry r).val ((upFrom (r * wd) wd).map fun l =>
          if i.active l then ((i.x.lane (vVa w) l).toNat, (i.b l).toNat) else (0x3F800000, 0))
        scanned (fun l => BitVec.ofNat 32 ((row (l / wd)).1.getD (l % wd) 0)) i y ∧
        (if bitOf (vImm w) 7 then
          slots (fun r => .scan (X64.of (fmtFP32.decode ((row r).1.getD (wd - 1) 0)))) i y else kept i y) ∧
        fl = each fun r => (row r).2))

/-! ### Exceptions, ends and launches (08, 09) -/

/-- RAISE makes the stream take E_ABORTED with XPC the word after it: the record is in SEXC, the stream goes to its
handler in state EXC, and the watchdog stops counting; with no handler the program ends: its streams are IDLE, SEXC keeps
the record, and no program is left on the core (R185, R243, R244, R246, R249, R250). -/
def Obligations.RaiseException : Prop :=
  (∀ (s : State) (c t : Nat) (w : W64),
     let k := s.core c
     let x := k.stream t
     let h := look 0 t k.xvec
     ccRuns s c t w 0xE3 → x.st = .run → h ≠ 0 →
     completes (.raise c t) s fun s s' =>
       onlyCore c s s' ∧
       s'.core c = { k with wdExc := some (k.wdExc.getD s.tbtime) }.setStream t { x with
         st := .exc, pc := h, pend := [], ending := false,
         sexc := BitVec.ofNat 64
           (0x60 * 2 ^ 56 + 9 * 2 ^ 52 + (x.pc + 1) % 16384 * 2 ^ 32 + 0xE3 * 2 ^ 24 + ccImm w % 2 ^ 24) }) ∧
  (∀ (s : State) (c t : Nat) (w : W64),
     let x := (s.core c).stream t
     ccRuns s c t w 0xE3 → x.st = .run → look 0 t (s.core c).xvec = 0 →
     completes (.raise c t) s fun _ s' =>
       (s'.core c).prog = none ∧ (∀ u, ((s'.core c).stream u).st = .idle) ∧
       fld ((s'.core c).stream t).sexc.toNat 63 56 = 0x60 ∧ (s'.core c).tc = [] ∧ (s'.core c).seq = [] ∧
       (s'.core c).running = [])

/-- A waiting exception is taken before the next issue, of several the one with the lowest SRC, and the others are
counted; a stream that has issued END and whose work has completed is
DONE; a lockstep mismatch ends the program and takes the core out of work. UGATE holds stream U at its gate until GNF
decides: a finite step goes on, a nonfinite one skips the update and ends the stream, an error ends it (R235, R241, R243,
R244, R247, R262 to R265, R521). That exceptions which wait together are taken as having reached the stream together is the
model's choice (log 61). -/
def Obligations.StreamEvents : Prop :=
  (∀ (s : State) (c t : Nat),
     let k := s.core c
     let x := k.stream t
     let h := look 0 t k.xvec
     s.coreRuns c = true → k.prog ≠ none → t < 3 →
     (∀ e es, x.pend = e :: es → x.st = .run → (t = 2 → k.gate = none) → h ≠ 0 →
       completes (.streamException c t) s fun s s' =>
         onlyCore c s s' ∧ ∃ e' ∈ e :: es, (∀ f ∈ e :: es, e'.src ≤ f.src) ∧
           s'.core c = { k with wdExc := some (k.wdExc.getD s.tbtime) }.setStream t
             { x with st := .exc, pc := h, pend := [], ending := false, sexc := sexcWord e' x.pc es.length }) ∧
     (x.ending = true → x.pend = [] → k.endClear t = true → k.cfgSeq = false →
       (∃ u, u < 3 ∧ u ≠ t ∧ k.named u = true ∧ (k.stream u).st ≠ .done) →
       completes (.streamDone c t) s fun s s' =>
         onlyStream c t s s' ∧ (s'.core c).stream t = { x with st := .done, ending := false }) ∧
     completes (.ccLockstepMismatch c t) s fun _ s' =>
       (s'.core c).prog = none ∧ (∀ u, ((s'.core c).stream u).st = .idle) ∧ (s'.agg.tst.has c || s'.agg.oos.has c) = true) ∧
  (∀ (s : State) (c : Nat),
     let k := s.core c
     (∀ w, ccRuns s c 2 w 0xB9 → ccImm w = 0xE08 → k.allStarted 2 = true →
       completes (.ugateWrite c) s fun s s' =>
         let v := k.u.reg (ccRb w)
         let u' := { k.u with pc := k.u.pc + 1 }
         let step := fld v.toNat 63 32
         let count := fld v.toNat 15 0
         onlyCore c s s' ∧
         s'.core c =
           if count = 0 then { k with u := u', ugsts := BitVec.ofNat 64 (step * 2 ^ 32 + 1) }
           else { k with u := u', ugsts := BitVec.ofNat 64 (step * 2 ^ 32 + 2 ^ 8), gate := some ⟨step, count⟩ }) ∧
     (∀ g, k.gate = some g → s.coreRuns c = true → k.prog ≠ none → k.u.pend = [] → k.u.st = .run → gnfValid k.gnf = true →
       gnfStep k.gnf = g.step → g.count ≤ gnfCnt k.gnf →
       completes (.gateDecide c) s fun s s' =>
         onlyCore c s s' ∧
         s'.core c =
           if gnfErr k.gnf then
             { k with gate := none, ugsts := BitVec.ofNat 64 (g.step * 2 ^ 32 + gnfEcode k.gnf)
                      u := { k.u with pc := k.u.pc - 1, ending := true } }
           else if gnfNf k.gnf then
             { k with gate := none, ugsts := BitVec.ofNat 64 (g.step * 2 ^ 32 + 2), skipcnt := k.skipcnt + 1
                      u := { k.u with pc := k.u.pc - 1, ending := true } }
           else { k with gate := none, ugsts := BitVec.ofNat 64 (g.step * 2 ^ 32) }))

/-- An opcode that its unit does not list has no effect but the rules' E_BADCMD: an exception that waits for the stream,
a vector fault, or the command's status (R69, R103, R170, R231). -/
def Obligations.UnlistedOpcodes : Prop :=
  ∀ (s : State) (c t : Nat),
    let k := s.core c
    let x := k.stream t
    let raised (src op info : Nat) (pf : Bool) (y : Stream) : Stream :=
      { y with pend := y.pend ++ [⟨Code.badCmd, src, op, info, pf⟩] }
    (∀ w, fetch s c t = .word w → w.getLsbD 63 = true → ccListed (ccOp w) = false → x.st = .run →
      completes (.unlistedCcOpcode c t) s fun s s' =>
        onlyStream c t s s' ∧ (s'.core c).stream t = raised 0 (ccOp w) 0 false x) ∧
    (∀ w e, fetch s c t = .word w → w.getLsbD 63 = false → vListed (vOp w) = false → x.vtgt = e → e < 2 → x.st = .run →
      (∀ d, d < 2 → k.accOf d = []) → look 0 e k.winIssued < 32 →
      completes (.unlistedVectorOpcode c t) s fun s s' =>
        let k' := s'.core c
        onlyCoreTly c s s' ∧ (∀ d, d < 2 → k'.accOf d = []) ∧
        (∀ d, look 0 d k'.winIssued = look 0 d k.winIssued + if d = e then 1 else 0) ∧
        { k' with accq := k.accq, winIssued := k.winIssued } =
          ({ k with issued := k.issued + 1 }.setVe e { k.ve e with faulted := true, vflt := vfltWord 0 Code.badCmd (vOp w) t }).setStream t
            (raised (1 + e) (vOp w) 0 false { x with pc := x.pc + 1 })) ∧
    (∀ a q e, s.coreRuns c = true → a < 2 → q < 2 → ((k.mxa a).half q).head = some e → (arOp e = 0 ∨ 6 < arOp e) →
      ((k.mxa a).half q).fenced = false →
      completes (.unlistedArrayOpcode c a q) s fun s s' =>
        arrEnds c a q e Code.badCmd (fun _ y => y) s s' ∧ (s'.core c).astat = k.astat) ∧
    (∀ e, s.coreRuns c = true → k.seHead = some e → e.stage = .queued → (seOp e.w0 = 0 ∨ 3 < seOp e.w0) →
      completes (.unlistedSeOpcode c) s fun s s' => s' = seDone s c e.id e.stream e.w0 Code.badCmd)

/-! ### Matrix arrays (03) -/

/-- LDST writes the stationary registers of every row and in-service column from the working store, an FP32 element as
its two BF16 halves in the two sets, and makes the set valid (R70, R71, R73, R79, R89). -/
def Obligations.ArrayLoad : Prop :=
  ∀ (s : State) (c a q : Nat) (e : ArrCmd),
    let m := (s.core c).mxa a
    let h := m.span q
    let cols := m.cols h
    arrRuns s c a q e 1 → ldstCheck e = none → (s.core c).drainWaits e.stream e.id = false →
    wsClean s c (ldstRanges e cols.length) →
    completes (.ldst c a q) s fun s s' =>
      let m' := (s'.core c).mxa a
      let bits (i j : Nat) : Nat := ldstElem s c e cols.length i j
      arrEnds c a q e Code.ok (fun x y => if x = h then y.loaded e else y) s s' ∧ (s'.core c).astat = (s.core c).astat ∧
      { m' with cells := m.cells, scales := m.scales, west := m.west, east := m.east } = m ∧
      (∀ i j, i < ldRows e → j < cols.length →
        if ldFmt e = 10 then
          look 0 (cellKey (arSet e) i (cols.getD j 0)) m'.cells = BitVec.ofNat 16 (fp32Halves (bits i j)).1 ∧
          look 0 (cellKey (1 - arSet e) i (cols.getD j 0)) m'.cells = BitVec.ofNat 16 (fp32Halves (bits i j)).2
        else
          look 0 (cellKey (arSet e) i (cols.getD j 0)) m'.cells = BitVec.ofNat 16 (bits i j) ∧
          look 0 (cellKey (arSet e) i (cols.getD j 0)) m'.scales = ldstScale s c e i j) ∧
      ∀ n, (∀ x i j, x ∈ ldstSets e → i < ldRows e → j < cols.length → n ≠ cellKey x i (cols.getD j 0)) →
        look 0 n m'.cells = look 0 n m.cells ∧ look 0 n m'.scales = look 0 n m.scales

/-- PASS sets or adds to the containers of its target rows and columns the column sums of its moving vectors, clears
their poison, marks them written since the last self-test, and joins its flags to ASTAT (R41 to R46, R58, R72, R73, R80,
R85, R520). -/
def Obligations.ArrayPass : Prop :=
  ∀ (s : State) (c a q : Nat) (e : ArrCmd),
    let k := s.core c
    let m := k.mxa a
    let h := m.span q
    let y := m.half h
    let cols := m.cols h
    let rows := m.poisonKeys h (paRow e) (paM e)
    let keys := passKeys m h e
    let charge := passCharge m.split (paFs e) (paFm e) (paRows e)
    let lv := max 1 y.level
    arrRuns s c a q e 2 → passCheck y cols.length e = none → k.drainWaits e.stream e.id = false →
    (paAcc e = true → ∀ n ∈ rows, m.poison.has n = false) →
    (paAcc e = true → ∀ n ∈ keys, m.accBad.has n = false) →
    k.prog ≠ none → levelBook charge lv ≤ k.unbooked + y.book →
    wsClean s c ((List.range (paM e)).flatMap (passRanges e)) →
    completes (.pass c a q none) s fun s s' =>
      let m' := (s'.core c).mxa a
      let cell (i j : Nat) : W64 × Byte :=
        passCell m e (cols.getD j 0)
          (if paAcc e then some (look 0 (accKey (paRow e + i) (m.base h + j)) m.acc) else none)
          (passValues s c e i) (passBits s c e i)
      arrEnds c a q e Code.ok
        (fun x z => if x = h then { z with level := lv, charge := charge, book := levelBook charge lv } else z) s s' ∧
      (∀ i j, i < paM e → j < paCols e → look 0 (accKey (paRow e + i) (m.base h + j)) m'.acc = (cell i j).1) ∧
      (∀ n, n ∉ keys → look 0 n m'.acc = look 0 n m.acc ∧ m'.accInt.has n = m.accInt.has n ∧
        m'.accBad.has n = m.accBad.has n) ∧
      (∀ n ∈ keys, m'.accInt.has n = decide (paFs e = 0) ∧ m'.accBad.has n = false) ∧
      (∀ n, m'.poison.has n = (m.poison.has n && !rows.contains n) ∧
        m'.written.has n = (m.written.has n || rows.contains n)) ∧
      { m' with acc := m.acc, accInt := m.accInt, accBad := m.accBad, poison := m.poison, written := m.written
                west := m.west, east := m.east } = m ∧
      (s'.core c).astat = k.astat ||| ((flagsOr ((List.range (paM e)).flatMap fun i =>
        (List.range (paCols e)).map fun j => (cell i j).2) &&& arrayFlagMask).setWidth 32 <<< (8 * a))

/-- DRAIN converts the containers of its rows and writes them to the working store or to registers of the vector engine
beside the array, clears them if CLR says so, and changes nothing else (R47 to R53, R74, R75, R106). -/
def Obligations.ArrayDrain : Prop :=
  ∀ (s : State) (c a q : Nat) (e : ArrCmd),
    let k := s.core c
    let m := k.mxa a
    let h := m.span q
    let w := (m.cols h).length
    let clr := e.w0.getLsbD 57
    let val (i j : Nat) : Nat × Byte :=
      let key := accKey (drRow e + i) (m.base h + j)
      drainValue e (m.accInt.has key) (rmOf (drRm e) (srDraw m.asrKey.toNat m.asrTag.toNat (e.w1.toNat + i * 128 + (m.base h + j))))
        (look 0 key m.acc)
    let off (i j : Nat) : Nat := arAddr e + i * m.width * drBytes e + j * drBytes e
    let cleared (n : Nat) : Prop := clr = true ∧ ∃ i j, i < drN e ∧ j < m.width ∧ n = accKey (drRow e + i) (m.base h + j)
    let done (s' : State) : Prop :=
      let m' := (s'.core c).mxa a
      { m' with acc := m.acc, accInt := m.accInt, accBad := m.accBad, written := m.written, west := m.west, east := m.east } = m ∧
      (∀ n, cleared n → look 0 n m'.acc = 0 ∧ m'.accInt.has n = false ∧ m'.accBad.has n = false) ∧
      (∀ n, m'.written.has n = (m.written.has n || (clr && (m.poisonKeys h (drRow e) (drN e)).contains n))) ∧
      (∀ n, ¬cleared n → look 0 n m'.acc = look 0 n m.acc ∧ m'.accInt.has n = m.accInt.has n ∧
        m'.accBad.has n = m.accBad.has n) ∧
      (s'.core c).astat = k.astat ||| ((flagsOr ((List.range (drN e)).flatMap fun i =>
        (List.range w).map fun j => (val i j).2) &&& arrayFlagMask).setWidth 32 <<< (8 * a))
    arrRuns s c a q e 3 → drainCheck e = none → (∀ n ∈ m.poisonKeys h (drRow e) (drN e), m.poison.has n = false) →
    (∀ i j, i < drN e → j < w → m.accBad.has (accKey (drRow e + i) (m.base h + j)) = false) →
    (drDest e = false → k.hitsDesc e.stream e.id (arAddr e) (drN e * m.width * drBytes e) = false →
      (∀ i j, i < drN e → j < w → off i j + drBytes e ≤ wsSize ∧
        ∀ b, b < drBytes e → s.wsBad.has (wsPa c (off i j + b) / 8) = false ∧ s.wsSoft.has (wsPa c (off i j + b) / 8) = false) →
      completes (.drain c a q) s fun s s' =>
        arrEnds c a q e Code.ok (fun _ y => y) s { s' with mem := s.mem, wsSoft := s.wsSoft } ∧ done s' ∧
        (∀ i j, i < drN e → j < w → s'.ws c (off i j) (drBytes e) = leBytes (drBytes e) (val i j).1) ∧
        ∀ p, (∀ i j, i < drN e → j < w → p < wsPa c (off i j) ∨ wsPa c (off i j) + drBytes e ≤ p) → s'.byte p = s.byte p) ∧
    (drDest e = true → (∀ x ∈ k.accOf a, e.id ≤ x.id) →
      completes (.drain c a q) s fun s s' =>
        let reg (i : Nat) : Nat := drReg e + (drSlot e + i) / 8
        let lane (i j : Nat) : Nat := 128 * ((drSlot e + i) % 8) + (m.base h + j)
        { s' with cores := s.cores } = s ∧ sameMemory s s' ∧ (∀ d, d ≠ c → s'.core d = s.core d) ∧ done s' ∧
        { s'.core c with mxa0 := k.mxa0, mxa1 := k.mxa1, ve0 := k.ve0, ve1 := k.ve1, astat := k.astat } = k ∧
        (∀ b, b < 2 → b ≠ a → (s'.core c).mxa b = k.mxa b ∧ (s'.core c).ve b = k.ve b) ∧
        { (s'.core c).ve a with v := (k.ve a).v, bad := (k.ve a).bad } = k.ve a ∧
        (∀ x, x < 2 → ((s'.core c).mxa a).half x =
          if x = q then
            { m.half x with queue := (m.half x).queue.map fun f => if f.id = e.id then { f with done := some Code.ok } else f }
          else m.half x) ∧
        (∀ i j, i < drN e → j < w → ((s'.core c).ve a).lane (reg i) (lane i j) = BitVec.ofNat 32 (val i j).1) ∧
        ∀ r l, l < 1024 → (∀ i j, i < drN e → j < w → ¬(r = reg i ∧ l = lane i j)) →
          ((s'.core c).ve a).lane r l = (k.ve a).lane r l)

/-- ZERO, MODE and AACK: all-zero containers with their poison cleared; the mode with all sets invalid (what a change of
mode makes of the ramp is the model's choice, log 110, and not stated); the fence lifted. A MODE that finds a half fenced
ends with E_ABORTED; a fenced half ends every command but AACK with E_ABORTED, without effect; a command with a reserved HALF ends
with E_BADPARAM (R69, R76, R79, R84, R85, R87). -/
def Obligations.ArrayControl : Prop :=
  (∀ (s : State) (c a q : Nat) (e : ArrCmd),
     let m := (s.core c).mxa a
     let h := m.span q
     let astat (s' : State) : Prop := (s'.core c).astat = (s.core c).astat
     let zeroed (n : Nat) : Prop := ∃ i j, i < drN e ∧ j < m.width ∧ n = accKey (drRow e + i) (m.base h + j)
     (arrRuns s c a q e 4 → drN e ≠ 0 → drRow e + drN e ≤ 512 →
       completes (.zero c a q) s fun s s' =>
         let m' := (s'.core c).mxa a
         arrEnds c a q e Code.ok (fun _ y => y) s s' ∧ astat s' ∧
         { m' with acc := m.acc, accInt := m.accInt, accBad := m.accBad, poison := m.poison, written := m.written
                   west := m.west, east := m.east } = m ∧
         (∀ n, zeroed n → look 0 n m'.acc = 0 ∧ m'.accInt.has n = false ∧ m'.accBad.has n = false) ∧
         (∀ n, ¬zeroed n → look 0 n m'.acc = look 0 n m.acc ∧ m'.accInt.has n = m.accInt.has n ∧
           m'.accBad.has n = m.accBad.has n) ∧
         ∀ n, m'.poison.has n = (m.poison.has n && !(m.poisonKeys h (drRow e) (drN e)).contains n) ∧
           m'.written.has n = (m.written.has n || (m.poisonKeys h (drRow e) (drN e)).contains n)) ∧
     (arrRuns s c a q e 5 → (∀ x ∈ m.west.queue ++ m.east.queue, e.id ≤ x.id) → m.west.fenced = false → m.east.fenced = false →
       completes (.modeCmd c a q) s fun s s' =>
         let inv (y : Half) : Half := { y with set0 := { y.set0 with valid := false }, set1 := { y.set1 with valid := false } }
         let ramp (x : Nat) : Half := ((s'.core c).mxa a).half x
         arrEnds c a q e Code.ok
           (fun x y => if m.split = e.w0.getLsbD 57 then inv y else
             { inv y with level := (ramp x).level, charge := (ramp x).charge, book := (ramp x).book, tails := (ramp x).tails }) s s' ∧
         astat s' ∧ { (s'.core c).mxa a with west := m.west, east := m.east } = { m with split := e.w0.getLsbD 57 }) ∧
     (arrRuns s c a q e 5 → (m.west.fenced = true ∨ m.east.fenced = true) →
       completes (.modeCmd c a q) s fun s s' =>
         arrEnds c a q e Code.aborted (fun _ y => y) s s' ∧ astat s' ∧
         { (s'.core c).mxa a with west := m.west, east := m.east } = m) ∧
     (arrRuns s c a q e 6 →
       completes (.aack c a q) s fun s s' =>
         arrEnds c a q e Code.ok (fun x y => if x = h then { y with fenced := false } else y) s { s' with agg := s.agg } ∧
         astat s' ∧ { (s'.core c).mxa a with west := m.west, east := m.east } = m ∧
         { s'.agg with tests := s.agg.tests } = s.agg)) ∧
  (∀ (s : State) (c a q : Nat) (e : ArrCmd),
     let m := (s.core c).mxa a
     s.coreRuns c = true → a < 2 → q < 2 → (m.half q).head = some e →
     (arOp e = 2 → (m.half q).fenced = true → (look .reset (testKey c a q) s.agg.tests).failNext = false →
       completes (.pass c a q none) s fun s s' =>
         arrEnds c a q e Code.aborted (fun _ y => y) s s' ∧ (s'.core c).astat = (s.core c).astat ∧
         { (s'.core c).mxa a with west := m.west, east := m.east } = m) ∧
     (arOp e = 4 → (m.half q).fenced = false → arHalf e = 3 →
       completes (.zero c a q) s fun s s' =>
         arrEnds c a q e Code.badParam (fun _ y => y) s s' ∧ (s'.core c).astat = (s.core c).astat ∧
         { (s'.core c).mxa a with west := m.west, east := m.east } = m))

/-- The oldest command of a queue, once it has run, leaves the queue: with a status below 0x10 nothing else happens,
with E_BADPARAM an exception waits for its stream. A column mask that was written while no program ran takes effect and
invalidates the sets. With no request before the ledger, the activity level rises by one after an interval in whose last
cycle a moving vector waited, where the next booking fits, stays where one waited at all, and else falls by one; its tails
fall by a level each interval (R68, R91, R93, R243, R486, R487). -/
def Obligations.ArrayEvents : Prop :=
  ∀ (s : State) (c a q : Nat),
    let k := s.core c
    let m := k.mxa a
    let x := m.half q
    let popped (es : List ArrCmd) : Core := k.setMxa a (m.setHalf q { x with queue := es })
    s.coreRuns c = true → a < 2 → q < 2 →
    (∀ n t w0 w1 code es, x.queue = ⟨n, t, w0, w1, some code⟩ :: es → code.toNat < 0x10 →
      completes (.arrayCommandComplete c a q) s fun s s' => onlyCore c s s' ∧ s'.core c = popped es) ∧
    (∀ n t w0 w1 es, x.queue = ⟨n, t, w0, w1, some Code.badParam⟩ :: es → (k.stream t).st = .run →
      completes (.arrayCommandComplete c a q) s fun s s' =>
        onlyCore c s s' ∧ s'.core c = (popped es).setStream t { k.stream t with
          pend := (k.stream t).pend ++
            [⟨Code.badParam, 3 + 2 * a + (if m.split ∧ q = 1 then 1 else 0), fld w0.toNat 63 60, fld w0.toNat 23 0, false⟩] }) ∧
    (k.prog = none → m.west.queue = [] → m.east.queue = [] → (m.pendLo ≠ none ∨ m.pendHi ≠ none) →
      completes (.colmaskApply c a) s fun s s' =>
        let inv (y : Half) : Half := { y with set0 := { y.set0 with valid := false }, set1 := { y.set1 with valid := false } }
        onlyCore c s s' ∧ s'.core c = k.setMxa a
          { m with colLo := m.pendLo.getD m.colLo, colHi := m.pendHi.getD m.colHi, pendLo := none, pendHi := none
                   west := inv m.west, east := inv m.east }) ∧
    ((q = 0 ∨ m.split = true) → x.level ≠ 0 → s.power.waiting = [] →
      let tails := (x.tails.map fun t => { t with level := t.level - 1, units := min t.units (levelBook t.charge (t.level - 1)) }).filter
        fun t => decide (t.units ≠ 0)
      let y : Half := { x with tails := tails }
      let rises : Prop := x.level < 8 ∧ levelBook x.charge (x.level + 1) ≤ k.unbooked + x.book
      let gives (work : FeederWork) (z : Half) : Prop :=
        completes (.rampIntervalEnd c a q work) s fun s s' => onlyCore c s s' ∧ s'.core c = k.setMxa a (m.setHalf q z)
      (rises → gives ⟨true, true⟩ { y with level := x.level + 1, book := levelBook x.charge (x.level + 1) }) ∧
      (¬rises → gives ⟨true, true⟩ y) ∧ gives ⟨false, true⟩ y ∧
      gives ⟨false, false⟩ { y with level := x.level - 1, book := min x.book (levelBook x.charge (x.level - 1)) })

/-! ### Stream engine, beats, ledger, copies (06 to 08, 17) -/

/-- A post adds 1 to its counter, and one that finds 0xFFFF leaves it there, sets TOVF and records a token-overflow event
(R183); a parked die's counters hold nothing (R481). A LOAD, a STORE or a POST at the head of the queue that passes its
checks is ready to open or to wait, and nothing else changes; one that fails a check completes with the status and moves
nothing. A POST whose earlier transfers have all ended leaves the queue: it makes its post if all of them landed, and
completes with E_ABORTED if one did not (R170, R171, R183, R201). -/
def Obligations.SeCommandChecks : Prop :=
  (∀ (s : State) (c i : Nat),
     let k := s.core c
     s.dieState (dieOf c) ≠ .parked →
     (k.tcOf i ≠ 0xFFFF →
       onlyCore c s (post s c i) ∧ (∀ j, ((post s c i).core c).tcOf j = if j = i then k.tcOf i + 1 else k.tcOf j) ∧
       { (post s c i).core c with tc := k.tc } = k) ∧
     (k.tcOf i = 0xFFFF →
       (∀ j, ((post s c i).core c).tcOf j = k.tcOf j) ∧ ((post s c i).core c).tovf = true ∧
       look .zero (s.agg.wrptr.toNat % 1024) (post s c i).agg.ring =
         (Event.record ⟨0x27, 0, .core, c, 0, 0, i, 0⟩ s.tbtime s.agg.wrptr))) ∧
  (∀ (s : State) (c : Nat) (e : SeCmd),
     let k := s.core c
     let off := seDesc e.w1
     let bs := s.ws c off 128
     let staged (st : SeStage) (s s' : State) : Prop :=
       onlyCore c s s' ∧ s'.core c = { k with seq := k.seq.map fun x => if x.id = e.id then { x with stage := st } else x }
     let ready (load : Bool) : Prop :=
       seCheck s e.w0 e.w1 = none ∧ off + 128 ≤ wsSize ∧ k.drainWaits e.stream e.id = false ∧ wsClean s c [(off, 128)] ∧
       descCheck (descOf bs) load (seLaddr e.w0) = none
     s.coreRuns c = true → k.seHead = some e → e.stage = .queued →
     (seOp e.w0 = 1 → ready true → completes (.seLoad c) s (staged (.checked bs))) ∧
     (seOp e.w0 = 2 → ready false → completes (.seStore c) s (staged (.checked bs))) ∧
     (seOp e.w0 = 3 → seCheck s e.w0 e.w1 = none → completes (.sePost c) s (staged .posting)) ∧
     ∀ code, seOp e.w0 = 1 → seCheck s e.w0 e.w1 = some code → (k.stream e.stream).st = .run →
       completes (.seLoad c) s fun s s' =>
         sameMemory s s' ∧ (s'.core c).running = k.running.filter (fun x => x.id != e.id) ∧
         (∀ i, (s'.core c).tcOf i = k.tcOf i) ∧
         ((s'.core c).stream e.stream).pend =
           (k.stream e.stream).pend ++ [⟨code, 7, seOp e.w0, seLaddr e.w0, sePf e.w0⟩]) ∧
  (∀ (s : State) (c : Nat) (e : SeCmd),
     let k := s.core c
     let n := sePcore e.w0
     s.coreRuns c = true → k.seq.find? (fun e => e.stage == .posting && e.waitFor.isEmpty) = some e →
     (e.bad = false → sePen e.w0 = true → s.dieState (dieOf n) ≠ .parked → (s.core n).tcOf (sePctr e.w0) ≠ 0xFFFF →
       completes (.postComplete c) s fun s s' =>
         (s'.core n).tcOf (sePctr e.w0) = (s.core n).tcOf (sePctr e.w0) + 1 ∧
         (s'.core c).seq.map (·.id) = (k.seq.filter fun x => x.id != e.id).map (·.id) ∧ sameMemory s s') ∧
     (e.bad = true → (k.stream e.stream).st = .run →
       completes (.postComplete c) s fun s s' =>
         (∀ i, (s'.core c).tcOf i = k.tcOf i) ∧ sameMemory s s' ∧
         ((s'.core c).stream e.stream).pend =
           (k.stream e.stream).pend ++ [⟨Code.aborted, 7, seOp e.w0, seLaddr e.w0, sePf e.w0⟩]))

/-- The command at the head takes a slot and its window once both are free and no running transfer conflicts; its pages
are translated first and a store reads its near bytes. A transfer that meets no error lands: every byte it writes is in
place, no other byte has changed, its slot and window are free, and its post is made. A LOAD that meets an error stops:
it leaves its slot, an exception waits for its stream, and of the bytes it was to write some may be in place and no other
byte changed (R170 to R173, R183, R199, R204, R207, R209, R210, R243). -/
def Obligations.Transfers : Prop :=
  (∀ (s s1 : State) (c : Nat) (e : SeCmd) (bs : List Byte) (xl : Table Nat),
     let k := s.core c
     let d := descOf bs
     let la := seLaddr e.w0
     let load := seOp e.w0 == 1
     s.coreRuns c = true → k.seHead = some e → e.stage = .checked bs → k.running.length < 32 →
     k.blocks + 2 ^ seWin e.w0 ≤ 64 → (∀ t ∈ k.running, transfersConflict e.w0 d t.w0 (descOf t.desc) = false) →
     xlate s (k.ctx.getD 0) (if load then d.loadReads la else []) (if load then [] else d.storeWrites la) = (s1, .ok xl) →
     (load = false → wsClean s1 c ((d.storePlan la).map fun p => (p.1, d.esize))) →
     completes (.transferOpen c) s fun s s' =>
       ∃ t : Transfer, (s'.core c).running = k.running ++ [t] ∧ (s'.core c).seq = k.seq.filter (fun x => x.id != e.id) ∧
         t.id = e.id ∧ t.stream = e.stream ∧ t.w0 = e.w0 ∧ t.w1 = e.w1 ∧ t.desc = bs ∧ t.xl = xl ∧ t.tail = false ∧
         t.burst = k.burstUnits ∧ t.stop = none ∧ sameMemory s s' ∧
         (load = false → ∀ p ∈ d.storePlan la, ∀ i < d.esize, look 0 (p.1 + i) t.data = s.byte (wsPa c (p.1 + i)))) ∧
  (∀ (s : State) (c id : Nat) (t : Transfer),
     let k := s.core c
     s.coreRuns c = true → k.transfer id = some t → (landing s c t).2 = none →
     completes (.transferLanded c id) s fun s s' =>
       (∀ a, s'.byte a = look 0 a (putAll 0 (transferMoves s c t) s.mem)) ∧
       (s'.core c).running = k.running.filter (fun x => x.id != id) ∧
       (∀ e ∈ (s'.core c).seq, id ∉ e.waitFor) ∧
       (sePen t.w0 = true → s.dieState (dieOf (sePcore t.w0)) ≠ .parked → (s.core (sePcore t.w0)).tcOf (sePctr t.w0) ≠ 0xFFFF →
         (s'.core (sePcore t.w0)).tcOf (sePctr t.w0) = (s.core (sePcore t.w0)).tcOf (sePctr t.w0) + 1)) ∧
  (∀ (s : State) (c id moved : Nat) (t : Transfer) (code : Byte),
     let k := s.core c
     s.coreRuns c = true → k.transfer id = some t → seOp t.w0 = 1 → (k.stream t.stream).st = .run → 0x10 ≤ code.toNat →
     (readCheck s (loadSources (descOf t.desc) (seLaddr t.w0) t.xl)).2 = some code →
     completes (.transferError c id moved) s fun s s' =>
       (∀ a, s'.byte a = s.byte a ∨ (a, s'.byte a) ∈ transferMoves s c t) ∧
       (s'.core c).running = k.running.filter (fun x => x.id != id) ∧
       ((s'.core c).stream t.stream).pend = (k.stream t.stream).pend ++ [⟨code, 7, 1, seLaddr t.w0, sePf t.w0⟩])

/-- A beat starts once its conditions hold: BEAT_CNT rises by one, the waited counters fall by one, the pairs with EN
swap, the streams resume after their SWAPs, and the watchdog measures from that start. A pair is written, the compute set
retires and its grant is released, the request joins the ledger's order and counts the units it is clipped to once it
fits, and those are the units it is granted. A rate window's end releases the engine's units after 32 issuing cycles or
fewer, and no others. The watchdog halts a core whose last beat start lies LIMIT microseconds back, unless its next beat
starts in that cycle, and the wait bits and TWAIT keep showing what it waited on
(R176, R177, R179 to R181, R185, R186, R188, R482 to R487). -/
def Obligations.Beats : Prop :=
  (∀ (s : State) (c : Nat),
     let k := s.core c
     s.works c = true → k.beatReady = true → (k.lreq = .granted ∨ k.unitsAsked = 0) →
     completes (.beatStart c) s fun s s' =>
       let k' := s'.core c
       let half (n : Nat) : W64 := match look none n k.dbPend with | some v => v &&& 0x43FFFFFFFF01FFFF | none => look 0 n k.db
       onlyCoreTly c s s' ∧ k'.beat = k.beat + 1 ∧ k'.csRetired = false ∧ k'.lreq = .notSent ∧ k'.prog = k.prog ∧
       k'.wdStart = s.tbtime ∧ k'.wdExc = none ∧
       (∀ i, i < 64 → k'.tcOf i = if k.waitMask.getLsbD i then k.tcOf i - 1 else k.tcOf i) ∧
       (∀ t, k'.stream t = if (k.stream t).st = .swap then { k.stream t with st := .run, mask := 0, units := 0 } else k.stream t) ∧
       (wfTable none k.dbPend = true → ∀ n, n < 16 →
         look 0 n k'.db = if (half n).getLsbD 62 then half n ^^^ 0x8000000000000000 else half n)) ∧
  (∀ (s : State) (c : Nat),
     let k := s.core c
     let who (l : List LedgerReq) : List Requester := l.map (·.who)
     (∀ n v, s.powered = true → s.coreOn c = true → n < 16 → k.prog ≠ none →
       completes (.dbWrite c n v) s fun s s' =>
         onlyCore c s s' ∧ { s'.core c with dbPend := k.dbPend } = k ∧
         (let old := (look none n k.dbPend).getD (look 0 n k.db)
          look none n (s'.core c).dbPend = some ((old &&& ~~~0x43FFFFFFFF01FFFF) ||| (v &&& 0x43FFFFFFFF01FFFF))) ∧
         ∀ m, m ≠ n → look none m (s'.core c).dbPend = look none m k.dbPend) ∧
     (s.works c = true → k.swapped = true → k.computeEmpty = true → k.csRetired = false →
       completes (.computeSetRetired c) s fun s s' =>
         (s'.core c).csRetired = true ∧ (s'.core c).grant = 0 ∧ sameMemory s s') ∧
     (s.works c = true → k.beatReady = true → k.lreq = .notSent → k.unitsAsked ≠ 0 →
       completes (.ledgerRequestSend c) s fun s s' =>
         (s'.core c).lreq = .sent ∧ (s'.core c).lgReq = BitVec.ofNat 16 (min k.unitsAsked 65535) ∧
         who s'.power.waiting = who s.power.waiting ++ [.core c] ∧ sameMemory s s' ∧
         (let r : LedgerReq := ⟨.core c, k.unitsAsked, false, none⟩
          let s1 := s.setCore c { k with lreq := .sent, denied := false, lgReq := BitVec.ofNat 16 (min k.unitsAsked 65535) }
          let s2 := { s1 with power := { s.power with waiting := [r] } }
          s.power.waiting = [] → fits s2 r = true → s'.power.waiting = [{ r with fit := some (clipTo s2 r) }])) ∧
     (∀ r u, s.power.waiting.find? (fun r => decide (r.who = .core c)) = some r → r.fit = some u →
       completes (.ledgerGrant (.core c)) s fun s s' =>
         (s'.core c).grant = u ∧ (s'.core c).lreq = .granted ∧
         (s'.core c).clips = (if u < r.units then satInc 16 k.clips else k.clips) ∧
         who s'.power.waiting = (who s.power.waiting).filter (fun w => decide (w ≠ .core c)) ∧ sameMemory s s') ∧
     (∀ e n, s.coreRuns c = true → e < 2 → look 0 e k.winIssued = n →
       (n ≤ 32 → completes (.veRateWindowEnd c e n) s fun s s' =>
         (s'.core c).ve e = { k.ve e with book := 0, tail := 0 } ∧ look 0 e (s'.core c).winIssued = 0 ∧ sameMemory s s') ∧
       (32 < n → completes (.veRateWindowEnd c e n) s fun s s' =>
         onlyCore c s s' ∧ s'.core c = { k with winIssued := put 0 e 0 k.winIssued })) ∧
     (s.works c = true → k.wdLimit ≠ 0 → k.wdExc = none → k.wdLimit.toNat * 1000 ≤ (s.tbtime - k.wdStart).toNat →
       ¬ (k.beatReady = true ∧ (k.lreq = .granted ∨ k.unitsAsked = 0)) →
       completes (.watchdogExpiry c) s fun _ s' =>
         (s'.core c).halted = true ∧ (s'.core c).prog = none ∧ (∀ t, ((s'.core c).stream t).st = .idle) ∧
         (s'.core c).bsts &&& waitBits = k.bsts &&& waitBits ∧ (s'.core c).twait = k.twait))

/-- The copy at the head reads its source elements, and its completion puts every destination byte in place and changes
no other (R204, R212 to R217). -/
def Obligations.Copies : Prop :=
  (∀ (s s1 : State) (c : Nat) (e : CopyCmd) (es : List CopyCmd) (xl : Table Nat),
    let k := s.core c
    let a := descOf (s.ws c (cpSdesc e.w0) 128)
    let b := descOf (s.ws c (cpDdesc e.w1) 128)
    let plan := copyPlan a b (cpPerm e.w0)
    s.coreRuns c = true → k.cpq = e :: es → k.copy = none → k.drainWaits e.stream e.id = false →
    copyCheck s e.w0 e.w1 = none → wsClean s c [(cpSdesc e.w0, 128), (cpDdesc e.w1, 128)] →
    copyDescCheck a b (cpPerm e.w0) = none →
    (inPlace a b (cpPerm e.w0) = true ∨ overlapBytes (hull (copyReads a plan)) (hull (copyWrites b plan)) = 0) →
    xlate (s.setCore c { k with cpq := es }) e.ctx (copyReads a plan) (copyWrites b plan) = (s1, .ok xl) →
    (readCheck s1 ((copyReads a plan).map (viaXl xl))).2 = none →
    completes (.copy c) s fun s s' =>
      sameMemory s s' ∧ (s'.core c).cpq = es ∧ (s'.core c).cpStaging = false ∧
      ∃ r, (s'.core c).copy = some r ∧ r.cmd = e ∧ r.stop = none ∧
        r.writes = plan.flatMap fun q => (List.range b.esize).zipWith
          (fun i x => (viaXl xl (b.target q.1 + i), x)) (sourceBytes s xl a.esize (a.source q.2))) ∧
  (∀ (s : State) (c : Nat) (r : CopyRun),
    s.coreRuns c = true → (s.core c).copy = some r → r.stop = none → (writeStop s r.writes).2 = none →
    completes (.copyComplete c) s fun s s' =>
      (∀ a, s'.byte a = look 0 a (putAll 0 r.writes s.mem)) ∧ (s'.core c).copy = none ∧ (s'.core c).cpLast = Code.ok)

/-- A CSRW of CECMD queues its value; the oldest one whose transfers have landed triggers a plan, issues a put or a get,
or leaves only CEFLT and its event (R384 to R387, R401, R414). -/
def Obligations.CollectiveCommands : Prop :=
  ∀ (s : State) (c t : Nat),
    let k := s.core c
    let x := k.stream t
    (∀ w, ccRuns s c t w 0xB9 → ccImm w = 0x1000 → k.allStarted t = true → k.cecmd.length < 8 →
      completes (.csrw c t) s fun s s' =>
        onlyCore c s s' ∧
        s'.core c = ({ k with cecmd := k.cecmd ++ [CeWrite.mk t (k.ctx.getD 0) (x.reg (ccRb w)) (k.unlanded t)] } : Core).setStream t
          { x with pc := x.pc + 1 }) ∧
    ∀ (w : CeWrite) (ws : List CeWrite),
      let v := w.val
      let e := ccmCe v
      let h := ccmHandle v
      let ce := s.ce e
      k.cecmd = w :: ws → s.works c = true → w.waits = [] →
      (∀ p, ccmKind v = 0 → ccmReserved v = false → ce.plan h = some p → p.ctx = w.ctx → look [] h ce.waiting = [] →
        completes (.cecmdTrigger c) s fun s s' =>
          s' = (s.setCore c { k with cecmd := ws }).setCe e { ce with waiting := put [] h [(⟨ccmInfo v, 1⟩ : Waiting)] ce.waiting }) ∧
      (ccmKind v = 1 → ccmReserved v = false → ce.xfers.length < 4096 → ccmInfo v % 64 = 0 → ccmInfo v + 64 ≤ wsSize →
        wsClean s c [(ccmInfo v, 64)] →
        completes (.cecmdXfer c) s fun s s' =>
          s' = issueXfer (s.setCore c { k with cecmd := ws }) e w.ctx (.core c (ccmInfo v))
            (wordsOf (s.ws c (ccmInfo v) 64) 8)) ∧
      (ccmReserved v = true →
        completes (.cecmdReservedKind c) s fun s s' =>
          let f := ceFlt Code.badParam 0 h c (ccmInfo v)
          s' = record ((s.setCore c { k with cecmd := ws }).setCe e { ce with flt := f })
            ⟨0x48, 0, .ce, e, 0, Code.badParam, f.toNat, 0⟩)

/-- A launch that has reached an idle core and passes its checks starts its program: the code and the segments are in
place, the named streams start at their entries with s1 to s3, the program is the core's, its watchdog measures from
now on, and a failed self-test of its arrays is answered (R219, R224 to R228, R235, R520). -/
def Obligations.CoreLaunches : Prop :=
  ∀ (s s1 s2 s3 s4 : State) (c : Nat) (lr : LaunchReq) (ls : List LaunchReq) (xl xl' : Table Nat),
    let k := s.core c
    let s0 := (s.setCore c { k with launches := ls }).modCore c Core.applyPending
    let im := imageOf (vaBytes s xl lr.va 192)
    let m0 := k.mxa0.applyMask.prepare (fld im.cfg 7 6 == 2)
    let m1 := k.mxa1.applyMask.prepare (fld im.cfg 7 6 == 2)
    k.launches = lr :: ls → s.hasCore c = true → s.agg.safe = false → s.dieState (dieOf c) = .run →
    s.parking (dieOf c) = false → s.agg.oos.has c = false → s.agg.tst.has c = false → k.prog = none →
    k.arraysIdle = true → k.prevCtx = some lr.ctx →
    xlate s0 lr.ctx (upFrom lr.va 192) [] = (s1, .ok xl) →
    readCheck s1 ((upFrom lr.va 192).map (viaXl xl)) = (s2, none) → im.check (s2.core c) = none →
    xlate ((s2.answerTests c).modCore c fun k => { k with mxa0 := m0, mxa1 := m1, prevCtx := some lr.ctx }) lr.ctx (im.reads lr.va) [] =
      (s3, .ok xl') →
    readCheck s3 ((im.reads lr.va).map (viaXl xl')) = (s4, none) →
    completes (.coreLaunch c) s fun s s' =>
      let k' := s'.core c
      k'.prog = some ⟨lr.pid, lr.ctx, lr.arg⟩ ∧ k'.launches = ls ∧ k'.codeLen = im.codeLen ∧ k'.beat = 0 ∧
      k'.wdStart = s.tbtime ∧ k'.wdExc = none ∧
      (∀ key, testKey c 0 0 ≤ key → key < testKey c 0 0 + 4 → (look .reset key s'.agg.tests).failNext = false) ∧
      k'.cfg = BitVec.ofNat 64 im.cfg ∧ (∀ a, s'.byte a = look 0 a (putAll 0 (im.data s c xl' lr.va) s.mem)) ∧
      (∀ i, i < im.codeLen → look 0 i k'.code = BitVec.ofNat 64 (leNat (vaBytes s xl' (lr.va + 192 + 8 * i) 8))) ∧
      (∀ t, t < 3 → bitOf (fld im.cfg 2 0) t = true →
        let x := k'.stream t
        x.pc = im.entry t ∧ (x.st = .run ∨ x.st = .wait) ∧ (bitOf im.cfg 3 = false → x.st = .run) ∧
        x.vtgt = 0 ∧ x.sexc = 0 ∧ x.reg 1 = BitVec.ofNat 64 c ∧ x.reg 2 = BitVec.ofNat 64 t ∧ x.reg 3 = lr.arg ∧
        ∀ r, 3 < r → x.reg r = 0) ∧
      ∀ t, t < 3 → bitOf (fld im.cfg 2 0) t = false → (k'.stream t).st = .idle

/-! ### The host interface (16) -/

/-- A dispatched packet is off its ring: the head and the expected sequence have moved on by one, the packet is recorded
under its number, and neither memory nor cores have changed. A packet that completes leaves one reply, with its TAG, SEQ,
status and detail, at the end of its SQ's completion queue, and nothing else changes; a silent packet leaves none.
Packets that are refused complete without effect: a function without the right with E_PERM, reserved bits with
E_BADPARAM, an unlisted opcode with E_BADCMD (R448, R453, R457 to R460). -/
def Obligations.Packets : Prop :=
  (∀ (s t : State) (q pid : Nat) (p : Pkt), pktFront s q pid p t →
     (t.sq q).head = ((s.sq q).head + 1) % (s.sq q).entries ∧ (t.sq q).expSeq = ((s.sq q).expSeq + 1) % 65536 ∧
     t.pkt pid = some p ∧ t.host.pidNext = pid + 1 ∧ sameMemory s t ∧ t.cores = s.cores) ∧
  (∀ (s : State) (pid : Nat) (p : Pkt) (status : Byte) (detail : W32),
     let c := (s.sq p.sq).cq
     let k := s.cq c
     s.pkt pid = some p → p.work ≠ .replied → (∀ e ∈ s.host.sqs, e.2.deleting = none) →
     (p.silent = false → k.owner = some p.ctx →
       completePkt s pid status detail =
         (s.setCq c { k with replies := k.replies ++ [⟨pid, p.sq, p.tag, p.seq, status, detail, p.irq⟩] }).setPkt pid
           (some { p with work := .replied })) ∧
     (p.silent = true → completePkt s pid status detail = s.setPkt pid none)) ∧
  (∀ (s t : State) (q pid : Nat) (p : Pkt), pktFront s q pid p t → firmwareHalted s opLedgerSet p.ctx = false →
     (p.opcode = 0x84 → hasRight t p.ctx .steward = false → becomes (.ledgerSet q) s (completePkt t pid Code.perm 0)) ∧
     (p.opcode = 0x84 → hasRight t p.ctx .steward = true → opLedgerSet.formOk p.words = false →
       becomes (.ledgerSet q) s (completePkt t pid Code.badParam 0)) ∧
     ((∀ o ∈ opList, o.code ≠ p.opcode) → becomes (.unlistedPacketOpcode q) s (completePkt t pid Code.badCmd 0)))

/-- The effects of NOP, TOKEN_POST, QWAIT, HBM_RESERVE, HBM_RELEASE and the steward's packets (R326, R327, R449, R464,
R467). -/
def Obligations.PacketEffects : Prop :=
  ∀ (s t : State) (q pid : Nat) (p : Pkt),
    let done (cmd : Instr) (u : State) : Prop := becomes cmd s (completePkt u pid Code.ok 0)
    let stew (port : Nat) : State :=
      { t with host := { t.host with stValid := true, stPort := port, stExpired := false, stSince := t.tbtime } }
    let k := rsvStack p
    let u := rsvUnits p
    let r := (t.stack k).rsvOf p.ctx
    (pktRuns s q opNop pid p t → done (.nop q) t) ∧
    (pktRuns s q opTokenPost pid p t →
      let c := fld (p.w 1) 63 57
      let n := fld (p.w 1) 15 0
      coresCheck t p.ctx [c] = none →
      (n = 0 → becomes (.tokenPost q) s (completePkt t pid Code.okEmpty 0)) ∧
      (n ≠ 0 → done (.tokenPost q) (postMany t c (fld (p.w 1) 56 51) n))) ∧
    (pktRuns s q opQwait pid p t →
      let m := fld (p.w 1) 43 32
      let n := fld (p.w 1) 15 0
      m ≠ p.sq → holdsSq t p.ctx m = true →
      (seqDone t m n = true → done (.qwait q) t) ∧
      (seqDone t m n = false → becomes (.qwait q) s (t.setPkt pid (some { p with work := .qwait m n })))) ∧
    (pktRuns s q opHbmReserve pid p t → t.hasStack k = true → u ≤ 48 → u ≠ 0 → r.held + u ≤ r.limit →
      (t.stack k).reserved + u ≤ 48 →
      done (.hbmReserve q) (t.setStack k { t.stack k with
        rsv := put .reset p.ctx { r with held := r.held + u } (t.stack k).rsv })) ∧
    (pktRuns s q opHbmRelease pid p t → t.hasStack k = true → u ≤ 48 → u ≠ 0 → u ≤ r.held →
      done (.hbmRelease q) (t.setStack k { t.stack k with
        rsv := put .reset p.ctx { r with held := r.held - u } (t.stack k).rsv })) ∧
    (pktRuns s q opStewardRenew pid p t → done (.stewardRenew q) (stew t.host.stPort)) ∧
    (pktRuns s q opStewardClaim pid p t → (t.host.stValid = false ∨ t.host.stExpired = true) →
      done (.stewardClaim q) (stew (portOf p.ctx))) ∧
    (pktRuns s q opStewardHandoff pid p t → (t.port (1 - portOf p.ctx)).up = true →
      done (.stewardHandoff q) (stew (1 - portOf p.ctx))) ∧
    (s.host.stValid = true → becomes .stewardLeaseExpiry s { s with host := { s.host with stExpired := true } })

/-- Queues: doorbells, creation, deletion and reset, the admin queues, and the writing of a reply with the phase of its
ring (R454 to R456, R459 to R461, R475). -/
def Obligations.QueueCommands : Prop :=
  ∀ (s : State) (ctx q : Nat) (v : W64),
    let i := fld v.toNat 16 0
    let x := s.sq q
    let k := s.cq q
    let n := (i + k.entries - k.head) % k.entries
    let y := s.ctx ctx
    let m := fld v.toNat 12 0
    (hostServed s ctx = true → q < 4096 →
      (holdsSq s ctx q = true → i < x.entries → becomes (.sqTailDoorbell ctx q v) s (s.setSq q { x with tail := i })) ∧
      (holdsSq s ctx q = false →
        becomes (.sqTailDoorbell ctx q v) s (record s ⟨0x01, 0, .pcie, ctx, 0, 0, 8 * q, 2 + 4 + 16 * 8⟩)) ∧
      (holdsCq s ctx q = true → i < k.entries → n ≤ k.used →
        becomes (.cqHeadDoorbell ctx q v) s (s.setCq q { k with head := i, used := k.used - n }))) ∧
    (hostServed s ctx = true → v.getLsbD 63 = true → y.aen = false → pow2In m 16 4096 = true →
      becomes (.adminQueueEnable ctx v) s
        (((s.setCtx ctx { y with aen := true, asize := m }).setSq ctx
          ⟨some ctx, y.asqBase.toNat, true, m, 0, 0, 0, false, ctx, none⟩).setCq ctx
          ⟨some ctx, y.acqBase.toNat, true, m, true, 0, true, 0, 0, 0, [], none⟩)) ∧
    (hostServed s ctx = true → v.getLsbD 63 = false → y.aen = true →
      completes (.adminQueueDisable ctx v) s fun _ s' =>
        (s'.ctx ctx).aen = false ∧ s'.sq ctx = .free ∧ s'.cq ctx = .free ∧ s'.cores = s.cores ∧ sameMemory s s') ∧
    (∀ s1 o r rs, k.owner = some o → k.replies = r :: rs → k.used < k.entries → k.deleting = none →
      writeSpace s o k.host (k.ring + 16 * k.idx) (replyBytes r k.phase s.tbtime) = (s1, .ok []) →
      completes (.statusReplyWrite q) s fun _ s' =>
        (s'.cq q).used = k.used + 1 ∧ s'.pkt r.pid = none ∧
        (s'.cq q).idx = (if k.entries ≤ k.idx + 1 then 0 else k.idx + 1) ∧
        (s'.cq q).phase = (if k.entries ≤ k.idx + 1 then !k.phase else k.phase) ∧ sameMemory s1 s' ∧
        (k.ien = true → r.irq = true → (o, k.vec) ∈ s'.host.msix)) ∧
    ∀ t pid p,
      (pktRuns s q opQCreate pid p t →
        let w := p.w 2
        let e := fld w 16 0
        let isCq := bitOf w 63
        pow2In e 16 65536 = true → p.w 1 % 4096 = 0 → bitOf w 62 = true →
        (∀ f, isCq = false → holdsCq t p.ctx (fld w 47 36) = true → poolSqs t p.ctx < (t.ctx p.ctx).sqLim → freeSq t = some f →
          becomes (.qCreate q) s (completePkt
            (t.setSq f ⟨some p.ctx, p.w 1, true, e, 0, 0, 0, false, fld w 47 36, none⟩) pid Code.ok (BitVec.ofNat 32 f))) ∧
        (∀ f, isCq = true → poolCqs t p.ctx < (t.ctx p.ctx).cqLim → vectorOk t p.ctx (fld w 31 21) = true → freeCq t = some f →
          becomes (.qCreate q) s (completePkt
            (t.setCq f ⟨some p.ctx, p.w 1, true, e, bitOf w 61, fld w 31 21, true, 0, 0, 0, [], none⟩) pid Code.ok
            (BitVec.ofNat 32 f)))) ∧
      (pktRuns s q opQDelete pid p t →
        let d := fld (p.w 1) 11 0
        32 ≤ d → bitOf (p.w 1) 63 = true → holdsCq t p.ctx d = true → (t.cq d).replies = [] →
        (∀ e ∈ t.host.sqs, e.2.owner = some p.ctx → e.2.cq ≠ d) →
        becomes (.qDelete q) s (completePkt ((t.setCq d { t.cq d with deleting := some pid }).setCq d .free) pid Code.ok 0)) ∧
      (pktRuns s q opQReset pid p t →
        let d := fld (p.w 1) 43 32
        d ≠ p.sq → holdsSq t p.ctx d = true →
        completes (.qReset q) s fun _ s' =>
          (s'.sq d).expSeq = fld (p.w 1) 15 0 ∧ (s'.sq d).error = false ∧ (s'.sq d).head = (s'.sq d).tail)

/-- Contexts: a root table, the translation cache, a teardown, aborted programs, quotas, reclaimed work, cores and jobs
(R246, R391, R448, R452, R453, R468 to R471). -/
def Obligations.ContextCommands : Prop :=
  ∀ (s t : State) (q pid : Nat) (p : Pkt),
    let done (cmd : Instr) (u : State) : Prop := becomes cmd s (completePkt u pid Code.ok 0)
    let n := fld (p.w 1) 4 0
    let own : Prop := portOf n = portOf p.ctx ∧ functionEnabled t n = true
    let lim := fld (p.w 2) 31 0
    (pktRuns s q opCtxSetroot pid p t → own → rootOk t (fld (p.w 2) 47 0) = true →
      done (.ctxSetroot q) (t.setCtx n { t.ctx n with root := some (fld (p.w 2) 47 0) })) ∧
    (pktRuns s q opXlateInval pid p t →
      let m := fld (p.w 3) 4 0
      functionEnabled t m = true → m = p.ctx → bitOf (p.w 2) 63 = true →
      done (.xlateInval q) (t.setCtx m { t.ctx m with xc := [] })) ∧
    (pktRuns s q opCtxTeardown pid p t → own → n ≠ p.ctx →
      completes (.ctxTeardown q) s fun _ s' =>
        (s'.ctx n).en = false ∧ (s'.ctx n).root = none ∧ (s'.ctx n).aen = false ∧ (s'.ctx n).xc = [] ∧ (∀ m, (s'.sq m).owner ≠ some n) ∧
        (∀ m, (s'.cq m).owner ≠ some n)) ∧
    (pktRuns s q opProgAbort pid p t →
      let cs := maskCores (p.w 1) (fld (p.w 2) 31 0)
      cs ≠ [] → (∀ c ∈ cs, t.hasCore c = true ∧ (t.ctx p.ctx).cores.getLsbD c = true) →
      completes (.progAbort q) s fun _ s' => ∀ c ∈ cs, ∀ r, (s'.core c).prog = some r → r.ctx ≠ p.ctx) ∧
    (pktRuns s q opQuotaSet pid p t →
      (qsKind p = 0 → lim ≤ 4064 → done (.quotaSet q) (t.setCtx n { t.ctx n with sqLim := lim })) ∧
      (qsKind p = 1 → lim ≤ 4064 → done (.quotaSet q) (t.setCtx n { t.ctx n with cqLim := lim })) ∧
      (qsKind p = 2 → otherVecs t n + lim ≤ 2048 → done (.quotaSet q) (t.setCtx n { t.ctx n with vecLim := lim })) ∧
      (qsKind p = 3 → t.variant.ingest = true → lim ≤ 262144 →
        done (.quotaSet q) { t with ingest := { t.ingest with stq := put 0 n lim t.ingest.stq } }) ∧
      (qsKind p = 4 → t.hasStack (qsStack p) = true → lim ≤ 48 →
        let x := t.stack (qsStack p)
        done (.quotaSet q) (t.setStack (qsStack p) { x with rsv := put .reset n { x.rsvOf n with limit := lim } x.rsv })) ∧
      (qsKind p = 5 → lim ≤ 6000 →
        done (.quotaSet q) (decideHead { t with power := { t.power with ctxLim := put 0x1770 n lim t.power.ctxLim } }))) ∧
    (pktRuns s q opReclaim pid p t → qsKind p = 2 → t.hasStack (qsStack p) = true →
      let x := t.stack (qsStack p)
      done (.reclaim q) (t.setStack (qsStack p) { x with rsv := put .reset n { x.rsvOf n with held := 0 } x.rsv })) ∧
    (pktRuns s q opCtxCores pid p t →
      let hi := fld (p.w 3) 31 0
      (∀ c ∈ maskCores (p.w 2) hi, t.hasCore c = true) →
      done (.ctxCores q) (t.setCtx n { t.ctx n with cores := BitVec.ofNat 96 (p.w 2 + hi * 2 ^ 64) })) ∧
    (pktRuns s q opCtxJob pid p t → own →
      let w : W64 := BitVec.ofNat 64 ((if bitOf (p.w 1) 8 then 2 ^ 63 else 0) + fld (p.w 1) 31 16)
      done (.ctxJob q) { t with
        ce0 := { t.ce0 with jobs := put 0 n w t.ce0.jobs }, ce1 := { t.ce1 with jobs := put 0 n w t.ce1.jobs } })

/-- DMA, LAUNCH and SF_LOAD: a DMA that passes its checks waits and then moves its bytes, a LAUNCH reaches its cores, a
slot image that passes its checks waits at its engine (R147, R183, R465, R466). -/
def Obligations.DataCommands : Prop :=
  ∀ (s t : State) (q pid : Nat) (p : Pkt),
    (pktRuns s q opDma pid p t →
      ∀ t1 xl, dmaSspace p = false → dmaDspace p = false → (dmaPen p = true → coresCheck t p.ctx [dmaCore p] = none) →
      dmaLen p ≠ 0 → (p.w 1 + dmaLen p ≤ p.w 2 ∨ p.w 2 + dmaLen p ≤ p.w 1) →
      xlate t p.ctx (upFrom (p.w 1) (dmaLen p)) (upFrom (p.w 2) (dmaLen p)) = (t1, .ok xl) →
      becomes (.dma q) s (t1.setPkt pid (some { p with work := .dma xl }))) ∧
    (∀ xl t1 l, s.pkt pid = some p → p.work = .dma xl → dmaSspace p = false → dmaDspace p = false →
      readCheck s ((upFrom (p.w 1) (dmaLen p)).map (viaXl xl)) = (t1, none) →
      l = (List.range (dmaLen p)).map (fun i => (viaXl xl (p.w 2 + i), s.byte (viaXl xl (p.w 1 + i)))) →
      (writeStop t1 l).2 = none →
      completes (.dmaComplete pid none) s fun s s' =>
        (∀ a, s'.byte a = look 0 a (putAll 0 l s.mem)) ∧
        s' = completePkt (dmaPost (writeStop t1 l).1 p) pid Code.ok 0) ∧
    (pktRuns s q opLaunch pid p t →
      let cs := maskCores (p.w 3) (fld (p.w 4) 31 0)
      cs ≠ [] → coresCheck t p.ctx cs = none → fld (p.w 5) 47 0 = 0 →
      completes (.launch q) s fun _ s' =>
        { s' with cores := t.cores } = t.setPkt pid (some { p with work := .launch cs [] 0 [] }) ∧
        ∀ c, s'.core c = if c ∈ cs then
            { t.core c with launches := (t.core c).launches ++ [⟨pid, p.ctx, fld (p.w 1) 47 0, BitVec.ofNat 64 (p.w 2)⟩] }
          else t.core c) ∧
    (pktRuns s q opSfLoad pid p t →
      let c := fld (p.w 2) 6 0
      let e := fld (p.w 2) 7 7
      let bank := fld (p.w 2) 8 8
      let k := t.core c
      ∀ t1 bs, t.hasCore c = true → (t.ctx p.ctx).cores.getLsbD c = true → fld (p.w 1) 47 0 % 64 = 0 →
      readVa t p.ctx (fld (p.w 1) 47 0) 1024 = (t1, .inl bs) → bank ≠ (k.ve e).bankSel → imageOk bs = true →
      becomes (.sfLoad q) s (t1.setCore c (k.setVe e
        { k.ve e with loads := (k.ve e).loads ++ [⟨bank, fld (p.w 2) 13 9, bs, .host pid⟩] })))

/-! ### Collective engines and Evohild (14, 15) -/

/-- Plans, triggers and descriptors from a host: a plan that passes its checks takes the lowest free handle, an unloaded
one leaves plan memory, a trigger starts a wait, a descriptor is issued, and an abort ends the running instance
(R386, R387, R392, R397, R401, R408, R422). -/
def Obligations.PlanCommands : Prop :=
  ∀ (s t : State) (q pid : Nat) (p : Pkt),
    let e := pktEngine p
    let h := pktHandle p
    let ce := t.ce e
    let va := fld (p.w 2) 47 0
    (∀ t1 t2 t3 hd bs y n par, pktRuns s q opPlanLoad pid p t → readVa t p.ctx va 128 = (t1, .inl hd) →
      readVa t1 p.ctx va (planBytes (fieldAt hd 2 2) (fieldAt hd 4 2)) = (t2, .inl bs) → y = planOf p.ctx bs .none →
      planCheck t2 e y (planBytes (fieldAt hd 2 2) (fieldAt hd 4 2)) = none → loadParity t2 y = (t3, .inl par) →
      freeHandle (t3.ce e) = some n →
      becomes (.planLoad q) s (completePkt
        (t3.setCe e { t3.ce e with plans := put none n (some { y with parity := par }) (t3.ce e).plans }) pid Code.ok
        (BitVec.ofNat 32 n))) ∧
    ∀ y, ce.plan h = some y → y.ctx = p.ctx →
      (pktRuns s q opPlanUnload pid p t → ce.inst h = none → look [] h ce.waiting = [] →
        completes (.planUnload q) s fun _ s' =>
          (s'.ce e).plan h = none ∧ (∀ j, j ≠ h → (s'.ce e).plan j = ce.plan j) ∧
          s' = completePkt (t.setCe e (ce.unload h)) pid Code.ok 0) ∧
      (pktRuns s q opCeTrigger pid p t → look [] h ce.waiting = [] →
        becomes (.ceTrigger q) s (completePkt
          (t.setCe e { ce with waiting := put [] h [(⟨fld (p.w 2) 31 0, 1⟩ : Waiting)] ce.waiting }) pid Code.ok 0)) ∧
      (pktRuns s q opCeAbort pid p t →
        becomes (.ceAbort q) s (completePkt (abortInst t e h Code.aborted) pid Code.ok 0))

/-- CE_XFER issues the descriptor it reads; one with LEN = 0 completes with OK_EMPTY in W4 and sends nothing. A put or
get that ends leaves the engine's list, its status and DONE are in W4 of its descriptor, and its local post is made
(R386, R387, R390). -/
def Obligations.TransfersIssue : Prop :=
  (∀ (s t t1 t2 : State) (q pid : Nat) (p : Pkt) (xl : Table Nat),
     let e := pktEngine p
     let va := fld (p.w 2) 47 0
     let words := wordsOf ((upFrom va 64).map fun a => t2.byte (viaXl xl a)) 8
     let u := issueXfer t2 e p.ctx (.host pid va (viaXl xl (va + 32))) words
     pktRuns s q opCeXfer pid p t → xlate t p.ctx (upFrom va 64) (upFrom (va + 32) 8) = (t1, .ok xl) →
     readCheck t1 ((upFrom va 64).map (viaXl xl)) = (t2, none) →
     (u.ce0.xfers.length ≤ 4096 → u.ce1.xfers.length ≤ 4096 → becomes (.ceXfer q) s u) ∧
     (xferCheck t2 e p.ctx words = none → fld (words.getD 2 0) 23 0 = 0 → bitOf (words.getD 0 0) 58 = false →
       u = completePkt (writeStop t2 (pairs (viaXl xl (va + 32)) (leBytes 8 (0x01 * 2 ^ 56 + 2 ^ 55)))).1 pid Code.okEmpty 0)) ∧
  (∀ (s : State) (e tag c off : Nat) (status : Byte) (f : Xfer),
     e < 2 → (s.ce e).xfer tag = some f → f.origin = .core c off → off % 64 = 0 → off + 64 ≤ wsSize → s.coreOn c = true →
     let s' := xferDone s e tag status
     (s'.ce e).xfer tag = none ∧ s'.ws c (off + 32) 8 = leBytes 8 (status.toNat * 2 ^ 56 + 2 ^ 55) ∧
     sameMemoryBut (wsPa c (off + 32)) 8 s s' ∧
     (f.lpen = true → s.dieState (dieOf f.lpcore) ≠ .parked → (s.core f.lpcore).tcOf f.lpctr ≠ 0xFFFF →
       (s'.core f.lpcore).tcOf f.lpctr = (s.core f.lpcore).tcOf f.lpctr + 1))

/-- Messages at a target and at an origin: a put is written and acknowledged, a get is answered, and an operation
completes once, in W4, when its answer comes, is lost, or does not come (R381, R382, R388 to R391). -/
def Obligations.PutsAndGets : Prop :=
  ∀ (s s1 : State) (e : Nat) (m : InMsg),
    let job := hJob m.body
    let tag := hTag m.body
    let va := hLow m.body 87 40
    (msgNext s e (· == 1) m s1 →
      (∀ n s2 s3 xl, (s1.ce e).ctxOf job = some n → xlate s1 n [] (upFrom va (hData m.body).length) = (s2, .ok xl) →
        writeStop s2 ((List.range (hData m.body).length).zipWith (fun i b => (viaXl xl (va + i), b)) (hData m.body)) = (s3, none) →
        becomes (.put e) s (s3.modCe e fun x => notePut x m Code.ok)) ∧
      ((s1.ce e).ctxOf job = none →
        completes (.put e) s fun s s' => sameMemory s s' ∧ s' = s1.modCe e fun x => notePut x m Code.perm)) ∧
    (∀ id p, e < 2 → s.agg.safe = false → (s.ce e).tputs.find? (fun p => p.id == id && p.last) = some p →
      p.status = Code.ok → (p.post = true → s.hasCore p.pcore = true) →
      let s2 := s.modCe e fun x => { x with tputs := x.tputs.filter fun r => r.id != id }
      becomes (.putLandedAtTarget e id) s
        (sendOrCount (if p.post then post s2 p.pcore p.pctr else s2) e 1 p.src (mkHdr 4 false false false false p.job p.tag 0))) ∧
    (msgNext s e (· == 2) m s1 → (s1.ce e).ctxOf job = none →
      becomes (.getreq e) s
        (sendOrCount s1 e 1 m.src (mkHdr 3 false false true false job tag (Code.perm.toNat * 2 ^ 32)))) ∧
    (∀ n s2 s3 xl len, msgNext s e (· == 2) m s1 → (s1.ce e).ctxOf job = some n → len = hLow m.body 23 0 →
      xlate s1 n (upFrom va len) [] = (s2, .ok xl) → readCheck s2 ((upFrom va len).map (viaXl xl)) = (s3, none) →
      becomes (.getreq e) s ((getResponses job tag ((upFrom va len).map fun a => s3.byte (viaXl xl a))).foldl
        (fun u b => sendOrCount u e 1 m.src b) s3)) ∧
    (∀ x, (s1.ce e).xfer tag = some x → x.tag = tag →
      (msgNext s e (· == 3) m s1 → x.put = false → 0x10 ≤ hLow m.body 39 32 →
        becomes (.getrsp e) s (xferDone s1 e tag (BitVec.ofNat 8 (hLow m.body 39 32)))) ∧
      (∀ s2, msgNext s e (· == 3) m s1 → x.put = false → hLow m.body 39 32 = 0 →
        hLow m.body 87 64 + (hData m.body).length ≤ x.len → x.len ≤ x.landed + (hData m.body).length →
        writeStop s1 ((List.range (hData m.body).length).zipWith
          (fun i b => (viaXl x.xl (x.lva + hLow m.body 87 64 + i), b)) (hData m.body)) = (s2, none) →
        becomes (.getrsp e) s (xferDone s2 e tag Code.ok)) ∧
      (msgNext s e (· == 4) m s1 → x.put = true →
        becomes (.ack e) s (xferDone s1 e tag (BitVec.ofNat 8 (hLow m.body 39 32)))) ∧
      (msgNext s e (· == 5) m s1 → becomes (.noroute e) s (xferDone s1 e tag Code.link))) ∧
    (∀ n x, e < 2 → s.agg.safe = false → (s.ce e).xfer n = some x →
      becomes (.xferTimeout e n) s
        (xferDone (s.modCe e fun x => { x with quarantine := put none n (some s.tbtime) x.quarantine }) e n Code.timeout)) ∧
    (msgNext s e (fun k => k == 0 || k == 6 || k == 7 || decide (13 ≤ k)) m s1 →
      becomes (.reservedKindMessage e) s (s1.modCe e fun x => { x with stale := satInc 32 x.stale }))

/-- An instance starts when its triggers are there, and what came for it before applies to it: an ABORT ends it at once, a
DETACH stops its data steps, SLOW suspends its timers. Its steps move bytes once no earlier step still needs what they
overwrite, and it completes when all of them are done or it has been aborted (R394 to R396, R400 to R405, R407, R409). -/
def Obligations.InstancesRun : Prop :=
  (∀ (s s1 : State) (e h : Nat) (p : Plan) (w : Waiting) (ws : List Waiting) (xl : Table Nat),
    let x := s.ce e
    let job := x.job p.ctx
    let n := (Inst.new w.tag).inst
    let slow (a : HeldSlow) : Bool := a.job == job && a.collid == p.collid && a.inst == n
    let cut (a : HeldDetach) : Bool := a.job == job && a.collid == p.collid && a.inst == n
    let mine (a : HeldAbort) : Bool := a.job == job && a.collid == p.collid && a.inst == n
    let i := { Inst.new w.tag with slowAt := (x.slows.find? slow).map HeldSlow.at' }
    let x' := { x with waiting := put [] h ws x.waiting
                       dead := put [] h ((look [] h x.dead).filter fun m => m != n) x.dead
                       ended := put [] h ((look [] h x.ended).filter fun m => m != n) x.ended
                       held := x.held.filter fun a => !mine a
                       slows := x.slows.filter fun a => !slow a
                       detaches := x.detaches.filter fun a => !cut a }
    e < 2 → s.agg.safe = false → x.plan h = some p → look [] h x.waiting = w :: ws → p.trign ≤ w.count → x.inst h = none →
    x.running.length < 16 →
    (∀ a, x.held.find? mine = some a →
      becomes (.instanceStart e h) s (s.setCe e (x'.setInst h (some { i with aborted := some a.status })))) ∧
    (x.held.find? mine = none → p.entries = [] →
      xlate (s.setCe e (x'.setInst h (some i))) p.ctx p.instReads p.instWrites = (s1, .ok xl) →
      let s2 := s1.modCe e fun y => y.setInst h (some { i with xl := xl })
      (x.detaches.any cut = false → becomes (.instanceStart e h) s s2) ∧
      (x.detaches.any cut = true → becomes (.instanceStart e h) s (takeDetach s2 e h p { i with xl := xl })))) ∧
  (∀ (s : State) (e h k : Nat) (p : Plan) (i : Inst),
    let x := p.step k
    let q := i.at k
    let c := x.chunk + q / p.chunkB
    let o := q % p.chunkB
    let n := min msgData (p.chunkB - o)
    let src := (upFrom (p.srcAt c o) n).map (viaXl i.xl)
    let l := (List.range n).map fun j => (viaXl i.xl (p.dstAt c o + j), s.byte (viaXl i.xl (p.srcAt c o + j)))
    instRuns s e h p i → i.mayStep p e k = true → x.isData = true → x.opc = 1 → x.akind = 0 → p.parity = .none →
    x.toDst = true → x.toSend = false → x.toBuf = false → i.dstBusy p k c = false → i.slots = [] →
    ∀ s1, readCheck s src = (s1, none) → (writeStop s1 l).2 = none →
    completes (.collectiveStep e h k) s fun _ s' =>
      (∀ a, s'.byte a = look 0 a (putAll 0 l s.mem)) ∧ ∃ j, (s'.ce e).inst h = some j ∧ j.at k = q + n ∧ j.tag = i.tag) ∧
  (∀ (s : State) (e h : Nat) (p : Plan) (i : Inst),
    instRuns s e h p i →
    (i.allDone p = true → i.aborted = none → (finishParity s p i i.slots).2 = none →
      completes (.instanceComplete e h) s fun _ s' =>
        (s'.ce e).inst h = none ∧ (s'.ce e).plan h = some p ∧ (look [] h (s'.ce e).ended).contains i.inst = true) ∧
    (∀ st, i.aborted = some st →
      completes (.instanceComplete e h) s fun _ s' =>
        (s'.ce e).inst h = none ∧ (s'.ce e).plan h = some p ∧ (look [] h (s'.ce e).dead).contains i.inst = true))

/-- Messages and timers of instances: CHUNK and FLAG messages are held for their step, SLOW and SLOWN are noted, DETACH
and ABORT end the data steps or the instance; SLOWN goes out while a stack is warm, a full skid detaches its receiver, and
no progress for TMO aborts (R402 to R404, R407 to R410). -/
def Obligations.InstanceMessages : Prop :=
  (∀ (s : State) (e l h : Nat) (m : InMsg) (rest : List InMsg),
     let x := s.ce e
     let held := x.heldOn l
     let n := hLow m.body 15 0
     let took := consume (s.setCe e { x with inbox := rest, early := put [] l (held ++ [m]) x.early
                                             ended := put [] h ((look [] h x.ended).filter fun j => j != n) x.ended }) m
     let popped := consume (s.setCe e { x with inbox := rest }) m
     e < 2 → s.agg.safe = false → x.planOf (hJob m.body) (hTag m.body) = some h → m.link = some l →
     (look [] h x.dead).contains n = false →
     (inboxHead x (· == 8) = some (m, rest) → instOf x m = none →
       (held.map fun g => g.body.length).sum + m.body.length ≤ 65536 → hSlow m.body = false → becomes (.chunk e) s took) ∧
     (inboxHead x (· == 9) = some (m, rest) → instOf x m = none →
       (held.map fun g => g.body.length).sum + m.body.length ≤ 65536 → hSlow m.body = false → becomes (.flag e) s took) ∧
     ∀ g p i, instOf x m = some (g, p, i) → i.aborted = none →
       (inboxHead x (· == 12) = some (m, rest) →
         becomes (.slown e) s (popped.modCe e fun y => y.setInst g (some { i with slowAt := some s.tbtime }))) ∧
       (inboxHead x (· == 11) = some (m, rest) → dataLinks p i e = [] →
         becomes (.detach e) s ((dropHeld popped e (x.job p.ctx) p i fun r => hKind r.body == 8).modCe e fun y =>
           y.setInst h (some { i with detached := true, degraded := true }))) ∧
       (inboxHead x (· == 10) = some (m, rest) →
         becomes (.abortMsg e) s (popped.modCe e fun y =>
           y.setInst h (some { i with aborted := some (BitVec.ofNat 8 (hLow m.body 31 24)) })))) ∧
  (∀ (s : State) (e h : Nat) (p : Plan) (i : Inst), instRuns s e h p i → i.aborted = none →
     (instSlow s p i = true →
       becomes (.slownTimer e h) s (p.inlinks.foldl
         (fun u l => sendOn u l 6 (mkHdr 12 false false false false ((s.ce e).job p.ctx) p.collid i.inst) 0 none) s)) ∧
     (∀ l, p.mayDetach = true → i.cut.has l = false → 65536 < skidUsed s e h l + min msgData p.chunkB →
       i.suspended s.tbtime = false →
       completes (.straggleTimeout e h l) s fun s s' =>
         (s'.ce e).inst h = some { i with cut := i.cut.add l, degraded := true } ∧ sameMemory s s' ∧ s'.cores = s.cores) ∧
     (p.tmo ≠ 0 → i.suspended s.tbtime = false →
       completes (.instanceTimeout e h) s fun s s' => sameMemory s s' ∧ s'.cores = s.cores ∧
         (s'.ce e).aborts = satInc 32 (s.ce e).aborts ∧ (s'.ce e).inst h = some { i with aborted := some Code.timeout }))

/-- EV_DECODE queues a decode that passes its checks, its completion rebuilds the wanted pieces and reports, and
EV_CHECK reports the first byte at which two ranges differ (R419, R432 to R434, R438). -/
def Obligations.Evohild : Prop :=
  (∀ (s t t1 t2 : State) (q pid : Nat) (p : Pkt) (d : List Byte) (xl : Table Nat),
    pktRuns s q opEvDecode pid p t → readVa t p.ctx (fld (p.w 1) 47 0) 256 = (t1, .inl d) → dcVerify d = false →
    xlate t1 p.ctx ((dcPresent d).flatMap fun j => pageStarts (dcPva d j) (dcLen d))
      ((dcWant d).flatMap fun j => pageStarts (dcPva d j) (dcLen d)) = (t2, .ok xl) →
    dcCheck d [] = none →
    becomes (.evDecode q) s { t2 with decodes := t2.decodes ++ [⟨pid, p.ctx, d, [], xl⟩] }) ∧
  (∀ (s s1 s2 : State) (x : Decode) (xs : List Decode),
    s.decodes = x :: xs → dcVerify x.desc = false →
    readCheck { s with decodes := xs } (dcReach x ((dcPresent x.desc).take (dcK x.desc))) = (s1, none) →
    writeStop s1 (dcWrites s x) = (s2, none) →
    completes .evDecodeComplete s fun s s' =>
      (∀ a, s'.byte a = look 0 a (putAll 0 (dcWrites s x) s.mem)) ∧ s'.decodes = xs ∧ s'.ce0.evLast = Code.ok ∧
      s' = completePkt { s2 with ce0 := { s2.ce0 with evLast := Code.ok }, ce1 := { s2.ce1 with evLast := Code.ok } } x.pid
        Code.ok 0) ∧
  (∀ (s t t1 t2 : State) (q pid : Nat) (p : Pkt) (xl : Table Nat),
    let n := fld (p.w 3) 12 0
    let a := fld (p.w 1) 47 0
    let b := fld (p.w 2) 47 0
    let same (i : Nat) : Prop := t2.byte (viaXl xl (a + i)) = t2.byte (viaXl xl (b + i))
    pktRuns s q opEvCheck pid p t → 0 < n → n ≤ 4096 → xlate t p.ctx (upFrom a n ++ upFrom b n) [] = (t1, .ok xl) →
    readCheck t1 ((upFrom a n ++ upFrom b n).map (viaXl xl)) = (t2, none) →
    ((∀ i < n, same i) → becomes (.evCheck q) s (completePkt t2 pid Code.ok 0)) ∧
    ∀ o, o < n → ¬same o → (∀ i < o, same i) →
      becomes (.evCheck q) s (completePkt t2 pid Code.verify (BitVec.ofNat 32 o)))

/-! ### Ingest and sample streams (10, 11) -/

/-- A checked batch joins its cluster's queue, asks the ledger, starts its segments, takes their ends into its records,
and reports once all of them have ended; an abort takes it out (R276 to R278, R294 to R296, R299, R493). -/
def Obligations.IngestBatches : Prop :=
  (∀ (s t t1 t2 : State) (q pid : Nat) (p : Pkt) (h rc od : List Byte) (reqs : List (List Byte)) (xl : Table Nat),
    let va := fld (p.w 1) 47 0
    let n := bhNreq h
    let stat := (List.range n).map fun i => bhStatva h + 16 * i
    let k := clusterFor t2.ingest h
    let m := fld (p.w 1) 43 32
    (pktRuns s q opIngestBatch pid p t → t.variant.ingest = true → readVa t p.ctx va 64 = (t1, .inl h) →
      readBatch t1 p.ctx h ((List.range n).map fun i => va + 64 + 64 * i) stat = (t2, .ok rc od reqs xl) →
      batchCheck t2.variant h rc od reqs = none →
      (16 ≤ (t2.ingest.queue k).length → becomes (.ingestBatch q) s s) ∧
      ((t2.ingest.queue k).length < 16 →
        completes (.ingestBatch q) s fun _ s' =>
          { s' with ingest := t2.ingest } = t2 ∧
          s'.ingest.queue k = t2.ingest.queue k ++
            [⟨t2.ingest.nextId, some pid, none, p.ctx, h, rc, od, reqs, stat, xl, false, false, 0, 0, []⟩] ∧
          s'.ingest.queue (1 - k) = t2.ingest.queue (1 - k))) ∧
    (pktRuns s q opIngestAbort pid p t → t.variant.ingest = true → holdsSq t p.ctx m = true →
      ∀ o, findPkt t m (fld (p.w 1) 15 0) = some o →
        becomes (.ingestAbort q) s (completePkt (abortBatches t Code.aborted fun b => decide (b.pid = some o)) pid Code.ok 0))) ∧
  (∀ (s : State) (k d : Nat) (b : Batch),
    let lv := (dtempOf s (4 + k)).tlevel
    let u := 3 * min b.reqs.length 32 + 24
    k < 2 → headBatch s k = some b → s.agg.safe = false →
    (b.asked = false → lv < 2 → (s.ingest.dpb k).lock = true →
      completes (.batchStart k) s fun s s' =>
        sameMemory s s' ∧
        s'.power.waiting.map (fun r => (r.who, r.units)) =
          s.power.waiting.map (fun r => (r.who, r.units)) ++ [(.ingest k, u)] ∧
        s'.ingest.queue k = (s.ingest.queue k).map fun x => if x.id = b.id then { b with asked := true } else x) ∧
    (b.asked = false → lv < 2 → (s.ingest.dpb k).lock = false →
      becomes (.batchStart k) s (batchPost (reportBatch (removeBatch s k b) b Code.badParam 0) b.hdr)) ∧
    (d / 32 = k → b.granted = true → (b.next ≠ 0 ∨ lv < 2) → look none d s.ingest.segs = none →
      completes (.segmentStart k d) s fun s s' =>
        { s' with ingest := s.ingest } = s ∧
        (∀ e, look none e s'.ingest.segs = if e = d then some ⟨b.id, b.next⟩ else look none e s.ingest.segs) ∧
        s'.ingest.queue k = (s.ingest.queue k).map fun x => if x.id = b.id then { b with next := b.next + 1 } else x)) ∧
  (∀ (s s2 : State) (k d : Nat) (g : SegRun) (b : Batch) (e : SegEnd),
    let r := b.reqs.getD g.idx []
    let l := (pairs (b.stat.getD g.idx 0) (statRecord r e d)).map fun p => (viaXl b.xl p.1, p.2)
    look none d s.ingest.segs = some g → findBatch s g.batch = some (k, b) → s.agg.safe = false → g.idx < b.next →
    ((rqLive r = false ∧ s2 = s ∧ e = ⟨Code.okEmpty, 0, 0, 0, 2, false, false, 0⟩) ∨
      (rqLive r = true ∧ ∃ s1 ps src pas, readSource s b.ctx r = (s1, .ok ps src pas none) ∧
        let pl := segPlan r b.recipe ps src (dpbShare s1 d).2.2
        runSegment (readCheck s1 (pas.take pl.read)).1 b r d pl = (s2, e))) →
    (writeStop s2 l).2 = none →
    completes (.segmentComplete d) s fun s s' =>
      (∀ a, s'.byte a = look 0 a (putAll 0 l s2.mem)) ∧ look none d s'.ingest.segs = none ∧
      ∃ b', findBatch s' g.batch = some (k, b') ∧ look none g.idx b'.done = some e.status) ∧
  (∀ (s : State) (n k : Nat) (b : Batch),
    findBatch s n = some (k, b) → b.granted = true → s.agg.safe = false →
    (∀ i, i < b.reqs.length → (look none i b.done).isSome) →
    becomes (.batchComplete n) s (batchPost (reportBatch (removeBatch s k b) b b.status b.badCount) b.hdr) ∧
    ((∀ i, i < b.reqs.length → look none i b.done = some Code.ok) → 0 < b.reqs.length →
      b.status = Code.ok ∧ b.badCount = 0))

/-- Sample streams: opening, starting, stopping, draining, saving, restoring, resynchronising and closing an entry, and
one service, which submits the next batch and moves the position on by its requests (R301 to R303, R308 to R318). -/
def Obligations.SampleStreams : Prop :=
  (∀ (s t : State) (q pid : Nat) (p : Pkt),
    let va := fld (p.w 2) 47 0
    let n := fld (p.w 1) 17 0
    t.variant.ingest = true → t.ingest.sttLock = true →
    (∀ t1 b m, pktRuns s q (opSt 0) pid p t → readVa t p.ctx va 64 = (t1, .inl b) → stImageOk b = true →
      sttUsed t1 p.ctx < sttLimit t1 p.ctx → m < 262144 → (t1.stEntry m).st = .free →
      (∀ j, j < m → (t1.stEntry j).st ≠ .free) →
      becomes (.stOpen q) s (completePkt
        (storeEntry t1 m { (StEntry.free.ofImage b) with st := .idle, ctx := p.ctx }) pid Code.ok (BitVec.ofNat 32 m))) ∧
    ∀ t1, (t.stEntry n).st ≠ .free → (t.stEntry n).ctx = p.ctx → readCheck t (upFrom (entryPa t n) 64) = (t1, none) →
      let e := t1.stEntry n
      (∀ t2 t3 m rc od l xl, pktRuns s q (opSt 1) pid p t → e.st = .idle → readVa t1 p.ctx e.tmplva 128 = (t2, .inl m) →
        tmOk m = true → readBatch t2 p.ctx (m.take 64) [] [] = (t3, .ok rc od l xl) →
        batchCheck t3.variant (m.take 64) rc od [] = none →
        becomes (.stStart q) s (completePkt (t3.setStEntry n { e with st := if e.last ≤ e.pos then .done else .run })
          pid Code.ok 0)) ∧
      (pktRuns s q (opSt 2) pid p t → (e.st = .run ∨ e.st = .drain) →
        becomes (.stStop q) s (t1.setStEntry n { e with st := .drain, stops := e.stops ++ [pid] })) ∧
      (∀ t2 bs, pktRuns s q (opSt 3) pid p t → (e.st = .idle ∨ e.st = .done ∨ e.st = .error) →
        writeSpace t1 p.ctx false va e.image = (t2, .ok bs) →
        becomes (.stSave q) s (completePkt t2 pid Code.ok 0)) ∧
      (∀ t2 b, pktRuns s q (opSt 4) pid p t → (e.st = .idle ∨ e.st = .done ∨ e.st = .error ∨ e.st = .mismatch) →
        readVa t1 p.ctx va 64 = (t2, .inl b) → stImageOk b = true →
        let y := (t2.stEntry n).ofImage b
        let d := y.seqCtr - (y.seqBase + BitVec.ofNat 64 y.pos)
        t2.stEntry n = e →
        ((y.seqGen = false ∨ d = 0) →
          becomes (.stRestore q) s (completePkt (storeEntry t2 n { y with st := .idle }) pid Code.ok 0)) ∧
        (y.seqGen = true → d ≠ 0 →
          becomes (.stRestore q) s
            (completePkt (storeEntry t2 n { y with st := .mismatch }) pid Code.restoreMismatch (d.setWidth 32)))) ∧
      (pktRuns s q (opSt 5) pid p t → (e.st = .idle ∨ e.st = .mismatch) →
        becomes (.stResync q) s (completePkt
          (t1.setStEntry n { e with st := .idle, seqCtr := e.seqBase + BitVec.ofNat 64 e.pos }) pid Code.ok 0)) ∧
      (pktRuns s q (opSt 6) pid p t → (e.st = .idle ∨ e.st = .done ∨ e.st = .error ∨ e.st = .mismatch) →
        completes (.stClose q) s fun _ s' =>
          s'.stEntry n = .free ∧ (∀ m, m ≠ n → s'.stEntry m = t1.stEntry m) ∧
          s' = completePkt (closeStream t1 n) pid Code.ok 0)) ∧
  (∀ (s : State) (n : Nat),
    let e := s.stEntry n
    e.st = .drain → e.outb = 0 →
    (e.stops = [] → becomes (.streamDrained n) s (s.setStEntry n { e with st := .idle })) ∧
    ∀ pid, e.stops = [pid] →
      becomes (.streamDrained n) s (completePkt (s.setStEntry n { e with st := .idle, stops := [] }) pid Code.ok 0)) ∧
  (∀ (s s1 : State) (n : Nat),
    let s0 := { s with ingest := { s.ingest with sttPtr := (n + 1) % 262144 } }
    let e := s1.stEntry n
    let p := e.pos
    nextRun s.ingest = some n → (s0.stEntry n).st = .run → readCheck s0 (upFrom (entryPa s0 n) 64) = (s1, none) →
    e.st = .run → s1.agg.safe = false →
    (e.last ≤ p → becomes .sttServe s (s1.setStEntry n { e with st := .done })) ∧
    ∀ s2 s3 s4 t r rc od recs xl,
      let h := t.take 64
      let k := min (bhNreq t) (e.last - p)
      let qs := upFrom p k
      let stat := qs.map fun q => bhStatva h + 16 * (q % tmNslot t)
      let reqs := (List.range k).map fun j => requestAt e t (recs.getD j []) (p + j)
      p < e.last → sttHeld s1 e.ctx = false → readVa s1 e.ctx e.tmplva 128 = (s2, .inl t) → tmOk t = true →
      e.outb < tmBmax t → readVa s2 e.ctx (tmRelva t) 8 = (s3, .inl r) → p + k ≤ tmNslot t + fieldAt r 0 8 →
      readBatch s3 e.ctx h (qs.map fun q => e.manva + 64 * recordOf e q) stat = (s4, .ok rc od recs xl) →
      batchCheck s4.variant h rc od reqs = none → queueFull s4 (clusterFor s4.ingest h) = false → e.seqGen = false →
      becomes .sttServe s
        ((enqueueBatch s4 none (some n) e.ctx h rc od reqs stat xl).setStEntry n
          (({ e with outb := e.outb + 1 } : StEntry).setPos (p + k))))

/-! ### HBM and the LPDDR port (12) -/

/-- Requests to a stack: a closed one answers its status; on an open one a read answers the sector's bytes or an error and a
write changes only its own bytes; a pseudo-channel in training queues 256 requests, and the fabric holds the next and all
later ones of its source; a request that finds the window spent waits for the next. A share window begins anew and serves
what waits, the scrub corrects or poisons one sector, and a refresh changes nothing
(R20, R324, R328 to R332, R334, R335, R338). -/
def Obligations.HbmRequests : Prop :=
  (∀ (s : State) (k off : Nat) (src : HbmSource),
    let x := s.stack k
    let sec := off / 32
    let p := x.home off
    let marked : Bool := x.isPoisoned sec || x.isLost sec || x.uncorr.has sec
    let soft := x.soft.has sec
    let frame (s s' : State) : Prop := sameMemory s s' ∧ (∀ j, j ≠ k → s'.stack j = s.stack j) ∧ { s' with hbms := s.hbms } = s
    let read : Instr := .hbmSectorRead k off ⟨src, .clean⟩
    let w : HbmWait := ⟨src, .read off⟩
    s.powered = true → s.hasStack k = true → off % 32 = 0 → off < x.size →
    (∀ e, x.gate = some e → completes read s fun s s' => frame s s' ∧ s'.stack k = { x with rsp := ⟨e, []⟩ }) ∧
    (x.gate = none → (∃ v ∈ x.fabric, v.src = src) →
      completes read s fun s s' => frame s s' ∧ s'.stack k = { x with fabric := x.fabric ++ [w] }) ∧
    (x.gate = none → (∀ v ∈ x.fabric, v.src ≠ src) →
      (x.training = some p →
        ((x.pc p).queue.length < 256 →
          completes read s fun s s' => frame s s' ∧ ((s'.stack k).pc p).queue = (x.pc p).queue ++ [w]) ∧
        (256 ≤ (x.pc p).queue.length →
          completes read s fun s s' => frame s s' ∧ s'.stack k = { x with fabric := x.fabric ++ [w] })) ∧
      (x.training ≠ some p → x.cap ≤ x.window.total →
        completes read s fun s s' => frame s s' ∧ s'.stack k = { x with waiting := x.waiting ++ [w] }) ∧
      (x.training ≠ some p → x.window.total < x.cap → x.waiting = [] →
        (marked = false → soft = false →
          completes read s fun s s' =>
            frame s s' ∧ (s'.stack k).rsp = ⟨Code.ok, s.bytes (hbmPa k off) 32⟩ ∧
            (s'.stack k).window.total = x.window.total + 1 ∧
            { s'.stack k with rsp := x.rsp, window := x.window, lastPrio := x.lastPrio, lastNorm := x.lastNorm } = x) ∧
        (x.isPoisoned sec = true →
          completes read s fun s s' =>
            sameMemory s s' ∧ (s'.stack k).rsp = ⟨Code.eccUncorr, []⟩ ∧ s'.agg.wrptr = s.agg.wrptr + 1) ∧
        (x.isPoisoned sec = false →
          completes (.hbmSectorRead k off ⟨src, .uncorrectable⟩) s fun s s' =>
            sameMemory s s' ∧ (s'.stack k).rsp = ⟨Code.eccUncorr, []⟩ ∧ (s'.stack k).ucnt = satInc 16 x.ucnt) ∧
        (marked = false →
          completes (.hbmSectorRead k off ⟨src, .single⟩) s fun s s' =>
            sameMemory s s' ∧ (s'.stack k).rsp = ⟨Code.ok, s.bytes (hbmPa k off) 32⟩ ∧
            (s'.stack k).ccnt = satInc 32 x.ccnt) ∧
        ∀ bytes start, 0 < bytes.length → start + bytes.length ≤ 32 → (bytes.length = 32 ∨ (marked = false ∧ soft = false)) →
          completes (.hbmSectorWrite k off src bytes start) s fun s s' =>
            s'.bytes (hbmPa k off + start) bytes.length = bytes ∧ sameMemoryBut (hbmPa k off + start) bytes.length s s' ∧
            (∀ j, j ≠ k → s'.stack j = s.stack j) ∧ { s' with hbms := s.hbms, mem := s.mem } = s ∧
            (s'.stack k).rsp = ⟨Code.ok, []⟩ ∧ (s'.stack k).isPoisoned sec = false ∧
            (s'.stack k).uncorr.has sec = false ∧ (s'.stack k).soft.has sec = false))) ∧
  (∀ (s : State) (k : Nat),
    let x := s.stack k
    let sec := x.scrubPtr
    s.hasStack k = true →
    (x.waiting = [] → becomes (.hbmShareWindow k) s (s.setStack k { x with window := ⟨0, [], 0⟩ })) ∧
    (∀ w, x.waiting = [w] → x.training ≠ some (x.home w.req.off) →
      let y : Stack := { x with window := ⟨0, [], 0⟩, waiting := [] }
      becomes (.hbmShareWindow k) s (runReq (s.setStack k (y.take w.src)) k w.req)) ∧
    (x.state = .opened → x.closing = false → x.scrubH ≠ 0 → x.training ≠ some (x.home (sec * 32)) → x.window.total < x.cap →
      x.isPoisoned sec = false → x.isLost sec = false →
      (x.uncorr.has sec = false →
        completes (.hbmScrubRead k) s fun s s' =>
          sameMemory s s' ∧ (s'.stack k).soft.has sec = false ∧
          (s'.stack k).scrubPtr = (if (sec + 1) * 32 < x.size then sec + 1 else 0)) ∧
      (x.uncorr.has sec = true →
        completes (.hbmScrubRead k) s fun s s' =>
          sameMemory s s' ∧ (s'.stack k).poison.has sec = true ∧ (s'.stack k).uncorr.has sec = false))) ∧
  ∀ (s : State) (k c b : Nat), becomes (.hbmRefresh k c b) s s

/-- Temperature of a stack: a readout sets HTEMP and the level, the third failed one in a row holds the stack at hot until
one succeeds, critical closes it, it is closed once no accepted request waits, and it opens again below hot; HTHERM is
written whole or not at all (R333 to R337, R347, R349). -/
def Obligations.HbmTemperature : Prop :=
  ∀ (s : State) (k : Nat),
    let x := s.stack k
    s.powered = true → s.hasStack k = true →
    (∀ t : Int,
      let n := min t.toNat 255
      let x1 := { x with seq := x.seq + 1, temp := BitVec.ofNat 8 n, tfail := false, readFails := 0 }
      let l := x.levelAfter n
      let s1 := s.setStack k { x1 with tlevel := l }
      let s2 := if l = x.tlevel then s1 else record s1 ⟨0x30, 0, .hbm, k, 0, 0, n, l⟩
      ((x.closing = true ∨ x.state = .closedThermal) → becomes (.hbmTempReadout k (some t)) s (s.setStack k x1)) ∧
      (x.closing = false → x.state ≠ .closedThermal →
        becomes (.hbmTempReadout k (some t)) s (if l = 3 ∧ x.state ≠ .closedFault then startClosing s2 k else s2) ∧
        (x.tlevel ≤ 3 → x.crit.toNat ≤ n → l = 3) ∧
        (x.tlevel = 0 → n < x.crit.toNat → l = if x.hot.toNat ≤ n then 2 else if x.warm.toNat ≤ n then 1 else 0))) ∧
    (x.readFails ≠ 2 → becomes (.hbmTempReadout k none) s (s.setStack k { x with readFails := min (x.readFails + 1) 3 })) ∧
    (x.readFails = 2 →
      completes (.hbmTempReadout k none) s fun s s' =>
        sameMemory s s' ∧ (s'.stack k).tfail = true ∧ (s'.stack k).tlevel = (if x.tlevel = 3 then 3 else 2) ∧
        s'.agg.wrptr = s.agg.wrptr + 1) ∧
    (x.closing = true → x.waiting = [] → (∀ p ∈ x.pcs, p.2.queue = []) →
      becomes (.stackClosed k) s (s.setStack k { x with state := .closedThermal, closing := false })) ∧
    (x.state = .opened → x.closing = false → becomes (.hctlClose k) s (startClosing s k)) ∧
    (s.agg.safe = false → x.state = .closedThermal →
      (x.temp.toNat + x.hyst.toNat < x.hot.toNat →
        becomes (.hctlOpen k) s
          (s.setStack k { x.bring s.tbtime with
            tlevel := if x.tfail = true then 2 else if x.warm.toNat ≤ x.temp.toNat then 1 else 0 })) ∧
      (x.hot.toNat ≤ x.temp.toNat + x.hyst.toNat →
        becomes (.hctlOpen k) s (record s ⟨0x03, 0, .hbm, k, 0, 0, 0x800000 + k * 0x10000 + 0x48, 0⟩))) ∧
    (s.agg.safe = false → (x.state = .opened ∨ x.state = .closedFault) →
      becomes (.hctlOpen k) s (record s ⟨0x03, 0, .hbm, k, 0, 0, 0x800000 + k * 0x10000 + 0x48, 0⟩)) ∧
    (s.agg.safe = false → x.state = .down →
      completes (.hctlOpen k) s fun s s' =>
        sameMemory s s' ∧ (∀ j, j ≠ k → s'.stack j = s.stack j) ∧ (s'.stack k).state = .opened ∧
        (x.booted = false → (s'.stack k).spare = x.spareEn ∧ ((s'.stack k).pc 63).lastTime = s.tbtime) ∧
        (x.tfail = true → (s'.stack k).tlevel = 2 ∧ (s'.stack k).closing = x.closing) ∧
        (x.tfail = false → x.tlevel ≤ 3 → x.crit.toNat ≤ x.temp.toNat → (s'.stack k).closing = true)) ∧
    (x.bring s.tbtime).state = .opened ∧
    (x.booted = true → x.bring s.tbtime = { x with state := .opened }) ∧
    ∀ v : W64,
      let warm := fld v.toNat 7 0
      let hot := fld v.toNat 15 8
      let crit := fld v.toNat 23 16
      (x.thLock = true → becomes (.hthermWrite k v) s s) ∧
      (x.thLock = false → warm < hot → hot < crit →
        becomes (.hthermWrite k v) s (s.setStack k { x with
          thLock := v.getLsbD 63, hyst := BitVec.ofNat 8 (fld v.toNat 31 24), crit := BitVec.ofNat 8 crit
          hot := BitVec.ofNat 8 hot, warm := BitVec.ofNat 8 warm })) ∧
      (x.thLock = false → (hot ≤ warm ∨ crit ≤ hot) →
        becomes (.hthermWrite k v) s (record s ⟨0x03, 0, .hbm, k, 0, 0, 0x800000 + k * 0x10000 + 0x10, 0⟩))

/-- Training and repair of pseudo-channels, and the LPDDR port: training starts on the lowest one due and ends, the
fourth failed attempt in a row makes it fail, HREPAIR starts the copy, and the copy moves on granule by granule
(R338 to R343, R351). -/
def Obligations.HbmRepairs : Prop :=
  (∀ (s : State) (k p : Nat) (trig : RetrainTrigger),
    let x := s.stack k
    s.hasStack k = true → p < 64 → x.state = .opened → (x.pc p).state = .active →
    ((x.pc p).due = true ∨ retrainDue s k p trig = true) → x.training = none → (∀ j, j < p → (x.pc j).due = false) →
    completes (.retrainStart k p trig) s fun s s' =>
      sameMemory s s' ∧ (s'.stack k).training = some p ∧
      (s'.stack k).pc p = { x.pc p with due := false, state := .retrain, fails := 0 } ∧
      ∀ j, j ≠ p → (s'.stack k).pc j = x.pc j) ∧
  (∀ (s : State) (k p : Nat),
    let x := s.stack k
    let q := x.pc p
    s.hasStack k = true → x.training = some p → q.queue = [] → x.fabric = [] →
    completes (.retrainAttemptEnd k true) s (fun s s' =>
      sameMemory s s' ∧ (s'.stack k).training = none ∧
      (s'.stack k).pc p = { q with
        state := if q.state = .retrain then .active else q.state, fails := 0, retrains := min (q.retrains + 1) 255
        lastTemp := x.temp.toNat, lastTime := s.tbtime, corr := [] }) ∧
    (q.fails < 3 →
      completes (.retrainAttemptEnd k false) s fun s s' =>
        sameMemory s s' ∧ (s'.stack k).training = some p ∧ ((s'.stack k).pc p).fails = q.fails + 1 ∧
        { (s'.stack k).pc p with fails := q.fails, laneRep := q.laneRep } = q) ∧
    (3 ≤ q.fails →
      (x.spare = false →
        completes (.retrainAttemptEnd k false) s fun s s' => sameMemory s s' ∧ (s'.stack k).state = .closedFault) ∧
      (x.spare = true → x.repPc = none → x.repairAuto = true →
        completes (.retrainAttemptEnd k false) s fun s s' =>
          sameMemory s s' ∧ (s'.stack k).repPc = some p ∧ (s'.stack k).noCopy = true ∧
          ((s'.stack k).pc p).state = .repaired ∧ (s'.stack k).state = x.state))) ∧
  (∀ (s : State) (k : Nat) (v : W64),
    let x := s.stack k
    let p := fld v.toNat 5 0
    s.powered = true → s.hasStack k = true → v.getLsbD 15 = true →
    (x.repPc ≠ none → becomes (.hrepairStart k v) s (record s ⟨0x03, 0, .hbm, k, 0, 0, 0x800000 + k * 0x10000 + 0x38, 0⟩)) ∧
    (x.repPc = none → (x.spare = true ∨ (x.state = .down ∧ x.spareEn = true)) → (x.pc p).queue = [] → x.fabric = [] →
      (v.getLsbD 14 = false → (x.pc p).lost = false →
        completes (.hrepairStart k v) s fun s s' =>
          sameMemory s s' ∧ (s'.stack k).repPc = some p ∧ (s'.stack k).repairing = true ∧ (s'.stack k).copied = 0 ∧
          ((s'.stack k).pc p).state = .copying) ∧
      (v.getLsbD 14 = true →
        completes (.hrepairStart k v) s fun s s' =>
          sameMemory s s' ∧ (s'.stack k).repPc = some p ∧ (s'.stack k).repairing = false ∧ (s'.stack k).noCopy = true ∧
          ((s'.stack k).pc p).state = .repaired))) ∧
  (∀ (s : State) (k p : Nat),
    let x := s.stack k
    x.repPc = some p → s.hasStack k = true → x.repairing = true → x.state = .opened → x.closing = false →
    x.window.total + 8 ≤ x.cap →
    completes (.repairCopyGranule k) s fun s s' =>
      sameMemory s s' ∧ (s'.stack k).copied = x.copied + 1 ∧ (s'.stack k).window.total = x.window.total + 8 ∧
      (spareFirst ≤ x.copied + 1 → (s'.stack k).repairing = false ∧ ((s'.stack k).pc p).state = .repaired)) ∧
  ∀ (s : State) (addr n : Nat),
    let t : State := { s with lpp := { s.lpp with sref := false, lastReq := s.tbtime } }
    (s.powered = true → 0x18000000000 ≤ addr → addr + n ≤ 0x18000000000 + s.lpp.bytes → 0 < n →
      becomes (.lppAccess addr n .clean) s { t with lpp := { t.lpp with rsp := Code.ok } } ∧
      completes (.lppAccess addr n .corrected) s (fun s s' =>
        sameMemory s s' ∧ s'.lpp = { t.lpp with rsp := Code.ok, lce := satInc 32 s.lpp.lce } ∧
        s'.agg.corr = satInc 32 s.agg.corr) ∧
      becomes (.lppAccess addr n .failed) s
        (record { t with lpp := { t.lpp with rsp := Code.eccUncorr, lue := satInc 16 s.lpp.lue } }
          ⟨0x11, 2, .lpp, 0, 0, Code.eccUncorr, addr, 0⟩)) ∧
    (s.lpp.ready = true → 1000000 ≤ (s.tbtime - s.lpp.lastReq).toNat →
      becomes .lppSelfRefreshEntry s { s with lpp := { s.lpp with sref := true } })

/-! ### Links and the timebase (13) -/

/-- Flits: a good DATA flit in its place is accepted, an old one discarded, one past a gap or damaged answered with a NAK;
the transmitter numbers, credits and keeps what it sends until it is acknowledged, and replays it; PARAM and RECOVER go
out where the link exchanges parameters or asks its peer to recover. How many codewords were corrected is free
(R355 to R363, R366; logs 10, 69, 112). -/
def Obligations.LinkFlits : Prop :=
  (∀ (s : State) (l : Nat) (fec : Bool),
    let s' := countFec s l fec
    { s' with net := s.net, free := s.free } = s ∧ (∀ m, m ≠ l → s'.link m = s.link m) ∧
    { s'.link l with fecc := (s.link l).fecc, fecu := (s.link l).fecu } = s.link l ∧
    (fec = false → (s'.link l).fecu = (s.link l).fecu) ∧ (s.link l).fecc.toNat ≤ (s'.link l).fecc.toNat) ∧
  (∀ (s : State) (l : Nat) (f : Flit),
    let s0 := countFec s l false
    let x := s0.link l
    let y := x.takeHeader f
    let s1 := (s0.modLink l fun z => z.takeHeader f).tally 3 0x21 l 0 1
    let body := f.payload.take f.plen
    let back := (x.rxSeq + 4096 - f.seq % 4096) % 4096
    let recovered (z : Link) (s' : State) : Prop :=
      (s'.link l).st = .recovery ∧ (s'.link l).recov = satInc 32 x.recov ∧ (s'.link l).replay = z.replay ∧ sameMemory s s'
    let asks (s' : State) : Prop := ∃ g, (s'.link l).txLast = some g ∧ g.ftype = 2 ∧ ctrlKind g = 5
    l < 64 → s.agg.safe = false → flitGood f false = true →
    (x.st = .active → f.ftype = 1 →
      (f.seq % 4096 = x.rxSeq → x.room f.vl = true →
        becomes (.dataFlit l f false) s
          (accept ((s1.setLink l { y.hold f.vl with rxSeq := (x.rxSeq + 1) % 4096, rxAck := x.rxSeq, nakHold := false }).bwLink
            l 0 f.plen) l f)) ∧
      (f.seq % 4096 = x.rxSeq → x.room f.vl = false → becomes (.dataFlit l f false) s (s1.setLink l y.nak)) ∧
      (f.seq % 4096 = x.rxSeq → x.room f.vl = true → f.som = true → f.eom = true → look .none f.vl x.arriving = .none →
        f.dst = s.net.devId.toNat → oneLink (hKind body) = false →
        completes (.dataFlit l f false) s fun s s' =>
          let e := engineFor (ceOf l) body
          (s'.ce e).inbox = (s.ce e).inbox ++ [⟨some l, f.vl, f.src, body⟩] ∧ (s'.link l).rxSeq = (x.rxSeq + 1) % 4096 ∧
          (s'.link l).rxAck = x.rxSeq ∧ look 0 f.vl (s'.link l).held = look 0 f.vl x.held + 1 ∧ sameMemory s s') ∧
      (f.seq % 4096 ≠ x.rxSeq → back ≤ 1024 → becomes (.dataFlit l f false) s s1) ∧
      (f.seq % 4096 ≠ x.rxSeq → 1024 < back → becomes (.dataFlit l f false) s (s1.setLink l y.nak))) ∧
    (x.st = .active → f.ftype = 0 →
      becomes (.idleFlit l f false) s (s0.setLink l y) ∧
      ∀ o os, x.replay = o :: os → f.ack = o.seq → y.replay = os) ∧
    (x.st = .active → f.ftype = 2 → ctrlKind f = 1 →
      completes (.nak l f false) s fun _ s' =>
        let z := (s'.link l)
        let seq := flitField f 13 2 % 4096
        ((∀ r ∈ y.replay, r.seq ≠ seq) → z = y) ∧
        ((∃ r ∈ y.replay, r.seq = seq) → y.lastReplay = none → z.resend = some seq ∧ z.lastReplay = some (seq, 1) ∧
          z.replays = satInc 32 x.replays ∧ z.st = .active)) ∧
    ((x.st = .training ∨ x.st = .recovery) → f.ftype = 2 → ctrlKind f = 4 →
      completes (.param l f false) s fun s s' =>
        let z := { x with
          param := some ⟨flitField f 13 2, flitByte f 15 % 64, (List.range 8).map fun v => flitByte f (16 + v)⟩ }
        s'.link l = (if exchanges s l = true then z.sendParam s.net.devId l else z) ∧
        ∀ m, m ≠ l → s'.link m = s.link m) ∧
    (x.st = .active → f.ftype = 2 → ctrlKind f = 5 → completes (.recover l f false) s fun _ s' => recovered y s') ∧
    (x.st = .active → completes (.linkLockLoss l) s fun _ s' => recovered x s' ∧ asks s') ∧
    (x.st = .active → completes (.linkRetrain l) s fun _ s' => recovered x s' ∧ asks s' ∧ (s'.link l).retrain = true) ∧
    ((x.st = .training ∨ x.st = .active ∨ x.st = .recovery) → f.ftype = 2 → (ctrlKind f = 0 ∨ 5 < ctrlKind f) →
      becomes (.ctrlFlitOtherKind l f false) s (s0.setLink l { x with framing := satInc 32 x.framing }))) ∧
  (∀ (s : State) (l : Nat) (f : Flit) (fec : Bool),
    let x := (countFec s l fec).link l
    l < 64 → x.st = .active → s.agg.safe = false → f.ftype = 1 → flitGood f fec = false →
    completes (.dataFlit l f fec) s fun s s' =>
      s'.link l = ({ x with crcErr := satInc 32 x.crcErr } : Link).nak ∧ (∀ m, m ≠ l → s'.link m = s.link m) ∧
      { s' with net := s.net, free := s.free } = s) ∧
  (∀ (s : State) (l : Nat),
    let x := s.link l
    l < 64 →
    becomes (.nakHoldoffExpiry l) s (s.setLink l { x with nakHold := false }) ∧
    (x.st = .active →
      (∀ r rs, x.replay = r :: rs →
        (x.lastReplay = none →
          completes (.replayTimeout l) s fun s s' =>
            s'.link l = { x with resend := some r.seq, lastReplay := some (r.seq, 1), replays := satInc 32 x.replays } ∧
            sameMemory s s') ∧
        (∀ n, x.lastReplay = some (r.seq, n) → 7 ≤ n →
          completes (.replayTimeout l) s fun s s' =>
            (s'.link l).st = .recovery ∧ (s'.link l).replay = x.replay ∧ sameMemory s s')) ∧
      (x.resend = none → ∀ f, nextFlit s l = some f →
        let r : SentFlit := ⟨x.txSeq, f⟩
        completes (.flitTransmit l) s fun s s' =>
          let y := s'.link l
          y.txLast = (x.stamp (wireFlit r)).txLast ∧ y.replay = x.replay ++ [r] ∧ y.txSeq = (x.txSeq + 1) % 4096 ∧
          y.out = dropFirst f x.out ∧ look 0 f.vl y.sent = (look 0 f.vl x.sent + 1) % 4096 ∧ sameMemory s s' ∧
          (f.frees = none → ∀ m, m ≠ l → s'.link m = s.link m) ∧
          ∀ m n, f.frees = some (m, n) → m ≠ l → s'.link m = (s.link m).free f.vl n) ∧
      (∀ q r rs, x.resend = some q → x.replay.dropWhile (fun r => r.seq != q) = r :: rs →
        completes (.flitTransmit l) s fun s s' =>
          s'.link l = { x.stamp (wireFlit r) with resend := (rs.head?).map (·.seq) } ∧ sameMemory s s') ∧
      (x.resend = none → nextFlit s l = none →
        completes (.idleFlitSend l) s fun s s' =>
          { s' with net := s.net } = s ∧ ∃ g, (s'.link l).txLast = some g ∧ g.ftype = 0 ∧ g.crc = flitCrc g ∧
          g.ack = x.rxAck ∧ g.crvl = x.crvl ∧ g.crcnt = look 0 x.crvl x.freed)) ∧
    (exchanges s l = true →
      completes (.idleFlitSend l) s fun s s' =>
        { s' with net := s.net } = s ∧ (s'.link l).paramSent = true ∧ ∃ g, (s'.link l).txLast = some g ∧ g.ftype = 2 ∧
        g.crc = flitCrc g ∧ g.payload = padTo 240 (4 :: leBytes 2 s.net.devId.toNat ++ [BitVec.ofNat 8 l] ++
          [128, 128, 160, 160, 160, 160, 128, 0])))

/-- Link states, routes and bonds: a link trains after its grant and PARAM, fails with its reason, recovers with the same
peer; RTDATA and BOND write the routing (R354, R364 to R367, R371, R375, R378, R483). -/
def Obligations.LinkStates : Prop :=
  (∀ (s : State) (l : Nat),
    let x := s.link l
    let failed (n : Nat) (s s' : State) : Prop :=
      (s'.link l).st = .failed ∧ (s'.link l).freason = n ∧ (s'.link l).fails = satInc 32 x.fails ∧
      s'.agg.wrptr = s.agg.wrptr + 1 ∧ sameMemory s s'
    l < 64 →
    (s.powered = true → s.agg.safe = false → x.st = .off → x.cls ≠ 3 → (dtempOf s (4 + ceOf l)).tlevel < 2 →
      completes (.linkEnable l) s fun s s' =>
        s'.link l = { x with enable := true, st := .training, param := none, paramSent := false } ∧ sameMemory s s' ∧
        s'.power.waiting.map (fun r => (r.who, r.units)) = s.power.waiting.map (fun r => (r.who, r.units)) ++ [(.link l, 8)]) ∧
    (x.st = .off → becomes (.linkDisable l) s (s.setLink l { x with enable := false })) ∧
    (x.st ≠ .off → x.st ≠ .failed →
      becomes (.linkDisable l) s (failLink (s.setLink l { x with enable := false }) l .off none)) ∧
    (x.st = .training → x.replay = [] → x.out = [] →
      (bringUpGranted s l = true → completes (.linkTrainingTimeout l) s (failed 1)) ∧
      completes (.laneDidNotTrain l) s (failed 4)) ∧
    (x.st = .recovery →
      becomes (.linkRecoveryTimeout l) s (failLink s l .failed (some 2)) ∧
      becomes (.laneDidNotTrain l) s (failLink s l .failed (some 4))) ∧
    ∀ p, x.param = some p → s.net.devId ≠ 0xFFFF →
      (x.st = .training → bringUpGranted s l = true →
        completes (.linkTrainingComplete l) s fun s s' =>
          let y := s'.link l
          y.st = .active ∧ y.peerDev = p.dev ∧ y.peerLink = p.link ∧ y.txSeq = 0 ∧ y.rxSeq = 0 ∧ y.rxAck = 0 ∧ y.replay = [] ∧ y.sent = [] ∧
          y.held = [] ∧ (∀ v, v < 8 → look 0 v y.limit = p.limits.getD v 0) ∧
          look 0 (98 + l) s'.power.grants = 0 ∧ sameMemory s s') ∧
      (x.st = .recovery → p.dev = x.peerDev → p.link = x.peerLink →
        completes (.linkRecoveryComplete l) s fun s s' =>
          let y := s'.link l
          y.st = .active ∧ y.retrain = false ∧ y.replay = x.replay ∧ y.lastReplay = (x.replay.head?).map (fun r => (r.seq, 1)) ∧
          (x.replay ≠ [] → y.resend = (x.replay.head?).map (·.seq) ∧ y.replays = satInc 32 x.replays) ∧
          (∃ g, y.txLast = some g ∧ g.ftype = 0 ∧ g.ack = x.rxAck) ∧ sameMemory s s') ∧
      (x.st = .recovery → (p.dev ≠ x.peerDev ∨ p.link ≠ x.peerLink) →
        becomes (.linkRecoveryComplete l) s (failLink s l .failed (some 3)))) ∧
  ∀ (s : State) (v : W64), s.powered = true →
    completes (.rtdataWrite v) s (fun s s' =>
      { s' with net := s.net } = s ∧ { s'.net with route := s.net.route, rtIdx := s.net.rtIdx } = s.net ∧
      s'.net.rtIdx = (s.net.rtIdx + 1) % 65536 ∧
      ∀ n, look 0 n s'.net.route = if n = s.net.rtIdx then v.setWidth 16 else look 0 n s.net.route) ∧
    ∀ k, k < 32 →
      (popCount 32 (v.setWidth 32 : W32).toNat ≤ 8 →
        completes (.bondWrite k v) s fun s s' =>
          { s'.net with bonds := s.net.bonds } = s.net ∧ sameMemory s s' ∧ s'.cores = s.cores ∧
          (let t := { s with net := s'.net }
           (∀ q ∈ misfits t, q ∈ misfits s) → s' = t) ∧
          ∀ j, look ⟨false, 0⟩ j s'.net.bonds = if j = k then ⟨v.getLsbD 63, v.setWidth 32⟩ else look ⟨false, 0⟩ j s.net.bonds) ∧
      (8 < popCount 32 (v.setWidth 32 : W32).toNat →
        completes (.bondWrite k v) s fun s s' => s'.net = s.net ∧ s'.agg.wrptr = s.agg.wrptr + 1)

/-- Time requests: a follower asks its source, a TSREQ is answered with the times, and a valid TSRSP sets the offset:
the first steps TBTIME and sets SYNC, or holds TBTIME until it has caught up, and a later one is slewed (R372, R373). -/
def Obligations.TimeExchange : Prop :=
  ∀ (s : State) (l : Nat) (f : Flit),
    let n := s.net
    let sends (bs : List Byte) (y : Link) : Prop :=
      ∃ g, y.txLast = some g ∧ g.ftype = 2 ∧ g.payload = padTo 240 bs ∧ g.crc = flitCrc g
    let now := leBytes 8 s.tbtime.toNat
    s.agg.safe = false →
    (n.tbMaster = false → (s.link n.tbSrc).st = .active →
      completes .tsreqTimer s fun s s' =>
        { s' with net := s.net } = s ∧ sends (2 :: now) (s'.link n.tbSrc) ∧ ∀ m, m ≠ n.tbSrc → s'.link m = s.link m) ∧
    (l < 64 → (s.link l).st = .active → f.ftype = 2 → flitGood f false = true →
      (ctrlKind f = 2 →
        completes (.tsreq l f false) s fun s s' =>
          { s' with net := s.net, free := s.free } = s ∧
          sends (3 :: (f.payload.drop 1).take 8 ++ now ++ now ++ [if n.tbMaster ∨ n.tbSync then 1 else 0]) (s'.link l)) ∧
      (ctrlKind f = 3 → n.tbMaster = false → n.tbSrc = l → flitByte f 37 % 2 = 1 →
        let t1 : Int := flitField f 13 8
        let t2 : Int := flitField f 21 8
        let t3 : Int := flitField f 29 8
        let d : Int := s.tbtime.toNat - t1 - (t3 - t2)
        let off : Int := t2 - t1 - d / 2
        d % 2 = 0 →
        completes (.tsrsp l f false) s fun s s' =>
          s'.net.tbOffset = BitVec.ofInt 32 off ∧ s'.net.tbHold = false ∧ sameMemory s s' ∧
          s'.net.tbSync = (n.tbSync || decide (0 ≤ off)) ∧
          (n.tbSync = true → s'.tbtime = s.tbtime ∧ s'.net.tbSlew = off) ∧
          (n.tbSync = false → 0 < off → s'.tbtime = s.tbtime + BitVec.ofInt 64 off) ∧
          (n.tbSync = false → off ≤ 0 → s'.tbtime = s.tbtime ∧ s'.net.tbStop = (-off).toNat)))

/-! ### Power, boot and security (18, 19) -/

/-- LEDGER_SET sets the package's and a die's limit and parks and unparks dies; samples, thresholds, clocks and supplies
(R479 to R481, R488, R490, R492 to R494, R517, R523). -/
def Obligations.PowerCommands : Prop :=
  (∀ (s t : State) (q pid : Nat) (p : Pkt),
    let u := fld (p.w 2) 12 0
    let d := fld (p.w 1) 9 8
    let fn := fld (p.w 1) 3 0
    pktRuns s q opLedgerSet pid p t →
    (fn = 0 → t.power.base ≤ u → u ≤ 6000 →
      becomes (.ledgerSet q) s
        (completePkt (decideHead { t with power := { t.power with limit := u } }) pid Code.ok (BitVec.ofNat 32 t.power.limit))) ∧
    (fn = 0 → (u < t.power.base ∨ 6000 < u) → becomes (.ledgerSet q) s (completePkt t pid Code.badParam 0)) ∧
    (fn = 1 → u ≤ 6000 → t.hasDie d = true →
      becomes (.ledgerSet q) s
        (completePkt (decideHead { t with power := { t.power with dieLim := put 0x4B0 d u t.power.dieLim } }) pid Code.ok
          (BitVec.ofNat 32 (look 0x4B0 d t.power.dieLim)))) ∧
    (fn = 3 → t.hasDie d = true → t.parksOf d = [] → t.dieState d = .parked →
      becomes (.ledgerSet q) s (t.setParks d [⟨pid, false⟩])) ∧
    (fn = 2 → t.hasDie d = true → t.parksOf d = [] → t.dieState d = .run →
      (∀ c ∈ dieCores d, (t.core c).launches = []) →
      completes (.ledgerSet q) s fun _ s' => s'.parksOf d = [⟨pid, true⟩] ∧ s'.dieState d = .run ∧ sameMemory t s')) ∧
  (∀ (s : State) (d : Nat) (p : ParkOp),
    s.parksOf d = [p] →
    (p.park = true → (∀ c ∈ dieCores d, (s.core c).prog = none) →
      becomes (.dieParkComplete d) s
        (completePkt ((decideHead ((dropCores s d).setDie d .parked)).setParks d []) p.pid Code.ok 0)) ∧
    (p.park = false → becomes (.dieUnparkComplete d) s (completePkt ((s.setDie d .run).setParks d []) p.pid Code.ok 0))) ∧
  (∀ (s : State) (k : Nat) (rs : List (Option Int)),
    let x := dtempOf s k
    let n := (hottest rs).getD 0
    let p := s.power
    diePresent s k = true → rs.length = sensorsOf k → s.boot.phase = 5 → (∀ r ∈ rs, r.isSome) → x.tlevel = 0 →
    (∀ e ∈ x.fails, e.2 = 0) → n < p.crit.toNat →
    completes (.dieTempSample k rs) s fun s s' =>
      (dtempOf s' k).temp = BitVec.ofNat 8 n ∧ (dtempOf s' k).sfail = false ∧
      (dtempOf s' k).tlevel = (if p.hot.toNat ≤ n then 2 else if p.warm.toNat ≤ n then 1 else 0) ∧
      (∀ j, j ≠ k → dtempOf s' j = dtempOf s j) ∧ sameMemory s s') ∧
  (∀ (s : State) (v : W64), s.powered = true →
    let warm := fld v.toNat 7 0
    let hot := fld v.toNat 15 8
    let crit := fld v.toNat 23 16
    (s.power.thLock = true → becomes (.dthermWrite v) s s) ∧
    (s.power.thLock = false → warm < hot → hot < crit →
      becomes (.dthermWrite v) s { s with power := { s.power with
        thLock := v.getLsbD 63, hyst := BitVec.ofNat 8 (fld v.toNat 31 24), crit := BitVec.ofNat 8 crit
        hot := BitVec.ofNat 8 hot, warm := BitVec.ofNat 8 warm } }) ∧
    (s.power.thLock = false → (hot ≤ warm ∨ crit ≤ hot) →
      becomes (.dthermWrite v) s (record s ⟨0x03, 0, .power, 0, 0, 0, 0xE000C0, 0⟩))) ∧
  ∀ (s : State),
    (∀ dom, domainRuns s dom = true →
      let p := s.power.unlock (domainRef dom)
      let t : State := { s with power := { p with stopped := dom :: p.stopped } }
      becomes (.pllLockLoss dom) s (safeCause t 2 ⟨0x38, 3, .power, 0, 0, 0, clksts t.power, 0⟩) ∧
      t.clocked dom = false ∧ bitOf (clksts t.power) (domainRef dom) = false) ∧
    (∀ rail mv, s.pkg ≠ .off →
      becomes (.supplyMonitorTrip rail mv false) s (safeCause s 2 ⟨0x39, 3, .power, 0, 0, 0, rail, mv⟩)) ∧
    completes .powerRailsFall s fun s s' =>
      s'.pkg = .off ∧ s'.cores = [] ∧ s'.mem = [] ∧ s'.hmem0 = s.hmem0 ∧ s'.hmem1 = s.hmem1 ∧ s'.pending = s.pending

/-- Reset and boot: a cold reset leaves the reset state, a warm one keeps LPDDR and KEPT; the ROM, the mailbox, loading,
verifying and firmware move PHASE on, and each failure names its status (R442, R496 to R500, R502, R503). -/
def Obligations.BootSequence : Prop :=
  (∀ (s : State) (st : Straps),
    becomes (.coldReset st) s { State.reset with
      variant := s.variant, straps := st, pkg := .boot, hmem0 := s.hmem0, hmem1 := s.hmem1, free := s.free, pending := s.pending } ∧
    (s.pkg ≠ .off → s.boot.phase ≠ 7 →
      completes .warmReset s fun s s' =>
        s'.pkg = .boot ∧ s'.boot.phase = 0 ∧ s'.boot.kept = s.boot.kept ∧ s'.boot.keyset = s.boot.keyset ∧ s'.cores = [] ∧
        s'.lpp.sref = true ∧ s'.straps = s.straps ∧
        (wfTable 0 s.mem = true →
          ∀ a, s'.byte a = if 0x18000000000 ≤ a ∧ a < 0x1F000000000 then s.byte a else 0))) ∧
  (∀ (s : State) (env : RomEnv),
    let halted (code : Byte) (s s' : State) : Prop := s'.boot = { s.boot with phase := 7, code := code } ∧ { s' with boot := s.boot } = s
    s.pkg = .boot → s.boot.phase = 0 → s.straps.dbgscan = false →
    (s.boot.romDone = false →
      (env.romOk = false → completes (.romInit env) s (halted Code.verify)) ∧
      (env.romOk = true → env.lockOk = false → completes (.romInit env) s (halted Code.timeout)) ∧
      (env.romOk = true → env.lockOk = true → s.straps.lpden < 5 →
        completes (.romInit env) s fun s s' =>
          sameMemory s s' ∧ s'.boot = { s.boot with romDone := true } ∧ s'.sec.puf = some s.free ∧ s'.free = s.free + 1 ∧
          s'.power.clkSys = true ∧ s'.power.clkP0 = true ∧ s'.power.clkP1 = true ∧ s'.lpp.ready = true ∧
          s'.lpp.ranks = s.straps.lprank ∧ (∀ cfg, env.link0 = some cfg → s'.host.p0.up = true ∧ (s'.ctx 0).en = true ∧ (s'.ctx 0).cfg = cfg) ∧
          (∀ cfg, env.link1 = some cfg → s'.host.p1.up = true ∧ (s'.ctx 16).en = true ∧ (s'.ctx 16).cfg = cfg))) ∧
    (s.boot.romDone = true →
      becomes .romInitComplete s { s with boot := { s.boot with phase := 1, romDone := false } }) ∧
    completes .romInitTimeout s (halted Code.timeout)) ∧
  (∀ (s : State) (port op : Nat),
    let b := s.boot
    let m := b.mb port
    mailboxOpen s port = true →
    ((b.phase = 1 ∨ b.phase = 6) →
      becomes (.mbPush port) s { s with boot := { b with
        phase := 2, owner := port, kept := false, loadAddr := m.addr, loadLen := m.len } } ∧
      becomes (.mbReload port) s { s with boot :=
        if b.kept then { b with phase := 3, owner := port } else { b with code := Code.badParam, owner := port } }) ∧
    ((b.phase = 2 ∨ b.phase = 3) → b.owner = port →
      completes (.mbAbort port) s fun s s' =>
        s'.boot.phase = 6 ∧ s'.boot.code = Code.aborted ∧ s'.pkg = .boot ∧ s'.cores = [] ∧ s'.lpp = s.lpp) ∧
    (mbServed s port op = false → becomes (.mbcmdDiscarded port op) s { s with boot := b.setMb port { m with ign := true } })) ∧
  ∀ (s : State),
    let b := s.boot
    let o := s.bytes 0x18000000000 (max b.loadLen 20480)
    let lpp : Lpp := { s.lpp with sref := false, lastReq := s.tbtime }
    let fails (code : Byte) (s' : State) : Prop :=
      s'.boot.phase = 6 ∧ s'.boot.code = code ∧ s'.pkg = .boot ∧ s'.cores = [] ∧
      s'.sec = { State.reset.sec with m0 := s.sec.m0, puf := s.sec.puf } ∧ s'.tbtime = State.reset.tbtime ∧
      { s'.lpp with sref := s.lpp.sref, lastReq := s.lpp.lastReq, lue := s.lpp.lue } = s.lpp
    let lppFails (s' : State) : Prop := fails Code.eccUncorr s' ∧ s'.lpp = { lpp with lue := satInc 16 s.lpp.lue }
    (b.phase = 2 →
      completes (.imageLoadComplete .loaded) s (fun s s' =>
        s'.boot = { b with phase := 3 } ∧
        (∀ a, s'.byte a = if 0x18000000000 ≤ a ∧ a < 0x18000000000 + b.loadLen then
          look 0 (b.loadAddr.toNat + (a - 0x18000000000)) (s.hmem b.owner) else s.byte a) ∧
        { s' with boot := b, mem := s.mem, lpp := s.lpp } = s ∧ s'.lpp = lpp) ∧
      completes (.imageLoadComplete .lppError) s (fun _ => lppFails) ∧
      completes (.imageLoadComplete .hostFault) s (fun _ => fails Code.xlate)) ∧
    (b.phase = 3 →
      completes (.imageVerifyComplete true) s (fun _ => lppFails) ∧
      ((imageLenOk b o = false ∨ headerOk 1 o = false) →
        completes (.imageVerifyComplete false) s fun _ s' => fails Code.badParam s' ∧ s'.boot.kept = false) ∧
      (imageLenOk b o = true → headerOk 1 o = true →
        (objVerify o = none → completes (.imageVerifyComplete false) s fun _ s' => fails Code.verify s' ∧ s'.boot.kept = false) ∧
        ∀ i, objVerify o = some i →
          becomes (.imageVerifyComplete false) s { s with
            lpp := lpp
            boot := { b with phase := 4, code := 0, kept := true, keyset := i, version := BitVec.ofNat 32 (fieldAt o 8 4) }
            sec := { s.sec with m1 := objDigest o } })) ∧
    (b.phase = 4 →
      completes .firmwareReady s (fun s s' =>
        s'.pkg = .on ∧ s'.boot = { b with phase := 5 } ∧ s'.power.clkL0 = true ∧ s'.power.clkL1 = true ∧ sameMemory s s' ∧
        (s.host.p0.up = true → s'.host.stValid = true ∧ s'.host.stPort = 0)) ∧
      completes .fwInitTimeout s (fun _ => fails Code.timeout) ∧
      ∀ code, completes (.fwInitFailure code) s (fun _ => fails code))

/-- Identity, attestation, debug tokens and tamper (R506 to R513). -/
def Obligations.SecurityCommands : Prop :=
  (∀ (s t t1 t2 t3 : State) (q pid : Nat) (p : Pkt) (xl : Table Nat) (bs : List Byte),
    let va1 := fld (p.w 1) 47 0
    let va2 := fld (p.w 2) 47 0
    let at' (va : Nat) (l : List Byte) : List (Nat × Byte) := (pairs va l).map fun x => (viaXl xl x.1, x.2)
    let fn := fld (p.w 1) 51 48
    (pktRuns s q opAttest pid p t → fld (p.w 1) 63 48 = 0 → fld (p.w 2) 63 48 = 0 →
      xlate t p.ctx (upFrom va2 48) (upFrom va1 17376) = (t1, .ok xl) →
      (t1.sec.idState ≠ 2 → becomes (.attest q) s (completePkt t1 pid Code.perm (BitVec.ofNat 32 t1.sec.idState))) ∧
      (t1.sec.idState = 2 → readCheck t1 ((upFrom va2 48).map (viaXl xl)) = (t2, none) → bs = vaBytes t2 xl va2 48 →
        let body := reportBody t2 p.ctx bs
        let d := padTo 48 (Config.sha384 body)
        let sigs := padTo 384 (Config.rsaSign t2.sec.rsaPriv d (freeNat t2).1) ++
          padTo 16224 (Config.slhSign t2.sec.slhSk d (freeNat (freeNat t2).2).1)
        writeStop (freeNat (freeNat t2).2).2 (at' va1 (body ++ sigs)) = (t3, none) →
        becomes (.attest q) s (completePkt t3 pid Code.ok 0))) ∧
    (pktRuns s q opKeyPush pid p t → fn = 0 → fld (p.w 1) 63 52 = 0 → fld (p.w 2) 63 48 = 0 →
      xlate t p.ctx (upFrom va1 4096) [] = (t1, .ok xl) → t1.sec.idState = 0 →
      readCheck t1 ((upFrom va1 4096).map (viaXl xl)) = (t2, none) → bs = vaBytes t2 xl va1 4096 →
      fieldAt bs 0 4 = 1 → zeroAt bs 4 4 = true → zeroAt bs 2452 1644 = true →
      (loadIdentity t2.sec bs = none → becomes (.keyPush q) s (completePkt t2 pid Code.verify 0)) ∧
      ∀ y, loadIdentity t2.sec bs = some y → becomes (.keyPush q) s (completePkt { t2 with sec := y } pid Code.ok 0)) ∧
    (pktRuns s q opDebugUnlock pid p t → fn = 0 → t.sec.tlevel < 2 → (t.sec.idState = 1 ∨ t.sec.idState = 2) →
      xlate t p.ctx [] (upFrom va1 16) = (t1, .ok xl) → writeStop (freeBytes t1 16).2 (at' va1 (freeBytes t1 16).1) = (t2, none) →
      becomes (.debugUnlock q) s
        (completePkt { t2 with sec := { t2.sec with challenge := some (freeBytes t1 16).1 } } pid Code.ok 0)) ∧
    (pktRuns s q opDebugUnlock pid p t → fn = 1 → t.sec.tlevel < 2 →
      xlate t p.ctx (upFrom va1 17120) [] = (t1, .ok xl) → readCheck t1 ((upFrom va1 17120).map (viaXl xl)) = (t2, none) →
      bs = vaBytes t2 xl va1 17120 →
      (tokenLevel t2.sec bs = some 1 →
        becomes (.debugUnlock q) s
          (completePkt { t2 with sec := { t2.sec with challenge := none, debug := max t2.sec.debug 1 } } pid Code.ok 0)) ∧
      (tokenLevel t2.sec bs = none → satInc 8 t2.sec.fails ≠ 16 →
        becomes (.debugUnlock q) s
          (completePkt { t2 with sec := { t2.sec with fails := satInc 8 t2.sec.fails, challenge := none } } pid Code.verify 0)))) ∧
  ∀ (s : State), s.pkg ≠ .off →
    let x := s.sec
    let hit (bit level : Nat) : Sec := { x with tmp := x.tmp ||| (1 <<< bit), tlevel := max x.tlevel level }
    (∀ sensor bit, (sensor = .supply ∧ bit = 1) ∨ (sensor = .clock ∧ bit = 2) ∨ (sensor = .temperature ∧ bit = 3) →
      let y := (hit bit 2).zeroise
      becomes (.tamperTrip sensor) s
        (record { s with sec := y } ⟨0x50, 2, .sec, 0, 0, 0, y.tmp.toNat, 2⟩) ∧
      y.seed = [] ∧ y.kwrap = [] ∧ y.slhSk = [] ∧ y.rsaPriv = [] ∧ y.puf = none ∧ y.idState = 3) ∧
    becomes (.tamperTrip .shield) s
      (safeCause { s with sec := (hit 4 3).zeroise, boot := { s.boot with phase := 7 } } 3
        ⟨0x50, 3, .sec, 0, 0, 0, ((hit 4 3).zeroise).tmp.toNat, 3⟩)

/-- Self-tests of arrays and cores: a pass marks written rows good, a failure on a half with no command fences it and
poisons what was written since the last pass; a core test clears the core, and a failed one takes it out of service; a
Casori fault is a cause of the safe state, which the first cause enters (R517 to R523). -/
def Obligations.SelfTests : Prop :=
  ∀ (s : State) (c a h : Nat),
    let m := (s.core c).mxa a
    let t := testOf s c a h
    (hasTest s c a h = true →
      (s.powered = true → testDue s t = true → becomes (.selfTestDue c a h) s (setTest s c a h { t with due := true })) ∧
      (t.due = true → (m.half h).head ≠ none → becomes (.selfTestSuspend c a h) s (setTest s c a h { t with suspended := true })) ∧
      (t.due = true →
        completes (.selfTestResult c a h none) s (fun s s' =>
          testOf s' c a h = ⟨false, false, s.tbtime, false⟩ ∧ sameMemory s s' ∧
          { (s'.core c).mxa a with written := m.written } = m ∧
          ∀ n, ((s'.core c).mxa a).written.has n = (m.written.has n && !(m.poisonKeys h 0 512).contains n)) ∧
        ∀ col, (m.half h).head = none →
          completes (.selfTestResult c a h (some col)) s fun s s' =>
            (((s'.core c).mxa a).half h).fenced = true ∧ (testOf s' c a h).due = false ∧ (testOf s' c a h).failNext = true ∧
            s'.agg.wrptr = s.agg.wrptr + 2 ∧ sameMemory s s' ∧
            ∀ n, ((s'.core c).mxa a).poison.has n =
              (m.poison.has n || ((m.poisonKeys h 0 512).contains n && m.written.has n)))) ∧
    (∀ pass, s.agg.tst.has c = true →
      completes (.coreTestComplete c pass) s fun s s' =>
        s'.agg.tst.has c = false ∧ s'.agg.oos.has c = (!pass || s.agg.oos.has c) ∧ (s'.core c).prevCtx = none ∧
        s'.agg.wrptr = s.agg.wrptr + 1) ∧
    (∀ pair, s.pkg ≠ .off → pair < 2 →
      let e : Event := ⟨0x58, 3, .casori, pair, 0, 0, pair, 0⟩
      let w : Event := ⟨0x59, 3, .casori, pair, 0, 0, pair, 0⟩
      (s.agg.safe = true →
        becomes (.casoriLockstepMismatch pair) s (record s e) ∧ becomes (.casoriWatchdogExpiry pair) s (record s w)) ∧
      (s.agg.safe = false →
        becomes (.casoriLockstepMismatch pair) s (enterSafe (record s e) 2 s.agg.wrptr.toNat e) ∧
        becomes (.casoriWatchdogExpiry pair) s (enterSafe (record s w) 2 s.agg.wrptr.toNat w)))

/-! ### Ports, counters, check values and registers (16, 20, 21) -/

/-- BAR2, ATS and the events of a port: an access answers bytes or Unsupported Request, an invalidation and a page
response change the cached host pages, link and function resets tear contexts down, and enabled functions get their
contexts (R441 to R446, R449, R451). -/
def Obligations.PortEvents : Prop :=
  (∀ (s s1 : State) (ctx : Nat),
    let x := s.ctx ctx
    hostServed s ctx = true →
    (∀ addr n, inBar2 s ctx addr n = false →
      becomes (.bar2Read ctx addr n) s { s with host := { s.host with barRsp := none } } ∧
      ∀ bytes, bytes.length = n → becomes (.bar2Write ctx addr bytes) s s) ∧
    (∀ addr n bs, inBar2 s ctx addr n = true → readSpace s ctx false addr n = (s1, .ok bs) →
      becomes (.bar2Read ctx addr n) s { s1 with host := { s1.host with barRsp := some bs } }) ∧
    (∀ addr n code va, inBar2 s ctx addr n = true → readSpace s ctx false addr n = (s1, .err code va) →
      completes (.bar2Read ctx addr n) s fun s s' =>
        s'.host.barRsp = none ∧ (s'.ctx ctx).flt = ctxfltWord code 0 va ∧ s'.agg.wrptr = s1.agg.wrptr + 1 ∧ s'.mem = s1.mem) ∧
    (∀ addr bytes r, inBar2 s ctx addr bytes.length = true → writeSpace s ctx false addr bytes = (s1, .ok r) → becomes (.bar2Write ctx addr bytes) s s1) ∧
    (∀ page n, becomes (.atsInvalidation ctx page n) s
      (s.setCtx ctx { x with ats := true, atc := x.atc.filter fun e => decide (e.1 < page) || decide (page + n ≤ e.1) })) ∧
    ∀ page, look none page x.pageReqs = some .asked →
      (∀ bus, becomes (.pageRequestResponse ctx page (.granted bus)) s (s.setCtx ctx
        { x with ats := true, pri := true, atc := put 0 page (bus + 1) x.atc, pageReqs := put none page none x.pageReqs })) ∧
      becomes (.pageRequestTimeout ctx page) s
        (s.setCtx ctx { x with pageReqs := put none page (some .failed) x.pageReqs })) ∧
  (∀ (s : State) (port : Nat), port < 2 →
    let x := s.port port
    let exists' (lo n : Nat) (cfg : FnCfg) (s s' : State) : Prop :=
      sameMemory s s' ∧ s'.cores = s.cores ∧
      (∀ v, lo ≤ v → v < 16 → (s'.ctx (16 * port + v)).en = decide (v ≤ n) ∧ (s'.ctx (16 * port + v)).cfg = cfg) ∧
      (∀ v, v < lo → s'.ctx (16 * port + v) = s.ctx (16 * port + v)) ∧
      ∀ v, v < 16 → { s'.ctx (16 * port + v) with en := (s.ctx (16 * port + v)).en, cfg := (s.ctx (16 * port + v)).cfg } =
        s.ctx (16 * port + v)
    (x.up = true →
      becomes (.hotReset port) s (resetPort s port) ∧ becomes (.flrPf port) s (resetPort s port) ∧
      completes (.portLinkDown port) s (fun s s' =>
        let t := resetPort (s.setPort port { x with up := false }) port
        (t.host.stPort ≠ port → s' = t) ∧
        (t.host.stPort = port → s' = { t with host := { t.host with stValid := false } }))) ∧
    (x.vfEn = true →
      becomes (.vfEnableClear port) s
        (resetFunctions (teardownPort (s.setPort port { x with vfEn := false }) port) (upFrom (16 * port + 1) 15))) ∧
    (∀ cfg, x.up = false → s.clocked (.pcie port) = true → (port = 0 → s.power.clkP0 = true) → (port = 1 → s.power.clkP1 = true) →
      completes (.pcieLinkUp ⟨port, cfg⟩) s fun s s' =>
        exists' 0 0 cfg s s' ∧ s'.port port = { x with up := true, vfEn := false, numVf := 0 }) ∧
    ∀ n cfg, x.up = true → x.vfEn = false → 1 ≤ n → n ≤ 15 →
      completes (.vfEnableSet port ⟨n, cfg⟩) s fun s s' => exists' 1 n cfg s s' ∧ s'.port port = { x with vfEn := true, numVf := n }) ∧
  ∀ (s : State) (ctx : Nat), functionOn s ctx = true → ctx % 16 ≠ 0 →
    completes (.flrVf ctx) s fun _ s' =>
      let y := s'.ctx ctx
      y.en = true ∧ y.root = none ∧ y.xc = [] ∧ y.aen = false ∧ y.ats = false ∧ y.pri = false ∧
      (∀ m, (s'.sq m).owner ≠ some ctx) ∧ ∀ m, (s'.cq m).owner ≠ some ctx

/-- Tally counters: a grant gives a group with its counters clear, a selection and a monitor are configured, a snapshot
copies the counters, a window ends, and a dump record is written body first and header last
(R532, R533, R535 to R542). -/
def Obligations.TallyCounters : Prop :=
  (∀ (s t : State) (q pid : Nat) (p : Pkt) (g : Nat),
    let n := fld (p.w 1) 4 0
    let r := bitOf (p.w 1) 7
    pktRuns s q opTlyGrant pid p t → functionEnabled t n = true → g < 8 → fld (p.w 1) 18 8 = 2 ^ g →
    (r = false → t.tly.groupOf g ≠ some n →
      becomes (.tlyGrant q) s (completePkt { t with tly := t.tly.giveGroup g (some n) } pid Code.ok 1)) ∧
    (r = true → t.tly.groupOf g = some n →
      becomes (.tlyGrant q) s (completePkt { t with tly := t.tly.giveGroup g none } pid Code.ok 1)) ∧
    ∀ (y : Tly) (h : Option Nat),
      let z := y.giveGroup g h
      z.groupOf g = h ∧ (∀ k, 8 * g ≤ k → k < 8 * g + 8 → z.cntOf k = 0 ∧ (z.selOf k).getLsbD 63 = false) ∧
      ∀ k, (k < 8 * g ∨ 8 * g + 8 ≤ k) → z.cntOf k = y.cntOf k ∧ z.selOf k = y.selOf k) ∧
  (∀ (s : State) (ag : Agent) (v : W64), agentLive s ag = true →
    let flows : Bool := s.tly.sel.any fun p => timed p.2
    (∀ k, k < 64 → tlyMay ag (s.tly.groupOf (k / 8)) = true →
      (selectionOk s ag k v = true → flows = false →
        becomes (.tlyselWrite ag k v) s { s with tly := { s.tly with sel := put 0 k (v &&& 0xCF00FFFF000000FF) s.tly.sel } }) ∧
      (selectionOk s ag k v = false →
        completes (.tlyselWrite ag k v) s fun s s' => s'.tly = s.tly ∧ sameMemory s s' ∧ s'.agg.wrptr = s.agg.wrptr + 1)) ∧
    (maySnap s ag = true → flows = false →
      becomes (.tlySnap ag) s { s with tly := { s.tly with sh := s.tly.cnt } }) ∧
    ∀ m, m < 16 → tlyMay ag s.tly.bw = true →
      ((fld v.toNat 19 0 = 0 ∨ 1000000 < fld v.toNat 19 0) → becomes (.bwcfgWrite ag m v) s s) ∧
      (1 ≤ fld v.toNat 19 0 → fld v.toNat 19 0 ≤ 1000000 → bwSource s v.toNat = true →
        becomes (.bwcfgWrite ag m v) s
          { s with tly := s.tly.setMon m { Monitor.reset with cfg := v &&& 0xF83F0000000FFFFF } })) ∧
  (∀ (s : State) (m : Nat),
    let x := s.tly.mon m
    m < 16 → x.cfg.getLsbD 63 = true →
    (x.whole = false → becomes (.bwWindowEnd m) s { s with tly := s.tly.setMon m { x with whole := true, cur := 0 } }) ∧
    (x.whole = true → fld x.cfg.toNat 62 60 = 1 →
      let n := x.cur % 2 ^ 48
      becomes (.bwWindowEnd m) s
        { s with tly := s.tly.setMon m { x with last := n, peak := max x.peak n, wins := x.wins + 1, cur := 0 } })) ∧
  ∀ (s : State),
    let t := latch s
    let y := t.tly
    let pa := y.dva + y.seq.toNat % y.ring * 1024
    (s.tly.dEn = true → y.writing ≠ none →
      becomes .tlyDumpLatch s { t with tly := { y with lost := satInc 16 y.lost } }) ∧
    (∀ t1, s.tly.dEn = true → y.writing = none → y.dump = none → (∀ a ∈ upFrom pa 1024, populated t a = true) →
      writeStop t (pairs (pa + 32) (dumpBody y)) = (t1, none) →
      becomes .tlyDumpLatch s
        { t1 with tly := { t1.tly with seq := t1.tly.seq + 1, writing := some ⟨pa, dumpHeader y t1.tbtime⟩ } }) ∧
    ∀ r, s.tly.writing = some r → (writeCheck s (pairs r.addr r.bytes)).2 = none →
      completes .dumpRecordLanded s fun s s' =>
        s'.tly.writing = none ∧ ∀ a, s'.byte a = look 0 a (putAll 0 (pairs r.addr r.bytes) s.mem)

/-- Check-value channels: GO checks in order and runs, INIT and FEED make the value of the bytes fed, an abort ends the
operation, and a completed one leaves its value and OK or E_VERIFY (R544 to R549). -/
def Obligations.CheckValues : Prop :=
  (∀ (s : State) (ag : Agent) (k : Nat) (v : W64),
    let x := s.cv k
    let y : CvChan := { x with ctl := v &&& 0x00FFF0CF00000001 }
    let t := s.setCv k y
    let go : Prop := v.getLsbD 63 = true ∧ v.getLsbD 62 = false ∧ v.getLsbD 61 = false ∧ x.run = none
    let bad : Prop := y.mode = 3 ∨ (y.sspace = true ∧ y.hostDst = true)
    agentLive s ag = true → k < 4 → cvMay ag k = true →
    (go → bad → becomes (.cvGo ag k v) s (cvDone t k Code.badParam)) ∧
    (go → ¬bad → y.len = 0 → becomes (.cvGo ag k v) s (cvDone t k Code.okEmpty)) ∧
    (go → ¬bad → y.len ≠ 0 → y.overlap = true → becomes (.cvGo ag k v) s (cvDone t k Code.overlap)) ∧
    (∀ s1 xl, go → ¬bad → y.len ≠ 0 → y.overlap = false →
      xlate t (16 * (k / 2)) (if y.sspace then [] else upFrom y.src.toNat y.reads)
        (if y.hostDst then [] else upFrom y.dst.toNat y.writes) = (s1, .ok xl) →
      becomes (.cvGo ag k v) s (s1.setCv k { s1.cv k with run := some xl })) ∧
    (v.getLsbD 61 = true → v.getLsbD 63 = false → x.run ≠ none →
      becomes (.cvAbort ag k v) s (cvEnd s k Code.aborted)) ∧
    (v.getLsbD 62 = true → v.getLsbD 63 = false → v.getLsbD 61 = false → x.run = none →
      (y.mode ≠ 3 → becomes (.cvInit ag k v) s t) ∧
      (y.mode = 3 →
        let c := cvRun y.wide (if y.wide then 0 else 0xFFFFFFFF)
          (if y.fold then leBytes 8 y.tag.toNat ++ leBytes 4 y.seq.toNat else [])
        becomes (.cvInit ag k v) s (s.setCv k
          { y with acc := some (BitVec.ofNat 64 c), res := BitVec.ofNat 64 (if y.wide then c else c ^^^ 0xFFFFFFFF) }))) ∧
    (∀ c, x.acc = some c → x.mode = 3 →
      let fed (bs : List Byte) : State :=
        let d := cvRun x.wide c.toNat bs
        s.setCv k { x with acc := some (BitVec.ofNat 64 d), res := BitVec.ofNat 64 (if x.wide then d else d ^^^ 0xFFFFFFFF) }
      becomes (.cvFeed ag k 0x30 8 v) s (fed (leBytes 8 v.toNat)) ∧
      becomes (.cvFeed ag k 0x34 4 v) s (fed (leBytes 4 v.toNat)))) ∧
  ∀ (s : State) (k : Nat) (xl : Table Nat),
    let x := s.cv k
    let src := (upFrom x.src.toNat x.reads).map (viaXl xl)
    let bs := src.map s.byte
    let v := x.value (bs.take x.len)
    let l := (pairs x.dst.toNat (x.output bs)).map fun p => (viaXl xl p.1, p.2)
    let ends (code : Byte) (s' : State) : Prop :=
      (s'.cv k).run = none ∧ (s'.cv k).done = true ∧ (s'.cv k).status = code ∧ (s'.cv k).res = BitVec.ofNat 64 v ∧
      ∀ j, j ≠ k → s'.cv j = s.cv j
    x.run = some xl → x.sspace = false → (readCheck s src).2 = none →
    (x.mode = 1 →
      completes (.cvComplete k none) s fun s s' =>
        sameMemory s s' ∧ ends (if bs.drop x.len = leBytes x.w v then Code.ok else Code.verify) s') ∧
    ((x.mode = 0 ∨ x.mode = 2) → x.dspace = false → (∀ u, readCheck s src = (u, none) → (writeStop u l).2 = none) →
      completes (.cvComplete k none) s fun s s' =>
        (∀ a, s'.byte a = look 0 a (putAll 0 l s.mem)) ∧
        ends (if x.mode = 0 ∨ bs.drop x.len = leBytes x.w v then Code.ok else Code.verify) s')

/-- Writes of registers: an access of the wrong format changes nothing but the record it leaves, one to an absent unit
nothing at all, one to an unassigned offset is recorded; an assigned one reaches its register with the bits it covers;
the context page and BAR4 reach what their agents may write (R7, R10, R11, R27, R34, R447, R475, R529, R530). -/
def Obligations.RegisterWrites : Prop :=
  ∀ (s : State) (ag : Agent) (off width : Nat) (v : W64),
    let reached : W64 × W64 :=
      if width = 8 then (v, -1)
      else if off % 8 = 4 then (v <<< 32, 0xFFFFFFFF00000000) else (v &&& 0xFFFFFFFF, 0xFFFFFFFF)
    let good : Prop := (width = 4 ∨ width = 8) ∧ off % width = 0
    let b := blockOf (off / 8 * 8)
    let noted (s s' : State) : Prop := { s' with agg := s.agg, host := s.host } = s ∧ s'.agg.wrptr = s.agg.wrptr + 1
    agentLive s ag = true →
    (¬good → completes (.csrWrite ag off width v) s noted) ∧
    (∀ pair, ag = .firmware pair → good →
      (blockAbsent s b = true → becomes (.csrWrite ag off width v) s s) ∧
      (blockAbsent s b = false → blockRead s b = none → completes (.csrWrite ag off width v) s noted) ∧
      (blockAbsent s b = false → blockRead s b ≠ none →
        becomes (.csrWrite ag off width v) s (blockWrite s ag width reached.1 reached.2 b)) ∧
      (off = 0x1200010 → width = 8 → s.agg.sfLock = false →
        becomes (.csrWrite ag off width v) s
          { s with agg := { s.agg with stper := BitVec.ofNat 16 (fld v.toNat 15 0), sfLock := v.getLsbD 63 } }) ∧
      (off = 0x1200010 → width = 8 → s.agg.sfLock = true → becomes (.csrWrite ag off width v) s s)) ∧
    (∀ n, ag = .ctxPage n → width = 8 → (s.ctx n).aen = false →
      (off = 0x108 → becomes (.csrWrite ag off width v) s (s.setCtx n { s.ctx n with asqBase := v })) ∧
      (off = 0x110 → becomes (.csrWrite ag off width v) s (s.setCtx n { s.ctx n with acqBase := v }))) ∧
    (∀ n j o, ag = .bar4 n → good → (b = .stack j o ∨ b = .power o ∨ b = .link j o ∨ b = .core j o) →
      completes (.csrWrite ag off width v) s noted) ∧
    (ag = .debugPort → good → completes (.csrWrite ag off width v) s noted)

/-- A register write completes, with the register's new value: whole registers, 32-bit halves, fields under a lock, the
mailbox and a check-value channel; a read-only register keeps its value, and an agent that is not served has no effect
(R10, R11, R348, R350, R376, R379, R439, R489, R500, R546). -/
def Obligations.RegisterWriteCompletes : Prop :=
  ∀ (s : State) (p : Nat) (v : W64),
    let put (off width : Nat) (t : State) : Prop := becomes (.csrWrite (.firmware p) off width v) s t
    (agentLive s (.firmware p) = true →
      (∀ k, k < 8 → s.hasStack k = true →
        let x := s.stack k
        let off := 0x800020 + k * 0x10000
        let prio : W32 := BitVec.ofNat 32 (fld v.toNat 37 6)
        (x.prLock = false → put off 8 (s.setStack k
          { x with ctxPrio := prio, bound := BitVec.ofNat 6 (fld v.toNat 5 0), prLock := v.getLsbD 63 })) ∧
        (x.prLock = true → put off 8 (s.setStack k { x with ctxPrio := prio })) ∧
        put (0x800028 + k * 0x10000) 8 (s.setStack k
          { x with ccnt := BitVec.ofNat 32 (fld v.toNat 63 32), ucnt := BitVec.ofNat 16 (fld v.toNat 31 16) })) ∧
      (∀ l, l < 64 →
        let x := s.link l
        put (0xA00010 + l * 0x1000) 8 (s.setLink l { x with fecc := v }) ∧
        put (0xA00010 + l * 0x1000) 4
          (s.setLink l { x with fecc := (x.fecc &&& 0xFFFFFFFF00000000) ||| (v &&& 0xFFFFFFFF) }) ∧
        put (0xA00014 + l * 0x1000) 4 (s.setLink l { x with fecc := (x.fecc &&& 0xFFFFFFFF) ||| (v <<< 32) })) ∧
      (∀ e, e < 2 → put (0xB00028 + e * 0x10000) 8 (s.setCe e { s.ce e with evBytes := v })) ∧
      (∀ n, n < 32 → put (0xE00100 + 8 * n) 8 (decideHead
        { s with power := { s.power with ctxLim := Sys2Proof.Machine.put 0x1770 n (fld v.toNat 12 0) s.power.ctxLim } })) ∧
      (s.net.tbLock = false → put 0x1300008 8
        { s with net := { s.net with tbMaster := v.getLsbD 7, tbSrc := fld v.toNat 5 0, tbLock := v.getLsbD 63 } }) ∧
      (s.net.tbLock = true → put 0x1300008 8 s) ∧ put 0x1300000 8 s) ∧
    (p < 2 → mailboxOpen s p = true →
      let m := s.boot.mb p
      becomes (.csrWrite (.bar4 p) (0x10008 + 0x100 * p) 8 v) s { s with boot := s.boot.setMb p { m with addr := v } } ∧
      becomes (.csrWrite (.bar4 p) (0x10010 + 0x100 * p) 8 v) s
        { s with boot := s.boot.setMb p { m with len := fld v.toNat 25 0 } } ∧
      becomes (.csrWrite (.bar4 p) (0x10008 + 0x100 * (1 - p)) 8 v) s s) ∧
    (∀ ag k, agentLive s ag = true → k < 4 → cvMay ag k = true → (s.cv k).busy = false → (∀ n, ag ≠ .ctxPage n) →
      ag ≠ .debugPort →
      becomes (.csrWrite ag (0x1100008 + 0x100 * k) 8 v) s (s.setCv k { s.cv k with src := v })) ∧
    (agentLive s (.firmware p) = false → ∀ off width, put off width s)

/-- Reads of registers: 64 bits, or the half that the address names; a wrong format answers all ones and leaves a record,
an unassigned offset zero and a record, an absent unit zero; the security block reads zero through BAR4, and a doorbell
zero through BAR0. The table has no row for these reads: they are functions of the model (R7, R10, R27, R447, R461, R475;
log 111). -/
def Obligations.RegisterReads : Prop :=
  ∀ (s : State) (ag : Agent) (off o width : Nat),
    o % 8 = 0 →
    (¬((width = 4 ∨ width = 8) ∧ off % width = 0) → csrRead s ag off width = (agentEvent s ag (eventOff ag off) 0 width false, -1)) ∧
    (readsTly ag o = false →
      (∀ v, agentRead s ag o = some v →
        csrRead s ag o 8 = (s, v) ∧ csrRead s ag o 4 = (s, v &&& 0xFFFFFFFF) ∧ csrRead s ag (o + 4) 4 = (s, v >>> 32)) ∧
      (agentRead s ag o = none → csrRead s ag o 8 = (agentEvent s ag (eventOff ag o) 1 8 false, 0))) ∧
    (∀ p, ag = .firmware p →
      (blockAbsent s (blockOf o) = true → agentRead s ag o = some 0) ∧
      (blockAbsent s (blockOf o) = false → agentRead s ag o = blockRead s (blockOf o))) ∧
    (∀ p, ag = .bar4 p → 0xF00000 ≤ o → o < 0x1000000 → csrRead s ag o 8 = (s, 0)) ∧
    ∀ n, hostServed s n = true →
      (off < 0x10000 → (width = 4 ∨ width = 8) → off % width = 0 → barRead s n false off width = (s, some 0)) ∧
      barRead s n false 0x10080 8 = (s, some s.tbtime) ∧
      barRead s n false 0x10108 8 = (s, some (s.ctx n).asqBase)

/-- The management and debug ports: SMBus answers and NACKs, the JTAG instructions, and accesses at the unlocked level
(R513, R562, R563). -/
def Obligations.ManagementPorts : Prop :=
  ∀ (s : State), s.pkg ≠ .off →
    let smb (a : SmbAnswer) : State := { s with mgmt := { s.mgmt with smb := a } }
    let sel (i : JtagInstr) (dr : W64) (d : Bool) : Mgmt := { s.mgmt with instr := i, dr := dr, driven := d }
    let dbg : State := { s with mgmt := sel .dbgacc 0 false }
    let temp (present : Bool) (level t : Nat) : Nat := if present then level * 256 + t else 0
    becomes .smbPhase s (smb (.data (leBytes 1 s.boot.phase))) ∧
    becomes .smbSafe s (smb (.data (leBytes 1 ((if s.agg.safe then 128 else 0) + s.agg.cause)))) ∧
    becomes .smbPart s (smb (.data [0x60, 0x81])) ∧
    becomes .smbStepping s (smb (.data [0x01])) ∧
    (∀ k, k < 6 → becomes (.smbDieTemp k) s
      (smb (.data (leBytes 2 (temp (diePresent s k) (dtempOf s k).tlevel (dtempOf s k).temp.toNat))))) ∧
    (∀ k, k < 8 → becomes (.smbStackTemp k) s
      (smb (.data (leBytes 2 (temp (s.hasStack k) (s.stack k).tlevel (s.stack k).temp.toNat))))) ∧
    becomes .smbLedgerUsed s (smb (.data (leBytes 2 (granted s + s.power.base)))) ∧
    becomes .smbLedgerLimit s (smb (.data (leBytes 2 s.power.limit))) ∧
    (∀ cmd bs, becomes (.smbWrite cmd bs) s (smb .nack)) ∧
    becomes .bypass s { s with mgmt := sel .bypass 0 false } ∧
    becomes .idcode s { s with mgmt := sel .idcode (BitVec.ofNat 64
      (1 * 2 ^ 28 + 0x8160 * 2 ^ 12 + Config.jedecId % 2 ^ 11 * 2 + 1)) false } ∧
    (∀ pins vals, becomes (.samplePreload pins vals) s
      { s with mgmt := { sel .sample 0 false with sampled := pins, preload := vals } }) ∧
    (s.straps.dbgscan = true → becomes .extest s { s with mgmt := sel .extest 0 true }) ∧
    (s.straps.dbgscan = false → becomes .extest s { s with mgmt := sel .bypass 0 false }) ∧
    (∀ off, s.sec.debug = 0 → becomes (.dbgacc (.readCsr off)) s dbg) ∧
    (∀ off x, 1 ≤ s.sec.debug → off % 8 = 0 → blockOf off = .agg x → ∀ r, aggRead s.agg x = some r →
      becomes (.dbgacc (.readCsr off)) s { s with mgmt := sel .dbgacc r false }) ∧
    (∀ a n, s.sec.debug < 2 →
      becomes (.dbgacc (.readMem a n)) s { dbg with mgmt := { dbg.mgmt with dbg := some (List.replicate n 0) } }) ∧
    (∀ a n t, 2 ≤ s.sec.debug → (∀ b ∈ upFrom a n, populated s b = true) → readCheck dbg (upFrom a n) = (t, none) →
      becomes (.dbgacc (.readMem a n)) s { t with mgmt := { t.mgmt with dbg := some (s.bytes a n) } }) ∧
    (∀ a bs t, 2 ≤ s.sec.debug → (∀ b ∈ upFrom a bs.length, populated s b = true) → writeCheck dbg (pairs a bs) = (t, none) →
      becomes (.dbgacc (.writeMem a bs)) s t) ∧
    (∀ c, 2 ≤ s.sec.debug → s.hasCore c = true →
      becomes (.dbgacc (.haltCore c)) s { dbg with mgmt := { dbg.mgmt with halted := s.mgmt.halted.add c } }) ∧
    (∀ c, 2 ≤ s.sec.debug → c < 2 →
      becomes (.dbgacc (.haltCasori c)) s { dbg with mgmt := { dbg.mgmt with halted := s.mgmt.halted.add (96 + c) } })

/-! ### The whole block -/

/-- Every command answers a next state in every state; a step runs the command at the front of the queue on the state
with the rest of the queue; on an empty queue the block idles, one tick of TBTIME with nothing else commanded (log 3 is
the model's choice, R379). -/
def Obligations.StepRunsFrontCommand : Prop :=
  (∀ (c : Instr) (s : State), answers (exec c s)) ∧
  (∀ (c : Instr) (cs : List Instr) (s : State), step { s with pending := c :: cs } = exec c { s with pending := cs }) ∧
  ∀ (s : State), s.pending = [] →
    step s = .next s.idleTick ∧ s.idleTick.mem = s.mem ∧ s.idleTick.cores = s.cores ∧
    ((s.powered = false ∨ s.clocked .timebase = false) → s.idleTick = s) ∧
    (s.powered = true → s.clocked .timebase = true →
      (s.net.tbStop = 0 → s.net.tbSlew = 0 → s.idleTick.tbtime = s.tbtime + 1) ∧
      (s.net.tbStop = 1 → s.net.tbHold = false → s.idleTick.tbtime = s.tbtime ∧ s.idleTick.net.tbSync = true))

/-- What reset leaves: the values the rules give, and every memory in its canonical form (R28, R480, R489, R494, R496,
R497; the values that rest on a log entry are not named here). -/
def Obligations.ResetState : Prop :=
  let s := State.reset
  s.memoriesOk ∧ s.pkg = .boot ∧ s.boot.phase = 0 ∧ s.tbtime = 0 ∧ s.pending = [] ∧ s.agg.safe = false ∧
  (∀ d, s.dieState d = .run) ∧ (∀ l, (s.link l).st = .off) ∧ (∀ k, (s.stack k).state = .down) ∧
  (∀ c t, (s.core c).prog = none ∧ ((s.core c).stream t).st = .idle) ∧ (∀ c i, (s.core c).tcOf i = 0) ∧
  (∀ c a x, (((s.core c).mxa a).half x).queue = [] ∧ (((s.core c).mxa a).half x).fenced = false) ∧
  (∀ n, (s.sq n).owner = none ∧ (s.cq n).owner = none) ∧ (∀ n, (s.stEntry n).st = .free) ∧
  (∀ e h, (s.ce e).plan h = none ∧ (s.ce e).inst h = none) ∧ s.sec.idState = 0 ∧ s.sec.debug = 0

/-- An event's record goes into the ring at WRPTR, WRPTR moves on by one, and the counters, FAULT_N, FATALREC and the
interrupt follow its severity; nothing else changes (R527, R528, R530). -/
def Obligations.EventRecords : Prop :=
  ∀ (s : State) (e : Event),
    let a := s.agg
    let t := record s e
    let b := t.agg
    { t with agg := s.agg, host := s.host } = s ∧ { t.host with msix := s.host.msix } = s.host ∧
    b.wrptr = a.wrptr + 1 ∧
    (∀ n, look .zero n b.ring = if n = a.wrptr.toNat % 1024 then e.record s.tbtime a.wrptr else look .zero n a.ring) ∧
    b.cont = (if e.sev = 2 then satInc 16 a.cont else a.cont) ∧ b.fatal = (if e.sev = 3 then satInc 8 a.fatal else a.fatal) ∧
    (e.sev = 3 → b.faultN = true ∧ (a.fatalSet = false → b.fatalRec = e.record s.tbtime a.wrptr)) ∧
    (e.sev ≠ 3 → b.faultN = a.faultN ∧ b.fatalRec = a.fatalRec) ∧
    (a.irqSev ≤ e.sev → (s.host.p0.up = true → (0, a.vec) ∈ t.host.msix) ∧ (s.host.p1.up = true → (16, a.vec) ∈ t.host.msix)) ∧
    (e.sev < a.irqSev → t.host.msix = s.host.msix) ∧
    (let r := e.record s.tbtime a.wrptr
     r.w0 = s.tbtime ∧ r.w2 = BitVec.ofNat 64 e.info1 ∧ fld r.w3.toNat 63 32 = a.wrptr.toNat ∧
     fld r.w3.toNat 31 0 = e.info2 % 2 ^ 32 ∧
     (e.code < 256 → e.sev < 4 → e.index < 4096 → e.sub < 16 →
       fld r.w1.toNat 63 56 = e.code ∧ fld r.w1.toNat 55 54 = e.sev ∧ fld r.w1.toNat 53 52 = 0 ∧
       fld r.w1.toNat 51 48 = e.cls.code ∧ fld r.w1.toNat 47 36 = e.index ∧ fld r.w1.toNat 35 32 = e.sub ∧
       fld r.w1.toNat 31 24 = e.status.toNat ∧ fld r.w1.toNat 23 0 = 0)) ∧
    ([.core, .hbm, .lpp, .link, .ce, .ingest, .pcie, .power, .sec, .casori, .fabric, .tb].map SrcClass.code = List.range 12) ∧
    ∀ (m : Nat) (n : BitVec m), satInc m (BitVec.allOnes m) = BitVec.allOnes m ∧ (n ≠ BitVec.allOnes m → satInc m n = n + 1)

/-- Every step keeps every memory of the state in its canonical form: addresses strictly rising, and no entry equal to
what an unlisted address reads as. -/
def Obligations.StepKeepsMemories : Prop :=
  ∀ (s s' : State), s.memoriesOk → step s = .next s' → s'.memoriesOk
end

