-- ==== Sys2Proof/Laws/Table.lean ====
section
/-! SUPPORT. The laws of sparse tables: reading after writing, and the canonical form kept by every operation. -/

namespace Sys2Proof.Machine

variable {α : Type}

/-! ### Reading after writing -/

theorem look_erase_same (d : α) (k : Nat) (t : Table α) : look d k (erase k t) = d := by
  induction t with
  | nil => rfl
  | cons p t ih =>
    simp only [erase]
    split
    · exact ih
    · simp [look, *]

theorem look_erase_other (d : α) {k j : Nat} (h : j ≠ k) (t : Table α) : look d j (erase k t) = look d j t := by
  induction t with
  | nil => rfl
  | cons p t ih =>
    obtain ⟨a, v⟩ := p
    simp only [erase]
    split
    · next e => subst e; simp [look, ih, Ne.symm h]
    · simp only [look, ih]

theorem look_insertAt_other (d : α) {k j : Nat} (h : j ≠ k) (v : α) (t : Table α) :
    look d j (insertAt k v t) = look d j t := by
  induction t with
  | nil => simp [insertAt, look, Ne.symm h]
  | cons p t ih =>
    obtain ⟨a, w⟩ := p
    simp only [insertAt]
    split
    · simp [look, Ne.symm h]
    · simp only [look, ih]

theorem look_insertAt_erase (d : α) (k : Nat) (v : α) (t : Table α) : look d k (insertAt k v (erase k t)) = v := by
  induction t with
  | nil => simp [erase, insertAt, look]
  | cons p t ih =>
    obtain ⟨a, w⟩ := p
    simp only [erase]
    split
    · exact ih
    · next e =>
      simp only [insertAt]
      split
      · simp [look]
      · simp only [look, e, if_false, ih]

/-- Reading the key just written gives the value written. -/
@[simp] theorem look_put_same [DecidableEq α] (d : α) (k : Nat) (v : α) (t : Table α) : look d k (put d k v t) = v := by
  unfold put
  split
  · next e => rw [e]; exact look_erase_same d k t
  · exact look_insertAt_erase d k v t

/-- Writing one key leaves every other key as it is. -/
theorem look_put_other [DecidableEq α] (d : α) {k j : Nat} (h : j ≠ k) (v : α) (t : Table α) :
    look d j (put d k v t) = look d j t := by
  unfold put
  split
  · exact look_erase_other d h t
  · rw [look_insertAt_other d h, look_erase_other d h]

/-- Reading any key after writing one. -/
theorem look_put [DecidableEq α] (d : α) (k j : Nat) (v : α) (t : Table α) :
    look d j (put d k v t) = if j = k then v else look d j t := by
  split
  · next e => rw [e]; exact look_put_same d k v t
  · next e => exact look_put_other d e v t

@[simp] theorem look_nil (d : α) (k : Nat) : look d k ([] : Table α) = d := rfl

/-! ### The canonical form -/

/-- The canonical form as a proposition: keys rise strictly, and no entry is the default. -/
def Canon (d : α) (t : Table α) : Prop := t.Pairwise (fun p q => p.1 < q.1) ∧ ∀ p ∈ t, p.2 ≠ d

theorem wfTable_iff [DecidableEq α] (d : α) (t : Table α) : wfTable d t = true ↔ Canon d t := by
  induction t with
  | nil => simp [wfTable, Canon]
  | cons p t ih =>
    obtain ⟨a, v⟩ := p
    cases t with
    | nil => simp [wfTable, Canon]
    | cons q t =>
      obtain ⟨b, w⟩ := q
      simp only [wfTable, Bool.and_eq_true, decide_eq_true_eq, ih, Canon]
      constructor
      · rintro ⟨⟨hv, hab⟩, hp, hd⟩
        refine ⟨List.pairwise_cons.2 ⟨?_, hp⟩, ?_⟩
        · intro x hx
          rcases List.mem_cons.1 hx with rfl | hx
          · exact hab
          · exact Nat.lt_trans hab ((List.pairwise_cons.1 hp).1 x hx)
        · intro x hx
          rcases List.mem_cons.1 hx with rfl | hx
          · exact hv
          · exact hd x hx
      · rintro ⟨hp, hd⟩
        exact ⟨⟨hd (a, v) (by simp), (List.pairwise_cons.1 hp).1 (b, w) (by simp)⟩, (List.pairwise_cons.1 hp).2,
          fun x hx => hd x (List.mem_cons_of_mem _ hx)⟩

theorem mem_erase {k : Nat} {t : Table α} {p : Nat × α} (h : p ∈ erase k t) : p ∈ t := by
  induction t with
  | nil => simp [erase] at h
  | cons q t ih =>
    obtain ⟨a, v⟩ := q
    simp only [erase] at h
    split at h
    · exact List.mem_cons_of_mem _ (ih h)
    · rcases List.mem_cons.1 h with rfl | h
      · exact List.mem_cons_self
      · exact List.mem_cons_of_mem _ (ih h)

theorem fst_ne_of_mem_erase {k : Nat} {t : Table α} {p : Nat × α} (h : p ∈ erase k t) : p.1 ≠ k := by
  induction t with
  | nil => simp [erase] at h
  | cons q t ih =>
    obtain ⟨a, v⟩ := q
    simp only [erase] at h
    split at h
    · exact ih h
    · next e =>
      rcases List.mem_cons.1 h with rfl | h
      · exact e
      · exact ih h

theorem pairwise_erase {k : Nat} {t : Table α} (h : t.Pairwise (fun p q => p.1 < q.1)) :
    (erase k t).Pairwise (fun p q => p.1 < q.1) := by
  induction t with
  | nil => exact List.Pairwise.nil
  | cons q t ih =>
    obtain ⟨a, v⟩ := q
    have hc := List.pairwise_cons.1 h
    simp only [erase]
    split
    · exact ih hc.2
    · exact List.pairwise_cons.2 ⟨fun p hp => hc.1 p (mem_erase hp), ih hc.2⟩

theorem mem_insertAt {k : Nat} {v : α} {t : Table α} {p : Nat × α} (h : p ∈ insertAt k v t) : p = (k, v) ∨ p ∈ t := by
  induction t with
  | nil => simpa [insertAt] using h
  | cons q t ih =>
    obtain ⟨a, w⟩ := q
    simp only [insertAt] at h
    split at h
    · simpa using h
    · rcases List.mem_cons.1 h with rfl | h
      · exact Or.inr List.mem_cons_self
      · rcases ih h with e | h
        · exact Or.inl e
        · exact Or.inr (List.mem_cons_of_mem _ h)

theorem pairwise_insertAt {k : Nat} {v : α} {t : Table α} (h : t.Pairwise (fun p q => p.1 < q.1)) (hk : ∀ p ∈ t, p.1 ≠ k) :
    (insertAt k v t).Pairwise (fun p q => p.1 < q.1) := by
  induction t with
  | nil => simp [insertAt]
  | cons q t ih =>
    obtain ⟨a, w⟩ := q
    have hc := List.pairwise_cons.1 h
    simp only [insertAt]
    split
    · next lt =>
      refine List.pairwise_cons.2 ⟨?_, h⟩
      intro p hp
      rcases List.mem_cons.1 hp with rfl | hp
      · exact lt
      · exact Nat.lt_trans lt (hc.1 p hp)
    · next nlt =>
      have hak : a ≠ k := hk (a, w) List.mem_cons_self
      refine List.pairwise_cons.2 ⟨?_, ih hc.2 fun p hp => hk p (List.mem_cons_of_mem _ hp)⟩
      intro p hp
      rcases mem_insertAt hp with rfl | hp
      · exact Nat.lt_of_le_of_ne (Nat.le_of_not_lt nlt) hak
      · exact hc.1 p hp

theorem canon_put [DecidableEq α] {d : α} (k : Nat) (v : α) {t : Table α} (h : Canon d t) : Canon d (put d k v t) := by
  unfold put
  split
  · exact ⟨pairwise_erase h.1, fun p hp => h.2 p (mem_erase hp)⟩
  · next hv =>
    refine ⟨pairwise_insertAt (pairwise_erase h.1) fun p hp => fst_ne_of_mem_erase hp, fun p hp => ?_⟩
    rcases mem_insertAt hp with rfl | hp
    · exact hv
    · exact h.2 p (mem_erase hp)

/-- Writing one key keeps the canonical form. -/
theorem wfTable_put [DecidableEq α] {d : α} (k : Nat) (v : α) {t : Table α} (h : wfTable d t = true) :
    wfTable d (put d k v t) = true := (wfTable_iff d _).2 (canon_put k v ((wfTable_iff d t).1 h))

/-- Writing a list of entries keeps the canonical form. -/
theorem wfTable_putRange [DecidableEq α] {d : α} (lo : Nat) (vs : List α) {t : Table α} (h : wfTable d t = true) :
    wfTable d (putRange d lo vs t) = true := by
  induction vs generalizing lo t with
  | nil => exact h
  | cons v vs ih => exact ih (lo + 1) (wfTable_put lo v h)

/-- Writing pairs keeps the canonical form. -/
theorem wfTable_putAll [DecidableEq α] {d : α} (l : List (Nat × α)) {t : Table α} (h : wfTable d t = true) :
    wfTable d (putAll d l t) = true := by
  induction l generalizing t with
  | nil => exact h
  | cons p l ih => exact ih (wfTable_put p.1 p.2 h)

/-- Leaving entries out keeps the canonical form. -/
theorem wfTable_filter [DecidableEq α] {d : α} (f : Nat × α → Bool) {t : Table α} (h : wfTable d t = true) :
    wfTable d (t.filter f) = true := by
  have hc := (wfTable_iff d t).1 h
  exact (wfTable_iff d _).2 ⟨hc.1.filter f, fun p hp => hc.2 p (List.mem_filter.1 hp).1⟩

/-- Changing every entry keeps the canonical form. -/
theorem wfTable_remap [DecidableEq α] {d : α} (f : α → α) {t : Table α} (h : wfTable d t = true) :
    wfTable d (remap d f t) = true := by
  unfold remap
  suffices ∀ (l u : Table α), wfTable d u = true → wfTable d (l.foldl (fun u p => put d p.1 (f p.2) u) u) = true from this t t h
  intro l
  induction l with
  | nil => intro u hu; exact hu
  | cons p l ih => intro u hu; exact ih _ (wfTable_put p.1 (f p.2) hu)

/-- Equal readings make equal tables: the canonical form is unique. -/
theorem canon_lower {d : α} {a : Nat} {v : α} {t : Table α} (h : Canon d ((a, v) :: t)) {k : Nat} (hk : k < a) :
    look d k ((a, v) :: t) = d := by
  have hc := List.pairwise_cons.1 h.1
  have : ∀ u : Table α, (∀ p ∈ u, k < p.1) → look d k u = d := by
    intro u
    induction u with
    | nil => intro _; rfl
    | cons q u ih =>
      obtain ⟨b, w⟩ := q
      intro hq
      have hb : b ≠ k := Nat.ne_of_gt (hq (b, w) List.mem_cons_self)
      simp only [look, hb, if_false]
      exact ih fun p hp => hq p (List.mem_cons_of_mem _ hp)
  refine this _ fun p hp => ?_
  rcases List.mem_cons.1 hp with rfl | hp
  · exact hk
  · exact Nat.lt_trans hk (hc.1 p hp)

/-! ### Sets of numbers -/

@[simp] theorem NatSet.has_add (s : NatSet) (k j : Nat) : (s.add k).has j = (decide (j = k) || s.has j) := by
  unfold NatSet.has NatSet.add
  rw [look_put]
  split <;> simp [*]

@[simp] theorem NatSet.has_del (s : NatSet) (k j : Nat) : (s.del k).has j = (!decide (j = k) && s.has j) := by
  unfold NatSet.has NatSet.del
  rw [look_put]
  split <;> simp [*]

end Sys2Proof.Machine
end

