-- ==== Sys2Proof/Laws/Access.lean ====
section
/-! SUPPORT. Reading one unit of the state after replacing one. -/

namespace Sys2Proof.Machine

/-! ### Cores and streams -/

@[simp] theorem State.core_setCore (s : State) (c d : Nat) (k : Core) :
    (s.setCore c k).core d = if d = c then k else s.core d := look_put _ _ _ _ _

@[simp] theorem State.core_modCore (s : State) (c d : Nat) (f : Core → Core) :
    (s.modCore c f).core d = if d = c then f (s.core c) else s.core d := State.core_setCore _ _ _ _

/-- Replacing a core changes nothing but the cores. -/
@[simp] theorem State.setCore_cores (s : State) (c : Nat) (k : Core) : { s.setCore c k with cores := s.cores } = s := rfl

@[simp] theorem State.byte_setCore (s : State) (c : Nat) (k : Core) (a : Nat) : (s.setCore c k).byte a = s.byte a := rfl

@[simp] theorem Core.stream_setStream (k : Core) (t : Nat) (x : Stream) : (k.setStream t x).stream t = x := by
  unfold Core.setStream Core.stream
  by_cases h0 : t = 0
  · simp [h0]
  · by_cases h1 : t = 1 <;> simp [h0, h1]

/-- Replacing one stream leaves the others. -/
theorem Core.stream_setStream_other (k : Core) {t u : Nat} (ht : t < 3) (hu : u < 3) (h : u ≠ t) (x : Stream) :
    (k.setStream t x).stream u = k.stream u := by
  unfold Core.setStream Core.stream
  rcases t with _ | _ | _ | t <;> rcases u with _ | _ | _ | u <;> first | omega | simp_all

@[simp] theorem Core.stream_modStream (k : Core) (t : Nat) (g : Stream → Stream) :
    (k.modStream t g).stream t = g (k.stream t) := Core.stream_setStream _ _ _

@[simp] theorem Core.setStream_setStream (k : Core) (t : Nat) (x y : Stream) :
    (k.setStream t x).setStream t y = k.setStream t y := by
  unfold Core.setStream
  by_cases h0 : t = 0
  · simp [h0]
  · by_cases h1 : t = 1 <;> simp [h0, h1]

@[simp] theorem Core.setStream_stream (k : Core) (t : Nat) : k.setStream t (k.stream t) = k := by
  unfold Core.setStream Core.stream
  by_cases h0 : t = 0
  · simp [h0]
  · by_cases h1 : t = 1 <;> simp [h0, h1]

/-- s0 reads zero, and any other register reads what was written last (R219). -/
theorem Stream.reg_setReg (x : Stream) (rd : Nat) (v : W64) (r : Nat) :
    (x.setReg rd v).reg r = if r = rd ∧ r ≠ 0 then v else x.reg r := by
  unfold Stream.setReg Stream.reg
  by_cases hr : r = 0
  · simp [hr]
  · by_cases hd : rd = 0
    · subst hd; simp [hr]
    · simp only [hd, if_false, hr, look_put]
      by_cases h : r = rd
      · subst h; simp [hd]
      · simp [h]

@[simp] theorem Stream.reg_zero (x : Stream) : x.reg 0 = 0 := by simp [Stream.reg]

@[simp] theorem Stream.setReg_pc (x : Stream) (r : Nat) (v : W64) : (x.setReg r v).pc = x.pc := by
  unfold Stream.setReg; split <;> rfl

@[simp] theorem Stream.advance_pc (x : Stream) : x.advance.pc = x.pc + 1 := rfl
@[simp] theorem Stream.advance_reg (x : Stream) (r : Nat) : x.advance.reg r = x.reg r := rfl

/-- Writing a register changes nothing else of the stream. -/
theorem Stream.setReg_rest (x : Stream) (r : Nat) (v : W64) : { x.setReg r v with s := x.s } = x := by
  unfold Stream.setReg; split <;> rfl

/-! ### Arrays and engines -/

@[simp] theorem Core.mxa_setMxa (k : Core) (a : Nat) (x : Mxa) : (k.setMxa a x).mxa a = x := by
  unfold Core.setMxa Core.mxa; by_cases h : a = 0 <;> simp [h]

@[simp] theorem Core.ve_setVe (k : Core) (e : Nat) (x : Ve) : (k.setVe e x).ve e = x := by
  unfold Core.setVe Core.ve; by_cases h : e = 0 <;> simp [h]

@[simp] theorem Core.ve_setMxa (k : Core) (a e : Nat) (x : Mxa) : (k.setMxa a x).ve e = k.ve e := by
  unfold Core.setMxa Core.ve; by_cases h : a = 0 <;> simp [h]

@[simp] theorem Core.mxa_setVe (k : Core) (a e : Nat) (x : Ve) : (k.setVe e x).mxa a = k.mxa a := by
  unfold Core.setVe Core.mxa; by_cases h : e = 0 <;> simp [h]

@[simp] theorem Core.stream_setMxa (k : Core) (a t : Nat) (x : Mxa) : (k.setMxa a x).stream t = k.stream t := by
  unfold Core.setMxa Core.stream; by_cases h : a = 0 <;> simp [h]

@[simp] theorem Core.stream_setVe (k : Core) (e t : Nat) (x : Ve) : (k.setVe e x).stream t = k.stream t := by
  unfold Core.setVe Core.stream; by_cases h : e = 0 <;> simp [h]

@[simp] theorem Core.accOf_setAcc (k : Core) (e d : Nat) (l : List AccWord) :
    (k.setAcc e l).accOf d = if d = e then l else k.accOf d := look_put [] e d l k.accq

@[simp] theorem Core.ve_setAcc (k : Core) (e d : Nat) (l : List AccWord) : (k.setAcc e l).ve d = k.ve d := rfl

@[simp] theorem Core.stream_setAcc (k : Core) (e t : Nat) (l : List AccWord) : (k.setAcc e l).stream t = k.stream t := rfl

@[simp] theorem Mxa.half_setHalf (x : Mxa) (h : Nat) (y : Half) : (x.setHalf h y).half h = y := by
  unfold Mxa.setHalf Mxa.half; by_cases e : h = 0 <;> simp [e]

@[simp] theorem Mxa.half_modHalf (x : Mxa) (h : Nat) (g : Half → Half) : (x.modHalf h g).half h = g (x.half h) :=
  Mxa.half_setHalf _ _ _

/-! ### The other units -/

@[simp] theorem State.stack_setStack (s : State) (k j : Nat) (x : Stack) :
    (s.setStack k x).stack j = if j = k then x else s.stack j := look_put _ _ _ _ _

@[simp] theorem State.stack_modStack (s : State) (k j : Nat) (f : Stack → Stack) :
    (s.modStack k f).stack j = if j = k then f (s.stack k) else s.stack j := State.stack_setStack _ _ _ _

@[simp] theorem Stack.pc_setPc (x : Stack) (k j : Nat) (p : Pc) : (x.setPc k p).pc j = if j = k then p else x.pc j :=
  look_put _ _ _ _ _

@[simp] theorem State.ctx_setCtx (s : State) (n m : Nat) (x : Ctx) :
    (s.setCtx n x).ctx m = if m = n then x else s.ctx m := look_put _ _ _ _ _

@[simp] theorem State.ctx_modCtx (s : State) (n m : Nat) (f : Ctx → Ctx) :
    (s.modCtx n f).ctx m = if m = n then f (s.ctx n) else s.ctx m := State.ctx_setCtx _ _ _ _

@[simp] theorem State.sq_setSq (s : State) (n m : Nat) (x : Sq) : (s.setSq n x).sq m = if m = n then x else s.sq m :=
  look_put _ _ _ _ _

@[simp] theorem State.cq_setCq (s : State) (n m : Nat) (x : Cq) : (s.setCq n x).cq m = if m = n then x else s.cq m :=
  look_put _ _ _ _ _

@[simp] theorem State.pkt_setPkt (s : State) (n m : Nat) (x : Option Pkt) :
    (s.setPkt n x).pkt m = if m = n then x else s.pkt m := look_put _ _ _ _ _

@[simp] theorem State.link_setLink (s : State) (l m : Nat) (x : Link) :
    (s.setLink l x).link m = if m = l then x else s.link m := look_put _ _ _ _ _

@[simp] theorem State.link_modLink (s : State) (l m : Nat) (f : Link → Link) :
    (s.modLink l f).link m = if m = l then f (s.link l) else s.link m := State.link_setLink _ _ _ _

@[simp] theorem State.ce_setCe (s : State) (e : Nat) (x : Ce) : (s.setCe e x).ce e = x := by
  unfold State.setCe State.ce; by_cases h : e = 0 <;> simp [h]

@[simp] theorem State.port_setPort (s : State) (n : Nat) (x : Port) : (s.setPort n x).port n = x := by
  unfold State.setPort State.port; by_cases h : n = 0 <;> simp [h]

end Sys2Proof.Machine
end

