-- ==== Sys2Proof/Laws/Cc.lean ====
section
/-! SUPPORT. What one CC instruction can do: the lemmas about `ccStep`, `setRd` and replacing a stream. -/

namespace Sys2Proof.Machine

/-- An instruction whose word stands at the stream's PC has its effect on the state. -/
theorem ccStep_word {s : State} {c t op : Nat} {w : W64} (h : ccRuns s c t w op) (f : Core → Stream → W64 → State) :
    ccStep s c t op f = f (s.core c) ((s.core c).stream t) w := by
  obtain ⟨h1, h2, h3, h4⟩ := h
  unfold ccStep
  rw [h1]
  simp only [h2, h3]
  cases hw : ccWrites op
  · simp
  · simp [h4 hw]

/-- Replacing a core changes nothing else. -/
theorem onlyCore_setCore (s : State) (c : Nat) (k : Core) : onlyCore c s (s.setCore c k) :=
  ⟨⟨rfl, fun _ => rfl⟩, fun d hd => by simp [hd]⟩

/-- Replacing a stream changes nothing else. -/
theorem onlyStream_setStream (s : State) (c t : Nat) (y : Stream) :
    onlyStream c t s (s.setCore c ((s.core c).setStream t y)) :=
  ⟨onlyCore_setCore s c _, by simp⟩

/-- A replaced stream reads as what replaced it. -/
@[simp] theorem stream_setCore_setStream (s : State) (c t : Nat) (k : Core) (y : Stream) :
    ((s.setCore c (k.setStream t y)).core c).stream t = y := by simp

/-- The stream moves on with one register written. -/
theorem setRd_wrote (s : State) (c t rd : Nat) (v : W64) :
    wroteRd c t rd v s (setRd s c t (s.core c) ((s.core c).stream t) rd v) := by
  refine ⟨onlyStream_setStream s c t _, ?_, ?_, ?_⟩
  · intro r; simp [setRd, Stream.reg_setReg]
  · simp [setRd]
  · simp only [setRd, stream_setCore_setStream, Stream.advance]
    unfold Stream.setReg; split <;> rfl

/-- Going to a word is a change of the PC alone. -/
theorem redirect_wentTo (s : State) (c t n : Nat) :
    wentTo c t n s (redirect s c t (s.core c) ((s.core c).stream t) n) := by
  refine ⟨onlyStream_setStream s c t _, ?_, ?_⟩ <;> simp [redirect]

/-- Advancing is going to the next word. -/
theorem advance_wentTo (s : State) (c t : Nat) :
    wentTo c t (((s.core c).stream t).pc + 1) s (s.setCore c ((s.core c).setStream t ((s.core c).stream t).advance)) := by
  refine ⟨onlyStream_setStream s c t _, ?_, ?_⟩ <;> simp [Stream.advance]

end Sys2Proof.Machine
end

