-- ==== Sys2Proof/Laws/State.lean ====
section
/-! SUPPORT. The updates of the state, field by field: an update leaves every field but its own as it was. -/

namespace Sys2Proof.Machine

/-! #### setCore -/

@[simp] theorem State.setCore_variant (s : State) (c : Nat) (k : Core) : (s.setCore c k).variant = s.variant := rfl
@[simp] theorem State.setCore_straps (s : State) (c : Nat) (k : Core) : (s.setCore c k).straps = s.straps := rfl
@[simp] theorem State.setCore_pkg (s : State) (c : Nat) (k : Core) : (s.setCore c k).pkg = s.pkg := rfl
@[simp] theorem State.setCore_mem (s : State) (c : Nat) (k : Core) : (s.setCore c k).mem = s.mem := rfl
@[simp] theorem State.setCore_wsBad (s : State) (c : Nat) (k : Core) : (s.setCore c k).wsBad = s.wsBad := rfl
@[simp] theorem State.setCore_wsSoft (s : State) (c : Nat) (k : Core) : (s.setCore c k).wsSoft = s.wsSoft := rfl
@[simp] theorem State.setCore_hmem0 (s : State) (c : Nat) (k : Core) : (s.setCore c k).hmem0 = s.hmem0 := rfl
@[simp] theorem State.setCore_hmem1 (s : State) (c : Nat) (k : Core) : (s.setCore c k).hmem1 = s.hmem1 := rfl
@[simp] theorem State.setCore_free (s : State) (c : Nat) (k : Core) : (s.setCore c k).free = s.free := rfl
@[simp] theorem State.setCore_hbms (s : State) (c : Nat) (k : Core) : (s.setCore c k).hbms = s.hbms := rfl
@[simp] theorem State.setCore_lpp (s : State) (c : Nat) (k : Core) : (s.setCore c k).lpp = s.lpp := rfl
@[simp] theorem State.setCore_power (s : State) (c : Nat) (k : Core) : (s.setCore c k).power = s.power := rfl
@[simp] theorem State.setCore_agg (s : State) (c : Nat) (k : Core) : (s.setCore c k).agg = s.agg := rfl
@[simp] theorem State.setCore_host (s : State) (c : Nat) (k : Core) : (s.setCore c k).host = s.host := rfl
@[simp] theorem State.setCore_ingest (s : State) (c : Nat) (k : Core) : (s.setCore c k).ingest = s.ingest := rfl
@[simp] theorem State.setCore_net (s : State) (c : Nat) (k : Core) : (s.setCore c k).net = s.net := rfl
@[simp] theorem State.setCore_ce0 (s : State) (c : Nat) (k : Core) : (s.setCore c k).ce0 = s.ce0 := rfl
@[simp] theorem State.setCore_ce1 (s : State) (c : Nat) (k : Core) : (s.setCore c k).ce1 = s.ce1 := rfl
@[simp] theorem State.setCore_decodes (s : State) (c : Nat) (k : Core) : (s.setCore c k).decodes = s.decodes := rfl
@[simp] theorem State.setCore_boot (s : State) (c : Nat) (k : Core) : (s.setCore c k).boot = s.boot := rfl
@[simp] theorem State.setCore_sec (s : State) (c : Nat) (k : Core) : (s.setCore c k).sec = s.sec := rfl
@[simp] theorem State.setCore_tly (s : State) (c : Nat) (k : Core) : (s.setCore c k).tly = s.tly := rfl
@[simp] theorem State.setCore_cvs (s : State) (c : Nat) (k : Core) : (s.setCore c k).cvs = s.cvs := rfl
@[simp] theorem State.setCore_mgmt (s : State) (c : Nat) (k : Core) : (s.setCore c k).mgmt = s.mgmt := rfl
@[simp] theorem State.setCore_tbtime (s : State) (c : Nat) (k : Core) : (s.setCore c k).tbtime = s.tbtime := rfl
@[simp] theorem State.setCore_pending (s : State) (c : Nat) (k : Core) : (s.setCore c k).pending = s.pending := rfl

/-! #### modCore -/

@[simp] theorem State.modCore_variant (s : State) (c : Nat) (f : Core → Core) : (s.modCore c f).variant = s.variant := rfl
@[simp] theorem State.modCore_straps (s : State) (c : Nat) (f : Core → Core) : (s.modCore c f).straps = s.straps := rfl
@[simp] theorem State.modCore_pkg (s : State) (c : Nat) (f : Core → Core) : (s.modCore c f).pkg = s.pkg := rfl
@[simp] theorem State.modCore_mem (s : State) (c : Nat) (f : Core → Core) : (s.modCore c f).mem = s.mem := rfl
@[simp] theorem State.modCore_wsBad (s : State) (c : Nat) (f : Core → Core) : (s.modCore c f).wsBad = s.wsBad := rfl
@[simp] theorem State.modCore_wsSoft (s : State) (c : Nat) (f : Core → Core) : (s.modCore c f).wsSoft = s.wsSoft := rfl
@[simp] theorem State.modCore_hmem0 (s : State) (c : Nat) (f : Core → Core) : (s.modCore c f).hmem0 = s.hmem0 := rfl
@[simp] theorem State.modCore_hmem1 (s : State) (c : Nat) (f : Core → Core) : (s.modCore c f).hmem1 = s.hmem1 := rfl
@[simp] theorem State.modCore_free (s : State) (c : Nat) (f : Core → Core) : (s.modCore c f).free = s.free := rfl
@[simp] theorem State.modCore_hbms (s : State) (c : Nat) (f : Core → Core) : (s.modCore c f).hbms = s.hbms := rfl
@[simp] theorem State.modCore_lpp (s : State) (c : Nat) (f : Core → Core) : (s.modCore c f).lpp = s.lpp := rfl
@[simp] theorem State.modCore_power (s : State) (c : Nat) (f : Core → Core) : (s.modCore c f).power = s.power := rfl
@[simp] theorem State.modCore_agg (s : State) (c : Nat) (f : Core → Core) : (s.modCore c f).agg = s.agg := rfl
@[simp] theorem State.modCore_host (s : State) (c : Nat) (f : Core → Core) : (s.modCore c f).host = s.host := rfl
@[simp] theorem State.modCore_ingest (s : State) (c : Nat) (f : Core → Core) : (s.modCore c f).ingest = s.ingest := rfl
@[simp] theorem State.modCore_net (s : State) (c : Nat) (f : Core → Core) : (s.modCore c f).net = s.net := rfl
@[simp] theorem State.modCore_ce0 (s : State) (c : Nat) (f : Core → Core) : (s.modCore c f).ce0 = s.ce0 := rfl
@[simp] theorem State.modCore_ce1 (s : State) (c : Nat) (f : Core → Core) : (s.modCore c f).ce1 = s.ce1 := rfl
@[simp] theorem State.modCore_decodes (s : State) (c : Nat) (f : Core → Core) : (s.modCore c f).decodes = s.decodes := rfl
@[simp] theorem State.modCore_boot (s : State) (c : Nat) (f : Core → Core) : (s.modCore c f).boot = s.boot := rfl
@[simp] theorem State.modCore_sec (s : State) (c : Nat) (f : Core → Core) : (s.modCore c f).sec = s.sec := rfl
@[simp] theorem State.modCore_tly (s : State) (c : Nat) (f : Core → Core) : (s.modCore c f).tly = s.tly := rfl
@[simp] theorem State.modCore_cvs (s : State) (c : Nat) (f : Core → Core) : (s.modCore c f).cvs = s.cvs := rfl
@[simp] theorem State.modCore_mgmt (s : State) (c : Nat) (f : Core → Core) : (s.modCore c f).mgmt = s.mgmt := rfl
@[simp] theorem State.modCore_tbtime (s : State) (c : Nat) (f : Core → Core) : (s.modCore c f).tbtime = s.tbtime := rfl
@[simp] theorem State.modCore_pending (s : State) (c : Nat) (f : Core → Core) : (s.modCore c f).pending = s.pending := rfl

/-! #### modMxa -/

@[simp] theorem State.modMxa_variant (s : State) (c a : Nat) (f : Mxa → Mxa) : (s.modMxa c a f).variant = s.variant := rfl
@[simp] theorem State.modMxa_straps (s : State) (c a : Nat) (f : Mxa → Mxa) : (s.modMxa c a f).straps = s.straps := rfl
@[simp] theorem State.modMxa_pkg (s : State) (c a : Nat) (f : Mxa → Mxa) : (s.modMxa c a f).pkg = s.pkg := rfl
@[simp] theorem State.modMxa_mem (s : State) (c a : Nat) (f : Mxa → Mxa) : (s.modMxa c a f).mem = s.mem := rfl
@[simp] theorem State.modMxa_wsBad (s : State) (c a : Nat) (f : Mxa → Mxa) : (s.modMxa c a f).wsBad = s.wsBad := rfl
@[simp] theorem State.modMxa_wsSoft (s : State) (c a : Nat) (f : Mxa → Mxa) : (s.modMxa c a f).wsSoft = s.wsSoft := rfl
@[simp] theorem State.modMxa_hmem0 (s : State) (c a : Nat) (f : Mxa → Mxa) : (s.modMxa c a f).hmem0 = s.hmem0 := rfl
@[simp] theorem State.modMxa_hmem1 (s : State) (c a : Nat) (f : Mxa → Mxa) : (s.modMxa c a f).hmem1 = s.hmem1 := rfl
@[simp] theorem State.modMxa_free (s : State) (c a : Nat) (f : Mxa → Mxa) : (s.modMxa c a f).free = s.free := rfl
@[simp] theorem State.modMxa_hbms (s : State) (c a : Nat) (f : Mxa → Mxa) : (s.modMxa c a f).hbms = s.hbms := rfl
@[simp] theorem State.modMxa_lpp (s : State) (c a : Nat) (f : Mxa → Mxa) : (s.modMxa c a f).lpp = s.lpp := rfl
@[simp] theorem State.modMxa_power (s : State) (c a : Nat) (f : Mxa → Mxa) : (s.modMxa c a f).power = s.power := rfl
@[simp] theorem State.modMxa_agg (s : State) (c a : Nat) (f : Mxa → Mxa) : (s.modMxa c a f).agg = s.agg := rfl
@[simp] theorem State.modMxa_host (s : State) (c a : Nat) (f : Mxa → Mxa) : (s.modMxa c a f).host = s.host := rfl
@[simp] theorem State.modMxa_ingest (s : State) (c a : Nat) (f : Mxa → Mxa) : (s.modMxa c a f).ingest = s.ingest := rfl
@[simp] theorem State.modMxa_net (s : State) (c a : Nat) (f : Mxa → Mxa) : (s.modMxa c a f).net = s.net := rfl
@[simp] theorem State.modMxa_ce0 (s : State) (c a : Nat) (f : Mxa → Mxa) : (s.modMxa c a f).ce0 = s.ce0 := rfl
@[simp] theorem State.modMxa_ce1 (s : State) (c a : Nat) (f : Mxa → Mxa) : (s.modMxa c a f).ce1 = s.ce1 := rfl
@[simp] theorem State.modMxa_decodes (s : State) (c a : Nat) (f : Mxa → Mxa) : (s.modMxa c a f).decodes = s.decodes := rfl
@[simp] theorem State.modMxa_boot (s : State) (c a : Nat) (f : Mxa → Mxa) : (s.modMxa c a f).boot = s.boot := rfl
@[simp] theorem State.modMxa_sec (s : State) (c a : Nat) (f : Mxa → Mxa) : (s.modMxa c a f).sec = s.sec := rfl
@[simp] theorem State.modMxa_tly (s : State) (c a : Nat) (f : Mxa → Mxa) : (s.modMxa c a f).tly = s.tly := rfl
@[simp] theorem State.modMxa_cvs (s : State) (c a : Nat) (f : Mxa → Mxa) : (s.modMxa c a f).cvs = s.cvs := rfl
@[simp] theorem State.modMxa_mgmt (s : State) (c a : Nat) (f : Mxa → Mxa) : (s.modMxa c a f).mgmt = s.mgmt := rfl
@[simp] theorem State.modMxa_tbtime (s : State) (c a : Nat) (f : Mxa → Mxa) : (s.modMxa c a f).tbtime = s.tbtime := rfl
@[simp] theorem State.modMxa_pending (s : State) (c a : Nat) (f : Mxa → Mxa) : (s.modMxa c a f).pending = s.pending := rfl

/-! #### setStack -/

@[simp] theorem State.setStack_variant (s : State) (k : Nat) (x : Stack) : (s.setStack k x).variant = s.variant := rfl
@[simp] theorem State.setStack_straps (s : State) (k : Nat) (x : Stack) : (s.setStack k x).straps = s.straps := rfl
@[simp] theorem State.setStack_pkg (s : State) (k : Nat) (x : Stack) : (s.setStack k x).pkg = s.pkg := rfl
@[simp] theorem State.setStack_mem (s : State) (k : Nat) (x : Stack) : (s.setStack k x).mem = s.mem := rfl
@[simp] theorem State.setStack_wsBad (s : State) (k : Nat) (x : Stack) : (s.setStack k x).wsBad = s.wsBad := rfl
@[simp] theorem State.setStack_wsSoft (s : State) (k : Nat) (x : Stack) : (s.setStack k x).wsSoft = s.wsSoft := rfl
@[simp] theorem State.setStack_hmem0 (s : State) (k : Nat) (x : Stack) : (s.setStack k x).hmem0 = s.hmem0 := rfl
@[simp] theorem State.setStack_hmem1 (s : State) (k : Nat) (x : Stack) : (s.setStack k x).hmem1 = s.hmem1 := rfl
@[simp] theorem State.setStack_free (s : State) (k : Nat) (x : Stack) : (s.setStack k x).free = s.free := rfl
@[simp] theorem State.setStack_cores (s : State) (k : Nat) (x : Stack) : (s.setStack k x).cores = s.cores := rfl
@[simp] theorem State.setStack_lpp (s : State) (k : Nat) (x : Stack) : (s.setStack k x).lpp = s.lpp := rfl
@[simp] theorem State.setStack_power (s : State) (k : Nat) (x : Stack) : (s.setStack k x).power = s.power := rfl
@[simp] theorem State.setStack_agg (s : State) (k : Nat) (x : Stack) : (s.setStack k x).agg = s.agg := rfl
@[simp] theorem State.setStack_host (s : State) (k : Nat) (x : Stack) : (s.setStack k x).host = s.host := rfl
@[simp] theorem State.setStack_ingest (s : State) (k : Nat) (x : Stack) : (s.setStack k x).ingest = s.ingest := rfl
@[simp] theorem State.setStack_net (s : State) (k : Nat) (x : Stack) : (s.setStack k x).net = s.net := rfl
@[simp] theorem State.setStack_ce0 (s : State) (k : Nat) (x : Stack) : (s.setStack k x).ce0 = s.ce0 := rfl
@[simp] theorem State.setStack_ce1 (s : State) (k : Nat) (x : Stack) : (s.setStack k x).ce1 = s.ce1 := rfl
@[simp] theorem State.setStack_decodes (s : State) (k : Nat) (x : Stack) : (s.setStack k x).decodes = s.decodes := rfl
@[simp] theorem State.setStack_boot (s : State) (k : Nat) (x : Stack) : (s.setStack k x).boot = s.boot := rfl
@[simp] theorem State.setStack_sec (s : State) (k : Nat) (x : Stack) : (s.setStack k x).sec = s.sec := rfl
@[simp] theorem State.setStack_tly (s : State) (k : Nat) (x : Stack) : (s.setStack k x).tly = s.tly := rfl
@[simp] theorem State.setStack_cvs (s : State) (k : Nat) (x : Stack) : (s.setStack k x).cvs = s.cvs := rfl
@[simp] theorem State.setStack_mgmt (s : State) (k : Nat) (x : Stack) : (s.setStack k x).mgmt = s.mgmt := rfl
@[simp] theorem State.setStack_tbtime (s : State) (k : Nat) (x : Stack) : (s.setStack k x).tbtime = s.tbtime := rfl
@[simp] theorem State.setStack_pending (s : State) (k : Nat) (x : Stack) : (s.setStack k x).pending = s.pending := rfl

/-! #### modStack -/

@[simp] theorem State.modStack_variant (s : State) (k : Nat) (f : Stack → Stack) : (s.modStack k f).variant = s.variant := rfl
@[simp] theorem State.modStack_straps (s : State) (k : Nat) (f : Stack → Stack) : (s.modStack k f).straps = s.straps := rfl
@[simp] theorem State.modStack_pkg (s : State) (k : Nat) (f : Stack → Stack) : (s.modStack k f).pkg = s.pkg := rfl
@[simp] theorem State.modStack_mem (s : State) (k : Nat) (f : Stack → Stack) : (s.modStack k f).mem = s.mem := rfl
@[simp] theorem State.modStack_wsBad (s : State) (k : Nat) (f : Stack → Stack) : (s.modStack k f).wsBad = s.wsBad := rfl
@[simp] theorem State.modStack_wsSoft (s : State) (k : Nat) (f : Stack → Stack) : (s.modStack k f).wsSoft = s.wsSoft := rfl
@[simp] theorem State.modStack_hmem0 (s : State) (k : Nat) (f : Stack → Stack) : (s.modStack k f).hmem0 = s.hmem0 := rfl
@[simp] theorem State.modStack_hmem1 (s : State) (k : Nat) (f : Stack → Stack) : (s.modStack k f).hmem1 = s.hmem1 := rfl
@[simp] theorem State.modStack_free (s : State) (k : Nat) (f : Stack → Stack) : (s.modStack k f).free = s.free := rfl
@[simp] theorem State.modStack_cores (s : State) (k : Nat) (f : Stack → Stack) : (s.modStack k f).cores = s.cores := rfl
@[simp] theorem State.modStack_lpp (s : State) (k : Nat) (f : Stack → Stack) : (s.modStack k f).lpp = s.lpp := rfl
@[simp] theorem State.modStack_power (s : State) (k : Nat) (f : Stack → Stack) : (s.modStack k f).power = s.power := rfl
@[simp] theorem State.modStack_agg (s : State) (k : Nat) (f : Stack → Stack) : (s.modStack k f).agg = s.agg := rfl
@[simp] theorem State.modStack_host (s : State) (k : Nat) (f : Stack → Stack) : (s.modStack k f).host = s.host := rfl
@[simp] theorem State.modStack_ingest (s : State) (k : Nat) (f : Stack → Stack) : (s.modStack k f).ingest = s.ingest := rfl
@[simp] theorem State.modStack_net (s : State) (k : Nat) (f : Stack → Stack) : (s.modStack k f).net = s.net := rfl
@[simp] theorem State.modStack_ce0 (s : State) (k : Nat) (f : Stack → Stack) : (s.modStack k f).ce0 = s.ce0 := rfl
@[simp] theorem State.modStack_ce1 (s : State) (k : Nat) (f : Stack → Stack) : (s.modStack k f).ce1 = s.ce1 := rfl
@[simp] theorem State.modStack_decodes (s : State) (k : Nat) (f : Stack → Stack) : (s.modStack k f).decodes = s.decodes := rfl
@[simp] theorem State.modStack_boot (s : State) (k : Nat) (f : Stack → Stack) : (s.modStack k f).boot = s.boot := rfl
@[simp] theorem State.modStack_sec (s : State) (k : Nat) (f : Stack → Stack) : (s.modStack k f).sec = s.sec := rfl
@[simp] theorem State.modStack_tly (s : State) (k : Nat) (f : Stack → Stack) : (s.modStack k f).tly = s.tly := rfl
@[simp] theorem State.modStack_cvs (s : State) (k : Nat) (f : Stack → Stack) : (s.modStack k f).cvs = s.cvs := rfl
@[simp] theorem State.modStack_mgmt (s : State) (k : Nat) (f : Stack → Stack) : (s.modStack k f).mgmt = s.mgmt := rfl
@[simp] theorem State.modStack_tbtime (s : State) (k : Nat) (f : Stack → Stack) : (s.modStack k f).tbtime = s.tbtime := rfl
@[simp] theorem State.modStack_pending (s : State) (k : Nat) (f : Stack → Stack) : (s.modStack k f).pending = s.pending := rfl

/-! #### setCtx -/

@[simp] theorem State.setCtx_variant (s : State) (n : Nat) (x : Ctx) : (s.setCtx n x).variant = s.variant := rfl
@[simp] theorem State.setCtx_straps (s : State) (n : Nat) (x : Ctx) : (s.setCtx n x).straps = s.straps := rfl
@[simp] theorem State.setCtx_pkg (s : State) (n : Nat) (x : Ctx) : (s.setCtx n x).pkg = s.pkg := rfl
@[simp] theorem State.setCtx_mem (s : State) (n : Nat) (x : Ctx) : (s.setCtx n x).mem = s.mem := rfl
@[simp] theorem State.setCtx_wsBad (s : State) (n : Nat) (x : Ctx) : (s.setCtx n x).wsBad = s.wsBad := rfl
@[simp] theorem State.setCtx_wsSoft (s : State) (n : Nat) (x : Ctx) : (s.setCtx n x).wsSoft = s.wsSoft := rfl
@[simp] theorem State.setCtx_hmem0 (s : State) (n : Nat) (x : Ctx) : (s.setCtx n x).hmem0 = s.hmem0 := rfl
@[simp] theorem State.setCtx_hmem1 (s : State) (n : Nat) (x : Ctx) : (s.setCtx n x).hmem1 = s.hmem1 := rfl
@[simp] theorem State.setCtx_free (s : State) (n : Nat) (x : Ctx) : (s.setCtx n x).free = s.free := rfl
@[simp] theorem State.setCtx_cores (s : State) (n : Nat) (x : Ctx) : (s.setCtx n x).cores = s.cores := rfl
@[simp] theorem State.setCtx_hbms (s : State) (n : Nat) (x : Ctx) : (s.setCtx n x).hbms = s.hbms := rfl
@[simp] theorem State.setCtx_lpp (s : State) (n : Nat) (x : Ctx) : (s.setCtx n x).lpp = s.lpp := rfl
@[simp] theorem State.setCtx_power (s : State) (n : Nat) (x : Ctx) : (s.setCtx n x).power = s.power := rfl
@[simp] theorem State.setCtx_agg (s : State) (n : Nat) (x : Ctx) : (s.setCtx n x).agg = s.agg := rfl
@[simp] theorem State.setCtx_ingest (s : State) (n : Nat) (x : Ctx) : (s.setCtx n x).ingest = s.ingest := rfl
@[simp] theorem State.setCtx_net (s : State) (n : Nat) (x : Ctx) : (s.setCtx n x).net = s.net := rfl
@[simp] theorem State.setCtx_ce0 (s : State) (n : Nat) (x : Ctx) : (s.setCtx n x).ce0 = s.ce0 := rfl
@[simp] theorem State.setCtx_ce1 (s : State) (n : Nat) (x : Ctx) : (s.setCtx n x).ce1 = s.ce1 := rfl
@[simp] theorem State.setCtx_decodes (s : State) (n : Nat) (x : Ctx) : (s.setCtx n x).decodes = s.decodes := rfl
@[simp] theorem State.setCtx_boot (s : State) (n : Nat) (x : Ctx) : (s.setCtx n x).boot = s.boot := rfl
@[simp] theorem State.setCtx_sec (s : State) (n : Nat) (x : Ctx) : (s.setCtx n x).sec = s.sec := rfl
@[simp] theorem State.setCtx_tly (s : State) (n : Nat) (x : Ctx) : (s.setCtx n x).tly = s.tly := rfl
@[simp] theorem State.setCtx_cvs (s : State) (n : Nat) (x : Ctx) : (s.setCtx n x).cvs = s.cvs := rfl
@[simp] theorem State.setCtx_mgmt (s : State) (n : Nat) (x : Ctx) : (s.setCtx n x).mgmt = s.mgmt := rfl
@[simp] theorem State.setCtx_tbtime (s : State) (n : Nat) (x : Ctx) : (s.setCtx n x).tbtime = s.tbtime := rfl
@[simp] theorem State.setCtx_pending (s : State) (n : Nat) (x : Ctx) : (s.setCtx n x).pending = s.pending := rfl
@[simp] theorem State.setCtx_host_p0 (s : State) (n : Nat) (x : Ctx) : (s.setCtx n x).host.p0 = s.host.p0 := rfl
@[simp] theorem State.setCtx_host_p1 (s : State) (n : Nat) (x : Ctx) : (s.setCtx n x).host.p1 = s.host.p1 := rfl
@[simp] theorem State.setCtx_host_sqs (s : State) (n : Nat) (x : Ctx) : (s.setCtx n x).host.sqs = s.host.sqs := rfl
@[simp] theorem State.setCtx_host_cqs (s : State) (n : Nat) (x : Ctx) : (s.setCtx n x).host.cqs = s.host.cqs := rfl
@[simp] theorem State.setCtx_host_pkts (s : State) (n : Nat) (x : Ctx) : (s.setCtx n x).host.pkts = s.host.pkts := rfl
@[simp] theorem State.setCtx_host_pidNext (s : State) (n : Nat) (x : Ctx) : (s.setCtx n x).host.pidNext = s.host.pidNext := rfl
@[simp] theorem State.setCtx_host_lease (s : State) (n : Nat) (x : Ctx) : (s.setCtx n x).host.lease = s.host.lease := rfl
@[simp] theorem State.setCtx_host_stValid (s : State) (n : Nat) (x : Ctx) : (s.setCtx n x).host.stValid = s.host.stValid := rfl
@[simp] theorem State.setCtx_host_stPort (s : State) (n : Nat) (x : Ctx) : (s.setCtx n x).host.stPort = s.host.stPort := rfl
@[simp] theorem State.setCtx_host_stExpired (s : State) (n : Nat) (x : Ctx) : (s.setCtx n x).host.stExpired = s.host.stExpired := rfl
@[simp] theorem State.setCtx_host_stSince (s : State) (n : Nat) (x : Ctx) : (s.setCtx n x).host.stSince = s.host.stSince := rfl
@[simp] theorem State.setCtx_host_msix (s : State) (n : Nat) (x : Ctx) : (s.setCtx n x).host.msix = s.host.msix := rfl
@[simp] theorem State.setCtx_host_barRsp (s : State) (n : Nat) (x : Ctx) : (s.setCtx n x).host.barRsp = s.host.barRsp := rfl

/-! #### modCtx -/

@[simp] theorem State.modCtx_variant (s : State) (n : Nat) (f : Ctx → Ctx) : (s.modCtx n f).variant = s.variant := rfl
@[simp] theorem State.modCtx_straps (s : State) (n : Nat) (f : Ctx → Ctx) : (s.modCtx n f).straps = s.straps := rfl
@[simp] theorem State.modCtx_pkg (s : State) (n : Nat) (f : Ctx → Ctx) : (s.modCtx n f).pkg = s.pkg := rfl
@[simp] theorem State.modCtx_mem (s : State) (n : Nat) (f : Ctx → Ctx) : (s.modCtx n f).mem = s.mem := rfl
@[simp] theorem State.modCtx_wsBad (s : State) (n : Nat) (f : Ctx → Ctx) : (s.modCtx n f).wsBad = s.wsBad := rfl
@[simp] theorem State.modCtx_wsSoft (s : State) (n : Nat) (f : Ctx → Ctx) : (s.modCtx n f).wsSoft = s.wsSoft := rfl
@[simp] theorem State.modCtx_hmem0 (s : State) (n : Nat) (f : Ctx → Ctx) : (s.modCtx n f).hmem0 = s.hmem0 := rfl
@[simp] theorem State.modCtx_hmem1 (s : State) (n : Nat) (f : Ctx → Ctx) : (s.modCtx n f).hmem1 = s.hmem1 := rfl
@[simp] theorem State.modCtx_free (s : State) (n : Nat) (f : Ctx → Ctx) : (s.modCtx n f).free = s.free := rfl
@[simp] theorem State.modCtx_cores (s : State) (n : Nat) (f : Ctx → Ctx) : (s.modCtx n f).cores = s.cores := rfl
@[simp] theorem State.modCtx_hbms (s : State) (n : Nat) (f : Ctx → Ctx) : (s.modCtx n f).hbms = s.hbms := rfl
@[simp] theorem State.modCtx_lpp (s : State) (n : Nat) (f : Ctx → Ctx) : (s.modCtx n f).lpp = s.lpp := rfl
@[simp] theorem State.modCtx_power (s : State) (n : Nat) (f : Ctx → Ctx) : (s.modCtx n f).power = s.power := rfl
@[simp] theorem State.modCtx_agg (s : State) (n : Nat) (f : Ctx → Ctx) : (s.modCtx n f).agg = s.agg := rfl
@[simp] theorem State.modCtx_ingest (s : State) (n : Nat) (f : Ctx → Ctx) : (s.modCtx n f).ingest = s.ingest := rfl
@[simp] theorem State.modCtx_net (s : State) (n : Nat) (f : Ctx → Ctx) : (s.modCtx n f).net = s.net := rfl
@[simp] theorem State.modCtx_ce0 (s : State) (n : Nat) (f : Ctx → Ctx) : (s.modCtx n f).ce0 = s.ce0 := rfl
@[simp] theorem State.modCtx_ce1 (s : State) (n : Nat) (f : Ctx → Ctx) : (s.modCtx n f).ce1 = s.ce1 := rfl
@[simp] theorem State.modCtx_decodes (s : State) (n : Nat) (f : Ctx → Ctx) : (s.modCtx n f).decodes = s.decodes := rfl
@[simp] theorem State.modCtx_boot (s : State) (n : Nat) (f : Ctx → Ctx) : (s.modCtx n f).boot = s.boot := rfl
@[simp] theorem State.modCtx_sec (s : State) (n : Nat) (f : Ctx → Ctx) : (s.modCtx n f).sec = s.sec := rfl
@[simp] theorem State.modCtx_tly (s : State) (n : Nat) (f : Ctx → Ctx) : (s.modCtx n f).tly = s.tly := rfl
@[simp] theorem State.modCtx_cvs (s : State) (n : Nat) (f : Ctx → Ctx) : (s.modCtx n f).cvs = s.cvs := rfl
@[simp] theorem State.modCtx_mgmt (s : State) (n : Nat) (f : Ctx → Ctx) : (s.modCtx n f).mgmt = s.mgmt := rfl
@[simp] theorem State.modCtx_tbtime (s : State) (n : Nat) (f : Ctx → Ctx) : (s.modCtx n f).tbtime = s.tbtime := rfl
@[simp] theorem State.modCtx_pending (s : State) (n : Nat) (f : Ctx → Ctx) : (s.modCtx n f).pending = s.pending := rfl
@[simp] theorem State.modCtx_host_p0 (s : State) (n : Nat) (f : Ctx → Ctx) : (s.modCtx n f).host.p0 = s.host.p0 := rfl
@[simp] theorem State.modCtx_host_p1 (s : State) (n : Nat) (f : Ctx → Ctx) : (s.modCtx n f).host.p1 = s.host.p1 := rfl
@[simp] theorem State.modCtx_host_sqs (s : State) (n : Nat) (f : Ctx → Ctx) : (s.modCtx n f).host.sqs = s.host.sqs := rfl
@[simp] theorem State.modCtx_host_cqs (s : State) (n : Nat) (f : Ctx → Ctx) : (s.modCtx n f).host.cqs = s.host.cqs := rfl
@[simp] theorem State.modCtx_host_pkts (s : State) (n : Nat) (f : Ctx → Ctx) : (s.modCtx n f).host.pkts = s.host.pkts := rfl
@[simp] theorem State.modCtx_host_pidNext (s : State) (n : Nat) (f : Ctx → Ctx) : (s.modCtx n f).host.pidNext = s.host.pidNext := rfl
@[simp] theorem State.modCtx_host_lease (s : State) (n : Nat) (f : Ctx → Ctx) : (s.modCtx n f).host.lease = s.host.lease := rfl
@[simp] theorem State.modCtx_host_stValid (s : State) (n : Nat) (f : Ctx → Ctx) : (s.modCtx n f).host.stValid = s.host.stValid := rfl
@[simp] theorem State.modCtx_host_stPort (s : State) (n : Nat) (f : Ctx → Ctx) : (s.modCtx n f).host.stPort = s.host.stPort := rfl
@[simp] theorem State.modCtx_host_stExpired (s : State) (n : Nat) (f : Ctx → Ctx) : (s.modCtx n f).host.stExpired = s.host.stExpired := rfl
@[simp] theorem State.modCtx_host_stSince (s : State) (n : Nat) (f : Ctx → Ctx) : (s.modCtx n f).host.stSince = s.host.stSince := rfl
@[simp] theorem State.modCtx_host_msix (s : State) (n : Nat) (f : Ctx → Ctx) : (s.modCtx n f).host.msix = s.host.msix := rfl
@[simp] theorem State.modCtx_host_barRsp (s : State) (n : Nat) (f : Ctx → Ctx) : (s.modCtx n f).host.barRsp = s.host.barRsp := rfl

/-! #### setSq -/

@[simp] theorem State.setSq_variant (s : State) (n : Nat) (x : Sq) : (s.setSq n x).variant = s.variant := rfl
@[simp] theorem State.setSq_straps (s : State) (n : Nat) (x : Sq) : (s.setSq n x).straps = s.straps := rfl
@[simp] theorem State.setSq_pkg (s : State) (n : Nat) (x : Sq) : (s.setSq n x).pkg = s.pkg := rfl
@[simp] theorem State.setSq_mem (s : State) (n : Nat) (x : Sq) : (s.setSq n x).mem = s.mem := rfl
@[simp] theorem State.setSq_wsBad (s : State) (n : Nat) (x : Sq) : (s.setSq n x).wsBad = s.wsBad := rfl
@[simp] theorem State.setSq_wsSoft (s : State) (n : Nat) (x : Sq) : (s.setSq n x).wsSoft = s.wsSoft := rfl
@[simp] theorem State.setSq_hmem0 (s : State) (n : Nat) (x : Sq) : (s.setSq n x).hmem0 = s.hmem0 := rfl
@[simp] theorem State.setSq_hmem1 (s : State) (n : Nat) (x : Sq) : (s.setSq n x).hmem1 = s.hmem1 := rfl
@[simp] theorem State.setSq_free (s : State) (n : Nat) (x : Sq) : (s.setSq n x).free = s.free := rfl
@[simp] theorem State.setSq_cores (s : State) (n : Nat) (x : Sq) : (s.setSq n x).cores = s.cores := rfl
@[simp] theorem State.setSq_hbms (s : State) (n : Nat) (x : Sq) : (s.setSq n x).hbms = s.hbms := rfl
@[simp] theorem State.setSq_lpp (s : State) (n : Nat) (x : Sq) : (s.setSq n x).lpp = s.lpp := rfl
@[simp] theorem State.setSq_power (s : State) (n : Nat) (x : Sq) : (s.setSq n x).power = s.power := rfl
@[simp] theorem State.setSq_agg (s : State) (n : Nat) (x : Sq) : (s.setSq n x).agg = s.agg := rfl
@[simp] theorem State.setSq_ingest (s : State) (n : Nat) (x : Sq) : (s.setSq n x).ingest = s.ingest := rfl
@[simp] theorem State.setSq_net (s : State) (n : Nat) (x : Sq) : (s.setSq n x).net = s.net := rfl
@[simp] theorem State.setSq_ce0 (s : State) (n : Nat) (x : Sq) : (s.setSq n x).ce0 = s.ce0 := rfl
@[simp] theorem State.setSq_ce1 (s : State) (n : Nat) (x : Sq) : (s.setSq n x).ce1 = s.ce1 := rfl
@[simp] theorem State.setSq_decodes (s : State) (n : Nat) (x : Sq) : (s.setSq n x).decodes = s.decodes := rfl
@[simp] theorem State.setSq_boot (s : State) (n : Nat) (x : Sq) : (s.setSq n x).boot = s.boot := rfl
@[simp] theorem State.setSq_sec (s : State) (n : Nat) (x : Sq) : (s.setSq n x).sec = s.sec := rfl
@[simp] theorem State.setSq_tly (s : State) (n : Nat) (x : Sq) : (s.setSq n x).tly = s.tly := rfl
@[simp] theorem State.setSq_cvs (s : State) (n : Nat) (x : Sq) : (s.setSq n x).cvs = s.cvs := rfl
@[simp] theorem State.setSq_mgmt (s : State) (n : Nat) (x : Sq) : (s.setSq n x).mgmt = s.mgmt := rfl
@[simp] theorem State.setSq_tbtime (s : State) (n : Nat) (x : Sq) : (s.setSq n x).tbtime = s.tbtime := rfl
@[simp] theorem State.setSq_pending (s : State) (n : Nat) (x : Sq) : (s.setSq n x).pending = s.pending := rfl
@[simp] theorem State.setSq_host_p0 (s : State) (n : Nat) (x : Sq) : (s.setSq n x).host.p0 = s.host.p0 := rfl
@[simp] theorem State.setSq_host_p1 (s : State) (n : Nat) (x : Sq) : (s.setSq n x).host.p1 = s.host.p1 := rfl
@[simp] theorem State.setSq_host_ctxs (s : State) (n : Nat) (x : Sq) : (s.setSq n x).host.ctxs = s.host.ctxs := rfl
@[simp] theorem State.setSq_host_cqs (s : State) (n : Nat) (x : Sq) : (s.setSq n x).host.cqs = s.host.cqs := rfl
@[simp] theorem State.setSq_host_pkts (s : State) (n : Nat) (x : Sq) : (s.setSq n x).host.pkts = s.host.pkts := rfl
@[simp] theorem State.setSq_host_pidNext (s : State) (n : Nat) (x : Sq) : (s.setSq n x).host.pidNext = s.host.pidNext := rfl
@[simp] theorem State.setSq_host_lease (s : State) (n : Nat) (x : Sq) : (s.setSq n x).host.lease = s.host.lease := rfl
@[simp] theorem State.setSq_host_stValid (s : State) (n : Nat) (x : Sq) : (s.setSq n x).host.stValid = s.host.stValid := rfl
@[simp] theorem State.setSq_host_stPort (s : State) (n : Nat) (x : Sq) : (s.setSq n x).host.stPort = s.host.stPort := rfl
@[simp] theorem State.setSq_host_stExpired (s : State) (n : Nat) (x : Sq) : (s.setSq n x).host.stExpired = s.host.stExpired := rfl
@[simp] theorem State.setSq_host_stSince (s : State) (n : Nat) (x : Sq) : (s.setSq n x).host.stSince = s.host.stSince := rfl
@[simp] theorem State.setSq_host_msix (s : State) (n : Nat) (x : Sq) : (s.setSq n x).host.msix = s.host.msix := rfl
@[simp] theorem State.setSq_host_barRsp (s : State) (n : Nat) (x : Sq) : (s.setSq n x).host.barRsp = s.host.barRsp := rfl

/-! #### setCq -/

@[simp] theorem State.setCq_variant (s : State) (n : Nat) (x : Cq) : (s.setCq n x).variant = s.variant := rfl
@[simp] theorem State.setCq_straps (s : State) (n : Nat) (x : Cq) : (s.setCq n x).straps = s.straps := rfl
@[simp] theorem State.setCq_pkg (s : State) (n : Nat) (x : Cq) : (s.setCq n x).pkg = s.pkg := rfl
@[simp] theorem State.setCq_mem (s : State) (n : Nat) (x : Cq) : (s.setCq n x).mem = s.mem := rfl
@[simp] theorem State.setCq_wsBad (s : State) (n : Nat) (x : Cq) : (s.setCq n x).wsBad = s.wsBad := rfl
@[simp] theorem State.setCq_wsSoft (s : State) (n : Nat) (x : Cq) : (s.setCq n x).wsSoft = s.wsSoft := rfl
@[simp] theorem State.setCq_hmem0 (s : State) (n : Nat) (x : Cq) : (s.setCq n x).hmem0 = s.hmem0 := rfl
@[simp] theorem State.setCq_hmem1 (s : State) (n : Nat) (x : Cq) : (s.setCq n x).hmem1 = s.hmem1 := rfl
@[simp] theorem State.setCq_free (s : State) (n : Nat) (x : Cq) : (s.setCq n x).free = s.free := rfl
@[simp] theorem State.setCq_cores (s : State) (n : Nat) (x : Cq) : (s.setCq n x).cores = s.cores := rfl
@[simp] theorem State.setCq_hbms (s : State) (n : Nat) (x : Cq) : (s.setCq n x).hbms = s.hbms := rfl
@[simp] theorem State.setCq_lpp (s : State) (n : Nat) (x : Cq) : (s.setCq n x).lpp = s.lpp := rfl
@[simp] theorem State.setCq_power (s : State) (n : Nat) (x : Cq) : (s.setCq n x).power = s.power := rfl
@[simp] theorem State.setCq_agg (s : State) (n : Nat) (x : Cq) : (s.setCq n x).agg = s.agg := rfl
@[simp] theorem State.setCq_ingest (s : State) (n : Nat) (x : Cq) : (s.setCq n x).ingest = s.ingest := rfl
@[simp] theorem State.setCq_net (s : State) (n : Nat) (x : Cq) : (s.setCq n x).net = s.net := rfl
@[simp] theorem State.setCq_ce0 (s : State) (n : Nat) (x : Cq) : (s.setCq n x).ce0 = s.ce0 := rfl
@[simp] theorem State.setCq_ce1 (s : State) (n : Nat) (x : Cq) : (s.setCq n x).ce1 = s.ce1 := rfl
@[simp] theorem State.setCq_decodes (s : State) (n : Nat) (x : Cq) : (s.setCq n x).decodes = s.decodes := rfl
@[simp] theorem State.setCq_boot (s : State) (n : Nat) (x : Cq) : (s.setCq n x).boot = s.boot := rfl
@[simp] theorem State.setCq_sec (s : State) (n : Nat) (x : Cq) : (s.setCq n x).sec = s.sec := rfl
@[simp] theorem State.setCq_tly (s : State) (n : Nat) (x : Cq) : (s.setCq n x).tly = s.tly := rfl
@[simp] theorem State.setCq_cvs (s : State) (n : Nat) (x : Cq) : (s.setCq n x).cvs = s.cvs := rfl
@[simp] theorem State.setCq_mgmt (s : State) (n : Nat) (x : Cq) : (s.setCq n x).mgmt = s.mgmt := rfl
@[simp] theorem State.setCq_tbtime (s : State) (n : Nat) (x : Cq) : (s.setCq n x).tbtime = s.tbtime := rfl
@[simp] theorem State.setCq_pending (s : State) (n : Nat) (x : Cq) : (s.setCq n x).pending = s.pending := rfl
@[simp] theorem State.setCq_host_p0 (s : State) (n : Nat) (x : Cq) : (s.setCq n x).host.p0 = s.host.p0 := rfl
@[simp] theorem State.setCq_host_p1 (s : State) (n : Nat) (x : Cq) : (s.setCq n x).host.p1 = s.host.p1 := rfl
@[simp] theorem State.setCq_host_ctxs (s : State) (n : Nat) (x : Cq) : (s.setCq n x).host.ctxs = s.host.ctxs := rfl
@[simp] theorem State.setCq_host_sqs (s : State) (n : Nat) (x : Cq) : (s.setCq n x).host.sqs = s.host.sqs := rfl
@[simp] theorem State.setCq_host_pkts (s : State) (n : Nat) (x : Cq) : (s.setCq n x).host.pkts = s.host.pkts := rfl
@[simp] theorem State.setCq_host_pidNext (s : State) (n : Nat) (x : Cq) : (s.setCq n x).host.pidNext = s.host.pidNext := rfl
@[simp] theorem State.setCq_host_lease (s : State) (n : Nat) (x : Cq) : (s.setCq n x).host.lease = s.host.lease := rfl
@[simp] theorem State.setCq_host_stValid (s : State) (n : Nat) (x : Cq) : (s.setCq n x).host.stValid = s.host.stValid := rfl
@[simp] theorem State.setCq_host_stPort (s : State) (n : Nat) (x : Cq) : (s.setCq n x).host.stPort = s.host.stPort := rfl
@[simp] theorem State.setCq_host_stExpired (s : State) (n : Nat) (x : Cq) : (s.setCq n x).host.stExpired = s.host.stExpired := rfl
@[simp] theorem State.setCq_host_stSince (s : State) (n : Nat) (x : Cq) : (s.setCq n x).host.stSince = s.host.stSince := rfl
@[simp] theorem State.setCq_host_msix (s : State) (n : Nat) (x : Cq) : (s.setCq n x).host.msix = s.host.msix := rfl
@[simp] theorem State.setCq_host_barRsp (s : State) (n : Nat) (x : Cq) : (s.setCq n x).host.barRsp = s.host.barRsp := rfl

/-! #### setPkt -/

@[simp] theorem State.setPkt_variant (s : State) (n : Nat) (x : Option Pkt) : (s.setPkt n x).variant = s.variant := rfl
@[simp] theorem State.setPkt_straps (s : State) (n : Nat) (x : Option Pkt) : (s.setPkt n x).straps = s.straps := rfl
@[simp] theorem State.setPkt_pkg (s : State) (n : Nat) (x : Option Pkt) : (s.setPkt n x).pkg = s.pkg := rfl
@[simp] theorem State.setPkt_mem (s : State) (n : Nat) (x : Option Pkt) : (s.setPkt n x).mem = s.mem := rfl
@[simp] theorem State.setPkt_wsBad (s : State) (n : Nat) (x : Option Pkt) : (s.setPkt n x).wsBad = s.wsBad := rfl
@[simp] theorem State.setPkt_wsSoft (s : State) (n : Nat) (x : Option Pkt) : (s.setPkt n x).wsSoft = s.wsSoft := rfl
@[simp] theorem State.setPkt_hmem0 (s : State) (n : Nat) (x : Option Pkt) : (s.setPkt n x).hmem0 = s.hmem0 := rfl
@[simp] theorem State.setPkt_hmem1 (s : State) (n : Nat) (x : Option Pkt) : (s.setPkt n x).hmem1 = s.hmem1 := rfl
@[simp] theorem State.setPkt_free (s : State) (n : Nat) (x : Option Pkt) : (s.setPkt n x).free = s.free := rfl
@[simp] theorem State.setPkt_cores (s : State) (n : Nat) (x : Option Pkt) : (s.setPkt n x).cores = s.cores := rfl
@[simp] theorem State.setPkt_hbms (s : State) (n : Nat) (x : Option Pkt) : (s.setPkt n x).hbms = s.hbms := rfl
@[simp] theorem State.setPkt_lpp (s : State) (n : Nat) (x : Option Pkt) : (s.setPkt n x).lpp = s.lpp := rfl
@[simp] theorem State.setPkt_power (s : State) (n : Nat) (x : Option Pkt) : (s.setPkt n x).power = s.power := rfl
@[simp] theorem State.setPkt_agg (s : State) (n : Nat) (x : Option Pkt) : (s.setPkt n x).agg = s.agg := rfl
@[simp] theorem State.setPkt_ingest (s : State) (n : Nat) (x : Option Pkt) : (s.setPkt n x).ingest = s.ingest := rfl
@[simp] theorem State.setPkt_net (s : State) (n : Nat) (x : Option Pkt) : (s.setPkt n x).net = s.net := rfl
@[simp] theorem State.setPkt_ce0 (s : State) (n : Nat) (x : Option Pkt) : (s.setPkt n x).ce0 = s.ce0 := rfl
@[simp] theorem State.setPkt_ce1 (s : State) (n : Nat) (x : Option Pkt) : (s.setPkt n x).ce1 = s.ce1 := rfl
@[simp] theorem State.setPkt_decodes (s : State) (n : Nat) (x : Option Pkt) : (s.setPkt n x).decodes = s.decodes := rfl
@[simp] theorem State.setPkt_boot (s : State) (n : Nat) (x : Option Pkt) : (s.setPkt n x).boot = s.boot := rfl
@[simp] theorem State.setPkt_sec (s : State) (n : Nat) (x : Option Pkt) : (s.setPkt n x).sec = s.sec := rfl
@[simp] theorem State.setPkt_tly (s : State) (n : Nat) (x : Option Pkt) : (s.setPkt n x).tly = s.tly := rfl
@[simp] theorem State.setPkt_cvs (s : State) (n : Nat) (x : Option Pkt) : (s.setPkt n x).cvs = s.cvs := rfl
@[simp] theorem State.setPkt_mgmt (s : State) (n : Nat) (x : Option Pkt) : (s.setPkt n x).mgmt = s.mgmt := rfl
@[simp] theorem State.setPkt_tbtime (s : State) (n : Nat) (x : Option Pkt) : (s.setPkt n x).tbtime = s.tbtime := rfl
@[simp] theorem State.setPkt_pending (s : State) (n : Nat) (x : Option Pkt) : (s.setPkt n x).pending = s.pending := rfl
@[simp] theorem State.setPkt_host_p0 (s : State) (n : Nat) (x : Option Pkt) : (s.setPkt n x).host.p0 = s.host.p0 := rfl
@[simp] theorem State.setPkt_host_p1 (s : State) (n : Nat) (x : Option Pkt) : (s.setPkt n x).host.p1 = s.host.p1 := rfl
@[simp] theorem State.setPkt_host_ctxs (s : State) (n : Nat) (x : Option Pkt) : (s.setPkt n x).host.ctxs = s.host.ctxs := rfl
@[simp] theorem State.setPkt_host_sqs (s : State) (n : Nat) (x : Option Pkt) : (s.setPkt n x).host.sqs = s.host.sqs := rfl
@[simp] theorem State.setPkt_host_cqs (s : State) (n : Nat) (x : Option Pkt) : (s.setPkt n x).host.cqs = s.host.cqs := rfl
@[simp] theorem State.setPkt_host_pidNext (s : State) (n : Nat) (x : Option Pkt) : (s.setPkt n x).host.pidNext = s.host.pidNext := rfl
@[simp] theorem State.setPkt_host_lease (s : State) (n : Nat) (x : Option Pkt) : (s.setPkt n x).host.lease = s.host.lease := rfl
@[simp] theorem State.setPkt_host_stValid (s : State) (n : Nat) (x : Option Pkt) : (s.setPkt n x).host.stValid = s.host.stValid := rfl
@[simp] theorem State.setPkt_host_stPort (s : State) (n : Nat) (x : Option Pkt) : (s.setPkt n x).host.stPort = s.host.stPort := rfl
@[simp] theorem State.setPkt_host_stExpired (s : State) (n : Nat) (x : Option Pkt) : (s.setPkt n x).host.stExpired = s.host.stExpired := rfl
@[simp] theorem State.setPkt_host_stSince (s : State) (n : Nat) (x : Option Pkt) : (s.setPkt n x).host.stSince = s.host.stSince := rfl
@[simp] theorem State.setPkt_host_msix (s : State) (n : Nat) (x : Option Pkt) : (s.setPkt n x).host.msix = s.host.msix := rfl
@[simp] theorem State.setPkt_host_barRsp (s : State) (n : Nat) (x : Option Pkt) : (s.setPkt n x).host.barRsp = s.host.barRsp := rfl

/-! #### setPort -/

@[simp] theorem State.setPort_variant (s : State) (n : Nat) (x : Port) : (s.setPort n x).variant = s.variant := by unfold State.setPort; split <;> rfl
@[simp] theorem State.setPort_straps (s : State) (n : Nat) (x : Port) : (s.setPort n x).straps = s.straps := by unfold State.setPort; split <;> rfl
@[simp] theorem State.setPort_pkg (s : State) (n : Nat) (x : Port) : (s.setPort n x).pkg = s.pkg := by unfold State.setPort; split <;> rfl
@[simp] theorem State.setPort_mem (s : State) (n : Nat) (x : Port) : (s.setPort n x).mem = s.mem := by unfold State.setPort; split <;> rfl
@[simp] theorem State.setPort_wsBad (s : State) (n : Nat) (x : Port) : (s.setPort n x).wsBad = s.wsBad := by unfold State.setPort; split <;> rfl
@[simp] theorem State.setPort_wsSoft (s : State) (n : Nat) (x : Port) : (s.setPort n x).wsSoft = s.wsSoft := by unfold State.setPort; split <;> rfl
@[simp] theorem State.setPort_hmem0 (s : State) (n : Nat) (x : Port) : (s.setPort n x).hmem0 = s.hmem0 := by unfold State.setPort; split <;> rfl
@[simp] theorem State.setPort_hmem1 (s : State) (n : Nat) (x : Port) : (s.setPort n x).hmem1 = s.hmem1 := by unfold State.setPort; split <;> rfl
@[simp] theorem State.setPort_free (s : State) (n : Nat) (x : Port) : (s.setPort n x).free = s.free := by unfold State.setPort; split <;> rfl
@[simp] theorem State.setPort_cores (s : State) (n : Nat) (x : Port) : (s.setPort n x).cores = s.cores := by unfold State.setPort; split <;> rfl
@[simp] theorem State.setPort_hbms (s : State) (n : Nat) (x : Port) : (s.setPort n x).hbms = s.hbms := by unfold State.setPort; split <;> rfl
@[simp] theorem State.setPort_lpp (s : State) (n : Nat) (x : Port) : (s.setPort n x).lpp = s.lpp := by unfold State.setPort; split <;> rfl
@[simp] theorem State.setPort_power (s : State) (n : Nat) (x : Port) : (s.setPort n x).power = s.power := by unfold State.setPort; split <;> rfl
@[simp] theorem State.setPort_agg (s : State) (n : Nat) (x : Port) : (s.setPort n x).agg = s.agg := by unfold State.setPort; split <;> rfl
@[simp] theorem State.setPort_ingest (s : State) (n : Nat) (x : Port) : (s.setPort n x).ingest = s.ingest := by unfold State.setPort; split <;> rfl
@[simp] theorem State.setPort_net (s : State) (n : Nat) (x : Port) : (s.setPort n x).net = s.net := by unfold State.setPort; split <;> rfl
@[simp] theorem State.setPort_ce0 (s : State) (n : Nat) (x : Port) : (s.setPort n x).ce0 = s.ce0 := by unfold State.setPort; split <;> rfl
@[simp] theorem State.setPort_ce1 (s : State) (n : Nat) (x : Port) : (s.setPort n x).ce1 = s.ce1 := by unfold State.setPort; split <;> rfl
@[simp] theorem State.setPort_decodes (s : State) (n : Nat) (x : Port) : (s.setPort n x).decodes = s.decodes := by unfold State.setPort; split <;> rfl
@[simp] theorem State.setPort_boot (s : State) (n : Nat) (x : Port) : (s.setPort n x).boot = s.boot := by unfold State.setPort; split <;> rfl
@[simp] theorem State.setPort_sec (s : State) (n : Nat) (x : Port) : (s.setPort n x).sec = s.sec := by unfold State.setPort; split <;> rfl
@[simp] theorem State.setPort_tly (s : State) (n : Nat) (x : Port) : (s.setPort n x).tly = s.tly := by unfold State.setPort; split <;> rfl
@[simp] theorem State.setPort_cvs (s : State) (n : Nat) (x : Port) : (s.setPort n x).cvs = s.cvs := by unfold State.setPort; split <;> rfl
@[simp] theorem State.setPort_mgmt (s : State) (n : Nat) (x : Port) : (s.setPort n x).mgmt = s.mgmt := by unfold State.setPort; split <;> rfl
@[simp] theorem State.setPort_tbtime (s : State) (n : Nat) (x : Port) : (s.setPort n x).tbtime = s.tbtime := by unfold State.setPort; split <;> rfl
@[simp] theorem State.setPort_pending (s : State) (n : Nat) (x : Port) : (s.setPort n x).pending = s.pending := by unfold State.setPort; split <;> rfl
@[simp] theorem State.setPort_host_ctxs (s : State) (n : Nat) (x : Port) : (s.setPort n x).host.ctxs = s.host.ctxs := by unfold State.setPort; split <;> rfl
@[simp] theorem State.setPort_host_sqs (s : State) (n : Nat) (x : Port) : (s.setPort n x).host.sqs = s.host.sqs := by unfold State.setPort; split <;> rfl
@[simp] theorem State.setPort_host_cqs (s : State) (n : Nat) (x : Port) : (s.setPort n x).host.cqs = s.host.cqs := by unfold State.setPort; split <;> rfl
@[simp] theorem State.setPort_host_pkts (s : State) (n : Nat) (x : Port) : (s.setPort n x).host.pkts = s.host.pkts := by unfold State.setPort; split <;> rfl
@[simp] theorem State.setPort_host_pidNext (s : State) (n : Nat) (x : Port) : (s.setPort n x).host.pidNext = s.host.pidNext := by unfold State.setPort; split <;> rfl
@[simp] theorem State.setPort_host_lease (s : State) (n : Nat) (x : Port) : (s.setPort n x).host.lease = s.host.lease := by unfold State.setPort; split <;> rfl
@[simp] theorem State.setPort_host_stValid (s : State) (n : Nat) (x : Port) : (s.setPort n x).host.stValid = s.host.stValid := by unfold State.setPort; split <;> rfl
@[simp] theorem State.setPort_host_stPort (s : State) (n : Nat) (x : Port) : (s.setPort n x).host.stPort = s.host.stPort := by unfold State.setPort; split <;> rfl
@[simp] theorem State.setPort_host_stExpired (s : State) (n : Nat) (x : Port) : (s.setPort n x).host.stExpired = s.host.stExpired := by unfold State.setPort; split <;> rfl
@[simp] theorem State.setPort_host_stSince (s : State) (n : Nat) (x : Port) : (s.setPort n x).host.stSince = s.host.stSince := by unfold State.setPort; split <;> rfl
@[simp] theorem State.setPort_host_msix (s : State) (n : Nat) (x : Port) : (s.setPort n x).host.msix = s.host.msix := by unfold State.setPort; split <;> rfl
@[simp] theorem State.setPort_host_barRsp (s : State) (n : Nat) (x : Port) : (s.setPort n x).host.barRsp = s.host.barRsp := by unfold State.setPort; split <;> rfl

/-! #### raiseMsix -/

@[simp] theorem raiseMsix_variant (s : State) (ctx vec : Nat) : (raiseMsix s ctx vec).variant = s.variant := rfl
@[simp] theorem raiseMsix_straps (s : State) (ctx vec : Nat) : (raiseMsix s ctx vec).straps = s.straps := rfl
@[simp] theorem raiseMsix_pkg (s : State) (ctx vec : Nat) : (raiseMsix s ctx vec).pkg = s.pkg := rfl
@[simp] theorem raiseMsix_mem (s : State) (ctx vec : Nat) : (raiseMsix s ctx vec).mem = s.mem := rfl
@[simp] theorem raiseMsix_wsBad (s : State) (ctx vec : Nat) : (raiseMsix s ctx vec).wsBad = s.wsBad := rfl
@[simp] theorem raiseMsix_wsSoft (s : State) (ctx vec : Nat) : (raiseMsix s ctx vec).wsSoft = s.wsSoft := rfl
@[simp] theorem raiseMsix_hmem0 (s : State) (ctx vec : Nat) : (raiseMsix s ctx vec).hmem0 = s.hmem0 := rfl
@[simp] theorem raiseMsix_hmem1 (s : State) (ctx vec : Nat) : (raiseMsix s ctx vec).hmem1 = s.hmem1 := rfl
@[simp] theorem raiseMsix_free (s : State) (ctx vec : Nat) : (raiseMsix s ctx vec).free = s.free := rfl
@[simp] theorem raiseMsix_cores (s : State) (ctx vec : Nat) : (raiseMsix s ctx vec).cores = s.cores := rfl
@[simp] theorem raiseMsix_hbms (s : State) (ctx vec : Nat) : (raiseMsix s ctx vec).hbms = s.hbms := rfl
@[simp] theorem raiseMsix_lpp (s : State) (ctx vec : Nat) : (raiseMsix s ctx vec).lpp = s.lpp := rfl
@[simp] theorem raiseMsix_power (s : State) (ctx vec : Nat) : (raiseMsix s ctx vec).power = s.power := rfl
@[simp] theorem raiseMsix_agg (s : State) (ctx vec : Nat) : (raiseMsix s ctx vec).agg = s.agg := rfl
@[simp] theorem raiseMsix_ingest (s : State) (ctx vec : Nat) : (raiseMsix s ctx vec).ingest = s.ingest := rfl
@[simp] theorem raiseMsix_net (s : State) (ctx vec : Nat) : (raiseMsix s ctx vec).net = s.net := rfl
@[simp] theorem raiseMsix_ce0 (s : State) (ctx vec : Nat) : (raiseMsix s ctx vec).ce0 = s.ce0 := rfl
@[simp] theorem raiseMsix_ce1 (s : State) (ctx vec : Nat) : (raiseMsix s ctx vec).ce1 = s.ce1 := rfl
@[simp] theorem raiseMsix_decodes (s : State) (ctx vec : Nat) : (raiseMsix s ctx vec).decodes = s.decodes := rfl
@[simp] theorem raiseMsix_boot (s : State) (ctx vec : Nat) : (raiseMsix s ctx vec).boot = s.boot := rfl
@[simp] theorem raiseMsix_sec (s : State) (ctx vec : Nat) : (raiseMsix s ctx vec).sec = s.sec := rfl
@[simp] theorem raiseMsix_tly (s : State) (ctx vec : Nat) : (raiseMsix s ctx vec).tly = s.tly := rfl
@[simp] theorem raiseMsix_cvs (s : State) (ctx vec : Nat) : (raiseMsix s ctx vec).cvs = s.cvs := rfl
@[simp] theorem raiseMsix_mgmt (s : State) (ctx vec : Nat) : (raiseMsix s ctx vec).mgmt = s.mgmt := rfl
@[simp] theorem raiseMsix_tbtime (s : State) (ctx vec : Nat) : (raiseMsix s ctx vec).tbtime = s.tbtime := rfl
@[simp] theorem raiseMsix_pending (s : State) (ctx vec : Nat) : (raiseMsix s ctx vec).pending = s.pending := rfl
@[simp] theorem raiseMsix_host_p0 (s : State) (ctx vec : Nat) : (raiseMsix s ctx vec).host.p0 = s.host.p0 := rfl
@[simp] theorem raiseMsix_host_p1 (s : State) (ctx vec : Nat) : (raiseMsix s ctx vec).host.p1 = s.host.p1 := rfl
@[simp] theorem raiseMsix_host_ctxs (s : State) (ctx vec : Nat) : (raiseMsix s ctx vec).host.ctxs = s.host.ctxs := rfl
@[simp] theorem raiseMsix_host_sqs (s : State) (ctx vec : Nat) : (raiseMsix s ctx vec).host.sqs = s.host.sqs := rfl
@[simp] theorem raiseMsix_host_cqs (s : State) (ctx vec : Nat) : (raiseMsix s ctx vec).host.cqs = s.host.cqs := rfl
@[simp] theorem raiseMsix_host_pkts (s : State) (ctx vec : Nat) : (raiseMsix s ctx vec).host.pkts = s.host.pkts := rfl
@[simp] theorem raiseMsix_host_pidNext (s : State) (ctx vec : Nat) : (raiseMsix s ctx vec).host.pidNext = s.host.pidNext := rfl
@[simp] theorem raiseMsix_host_lease (s : State) (ctx vec : Nat) : (raiseMsix s ctx vec).host.lease = s.host.lease := rfl
@[simp] theorem raiseMsix_host_stValid (s : State) (ctx vec : Nat) : (raiseMsix s ctx vec).host.stValid = s.host.stValid := rfl
@[simp] theorem raiseMsix_host_stPort (s : State) (ctx vec : Nat) : (raiseMsix s ctx vec).host.stPort = s.host.stPort := rfl
@[simp] theorem raiseMsix_host_stExpired (s : State) (ctx vec : Nat) : (raiseMsix s ctx vec).host.stExpired = s.host.stExpired := rfl
@[simp] theorem raiseMsix_host_stSince (s : State) (ctx vec : Nat) : (raiseMsix s ctx vec).host.stSince = s.host.stSince := rfl
@[simp] theorem raiseMsix_host_barRsp (s : State) (ctx vec : Nat) : (raiseMsix s ctx vec).host.barRsp = s.host.barRsp := rfl

/-! #### setLink -/

@[simp] theorem State.setLink_variant (s : State) (l : Nat) (x : Link) : (s.setLink l x).variant = s.variant := rfl
@[simp] theorem State.setLink_straps (s : State) (l : Nat) (x : Link) : (s.setLink l x).straps = s.straps := rfl
@[simp] theorem State.setLink_pkg (s : State) (l : Nat) (x : Link) : (s.setLink l x).pkg = s.pkg := rfl
@[simp] theorem State.setLink_mem (s : State) (l : Nat) (x : Link) : (s.setLink l x).mem = s.mem := rfl
@[simp] theorem State.setLink_wsBad (s : State) (l : Nat) (x : Link) : (s.setLink l x).wsBad = s.wsBad := rfl
@[simp] theorem State.setLink_wsSoft (s : State) (l : Nat) (x : Link) : (s.setLink l x).wsSoft = s.wsSoft := rfl
@[simp] theorem State.setLink_hmem0 (s : State) (l : Nat) (x : Link) : (s.setLink l x).hmem0 = s.hmem0 := rfl
@[simp] theorem State.setLink_hmem1 (s : State) (l : Nat) (x : Link) : (s.setLink l x).hmem1 = s.hmem1 := rfl
@[simp] theorem State.setLink_free (s : State) (l : Nat) (x : Link) : (s.setLink l x).free = s.free := rfl
@[simp] theorem State.setLink_cores (s : State) (l : Nat) (x : Link) : (s.setLink l x).cores = s.cores := rfl
@[simp] theorem State.setLink_hbms (s : State) (l : Nat) (x : Link) : (s.setLink l x).hbms = s.hbms := rfl
@[simp] theorem State.setLink_lpp (s : State) (l : Nat) (x : Link) : (s.setLink l x).lpp = s.lpp := rfl
@[simp] theorem State.setLink_power (s : State) (l : Nat) (x : Link) : (s.setLink l x).power = s.power := rfl
@[simp] theorem State.setLink_agg (s : State) (l : Nat) (x : Link) : (s.setLink l x).agg = s.agg := rfl
@[simp] theorem State.setLink_host (s : State) (l : Nat) (x : Link) : (s.setLink l x).host = s.host := rfl
@[simp] theorem State.setLink_ingest (s : State) (l : Nat) (x : Link) : (s.setLink l x).ingest = s.ingest := rfl
@[simp] theorem State.setLink_ce0 (s : State) (l : Nat) (x : Link) : (s.setLink l x).ce0 = s.ce0 := rfl
@[simp] theorem State.setLink_ce1 (s : State) (l : Nat) (x : Link) : (s.setLink l x).ce1 = s.ce1 := rfl
@[simp] theorem State.setLink_decodes (s : State) (l : Nat) (x : Link) : (s.setLink l x).decodes = s.decodes := rfl
@[simp] theorem State.setLink_boot (s : State) (l : Nat) (x : Link) : (s.setLink l x).boot = s.boot := rfl
@[simp] theorem State.setLink_sec (s : State) (l : Nat) (x : Link) : (s.setLink l x).sec = s.sec := rfl
@[simp] theorem State.setLink_tly (s : State) (l : Nat) (x : Link) : (s.setLink l x).tly = s.tly := rfl
@[simp] theorem State.setLink_cvs (s : State) (l : Nat) (x : Link) : (s.setLink l x).cvs = s.cvs := rfl
@[simp] theorem State.setLink_mgmt (s : State) (l : Nat) (x : Link) : (s.setLink l x).mgmt = s.mgmt := rfl
@[simp] theorem State.setLink_tbtime (s : State) (l : Nat) (x : Link) : (s.setLink l x).tbtime = s.tbtime := rfl
@[simp] theorem State.setLink_pending (s : State) (l : Nat) (x : Link) : (s.setLink l x).pending = s.pending := rfl
@[simp] theorem State.setLink_net_bonds (s : State) (l : Nat) (x : Link) : (s.setLink l x).net.bonds = s.net.bonds := rfl
@[simp] theorem State.setLink_net_devId (s : State) (l : Nat) (x : Link) : (s.setLink l x).net.devId = s.net.devId := rfl
@[simp] theorem State.setLink_net_rtIdx (s : State) (l : Nat) (x : Link) : (s.setLink l x).net.rtIdx = s.net.rtIdx := rfl
@[simp] theorem State.setLink_net_route (s : State) (l : Nat) (x : Link) : (s.setLink l x).net.route = s.net.route := rfl
@[simp] theorem State.setLink_net_hopMax (s : State) (l : Nat) (x : Link) : (s.setLink l x).net.hopMax = s.net.hopMax := rfl
@[simp] theorem State.setLink_net_noRoute0 (s : State) (l : Nat) (x : Link) : (s.setLink l x).net.noRoute0 = s.net.noRoute0 := rfl
@[simp] theorem State.setLink_net_noRoute1 (s : State) (l : Nat) (x : Link) : (s.setLink l x).net.noRoute1 = s.net.noRoute1 := rfl
@[simp] theorem State.setLink_net_hopDrop0 (s : State) (l : Nat) (x : Link) : (s.setLink l x).net.hopDrop0 = s.net.hopDrop0 := rfl
@[simp] theorem State.setLink_net_hopDrop1 (s : State) (l : Nat) (x : Link) : (s.setLink l x).net.hopDrop1 = s.net.hopDrop1 := rfl
@[simp] theorem State.setLink_net_tbLock (s : State) (l : Nat) (x : Link) : (s.setLink l x).net.tbLock = s.net.tbLock := rfl
@[simp] theorem State.setLink_net_tbMaster (s : State) (l : Nat) (x : Link) : (s.setLink l x).net.tbMaster = s.net.tbMaster := rfl
@[simp] theorem State.setLink_net_tbSrc (s : State) (l : Nat) (x : Link) : (s.setLink l x).net.tbSrc = s.net.tbSrc := rfl
@[simp] theorem State.setLink_net_tbOffset (s : State) (l : Nat) (x : Link) : (s.setLink l x).net.tbOffset = s.net.tbOffset := rfl
@[simp] theorem State.setLink_net_tbHold (s : State) (l : Nat) (x : Link) : (s.setLink l x).net.tbHold = s.net.tbHold := rfl
@[simp] theorem State.setLink_net_tbSync (s : State) (l : Nat) (x : Link) : (s.setLink l x).net.tbSync = s.net.tbSync := rfl
@[simp] theorem State.setLink_net_tbStop (s : State) (l : Nat) (x : Link) : (s.setLink l x).net.tbStop = s.net.tbStop := rfl
@[simp] theorem State.setLink_net_tbSlew (s : State) (l : Nat) (x : Link) : (s.setLink l x).net.tbSlew = s.net.tbSlew := rfl
@[simp] theorem State.setLink_net_tbSlewed (s : State) (l : Nat) (x : Link) : (s.setLink l x).net.tbSlewed = s.net.tbSlewed := rfl
@[simp] theorem State.setLink_net_mid (s : State) (l : Nat) (x : Link) : (s.setLink l x).net.mid = s.net.mid := rfl

/-! #### modLink -/

@[simp] theorem State.modLink_variant (s : State) (l : Nat) (f : Link → Link) : (s.modLink l f).variant = s.variant := rfl
@[simp] theorem State.modLink_straps (s : State) (l : Nat) (f : Link → Link) : (s.modLink l f).straps = s.straps := rfl
@[simp] theorem State.modLink_pkg (s : State) (l : Nat) (f : Link → Link) : (s.modLink l f).pkg = s.pkg := rfl
@[simp] theorem State.modLink_mem (s : State) (l : Nat) (f : Link → Link) : (s.modLink l f).mem = s.mem := rfl
@[simp] theorem State.modLink_wsBad (s : State) (l : Nat) (f : Link → Link) : (s.modLink l f).wsBad = s.wsBad := rfl
@[simp] theorem State.modLink_wsSoft (s : State) (l : Nat) (f : Link → Link) : (s.modLink l f).wsSoft = s.wsSoft := rfl
@[simp] theorem State.modLink_hmem0 (s : State) (l : Nat) (f : Link → Link) : (s.modLink l f).hmem0 = s.hmem0 := rfl
@[simp] theorem State.modLink_hmem1 (s : State) (l : Nat) (f : Link → Link) : (s.modLink l f).hmem1 = s.hmem1 := rfl
@[simp] theorem State.modLink_free (s : State) (l : Nat) (f : Link → Link) : (s.modLink l f).free = s.free := rfl
@[simp] theorem State.modLink_cores (s : State) (l : Nat) (f : Link → Link) : (s.modLink l f).cores = s.cores := rfl
@[simp] theorem State.modLink_hbms (s : State) (l : Nat) (f : Link → Link) : (s.modLink l f).hbms = s.hbms := rfl
@[simp] theorem State.modLink_lpp (s : State) (l : Nat) (f : Link → Link) : (s.modLink l f).lpp = s.lpp := rfl
@[simp] theorem State.modLink_power (s : State) (l : Nat) (f : Link → Link) : (s.modLink l f).power = s.power := rfl
@[simp] theorem State.modLink_agg (s : State) (l : Nat) (f : Link → Link) : (s.modLink l f).agg = s.agg := rfl
@[simp] theorem State.modLink_host (s : State) (l : Nat) (f : Link → Link) : (s.modLink l f).host = s.host := rfl
@[simp] theorem State.modLink_ingest (s : State) (l : Nat) (f : Link → Link) : (s.modLink l f).ingest = s.ingest := rfl
@[simp] theorem State.modLink_ce0 (s : State) (l : Nat) (f : Link → Link) : (s.modLink l f).ce0 = s.ce0 := rfl
@[simp] theorem State.modLink_ce1 (s : State) (l : Nat) (f : Link → Link) : (s.modLink l f).ce1 = s.ce1 := rfl
@[simp] theorem State.modLink_decodes (s : State) (l : Nat) (f : Link → Link) : (s.modLink l f).decodes = s.decodes := rfl
@[simp] theorem State.modLink_boot (s : State) (l : Nat) (f : Link → Link) : (s.modLink l f).boot = s.boot := rfl
@[simp] theorem State.modLink_sec (s : State) (l : Nat) (f : Link → Link) : (s.modLink l f).sec = s.sec := rfl
@[simp] theorem State.modLink_tly (s : State) (l : Nat) (f : Link → Link) : (s.modLink l f).tly = s.tly := rfl
@[simp] theorem State.modLink_cvs (s : State) (l : Nat) (f : Link → Link) : (s.modLink l f).cvs = s.cvs := rfl
@[simp] theorem State.modLink_mgmt (s : State) (l : Nat) (f : Link → Link) : (s.modLink l f).mgmt = s.mgmt := rfl
@[simp] theorem State.modLink_tbtime (s : State) (l : Nat) (f : Link → Link) : (s.modLink l f).tbtime = s.tbtime := rfl
@[simp] theorem State.modLink_pending (s : State) (l : Nat) (f : Link → Link) : (s.modLink l f).pending = s.pending := rfl
@[simp] theorem State.modLink_net_bonds (s : State) (l : Nat) (f : Link → Link) : (s.modLink l f).net.bonds = s.net.bonds := rfl
@[simp] theorem State.modLink_net_devId (s : State) (l : Nat) (f : Link → Link) : (s.modLink l f).net.devId = s.net.devId := rfl
@[simp] theorem State.modLink_net_rtIdx (s : State) (l : Nat) (f : Link → Link) : (s.modLink l f).net.rtIdx = s.net.rtIdx := rfl
@[simp] theorem State.modLink_net_route (s : State) (l : Nat) (f : Link → Link) : (s.modLink l f).net.route = s.net.route := rfl
@[simp] theorem State.modLink_net_hopMax (s : State) (l : Nat) (f : Link → Link) : (s.modLink l f).net.hopMax = s.net.hopMax := rfl
@[simp] theorem State.modLink_net_noRoute0 (s : State) (l : Nat) (f : Link → Link) : (s.modLink l f).net.noRoute0 = s.net.noRoute0 := rfl
@[simp] theorem State.modLink_net_noRoute1 (s : State) (l : Nat) (f : Link → Link) : (s.modLink l f).net.noRoute1 = s.net.noRoute1 := rfl
@[simp] theorem State.modLink_net_hopDrop0 (s : State) (l : Nat) (f : Link → Link) : (s.modLink l f).net.hopDrop0 = s.net.hopDrop0 := rfl
@[simp] theorem State.modLink_net_hopDrop1 (s : State) (l : Nat) (f : Link → Link) : (s.modLink l f).net.hopDrop1 = s.net.hopDrop1 := rfl
@[simp] theorem State.modLink_net_tbLock (s : State) (l : Nat) (f : Link → Link) : (s.modLink l f).net.tbLock = s.net.tbLock := rfl
@[simp] theorem State.modLink_net_tbMaster (s : State) (l : Nat) (f : Link → Link) : (s.modLink l f).net.tbMaster = s.net.tbMaster := rfl
@[simp] theorem State.modLink_net_tbSrc (s : State) (l : Nat) (f : Link → Link) : (s.modLink l f).net.tbSrc = s.net.tbSrc := rfl
@[simp] theorem State.modLink_net_tbOffset (s : State) (l : Nat) (f : Link → Link) : (s.modLink l f).net.tbOffset = s.net.tbOffset := rfl
@[simp] theorem State.modLink_net_tbHold (s : State) (l : Nat) (f : Link → Link) : (s.modLink l f).net.tbHold = s.net.tbHold := rfl
@[simp] theorem State.modLink_net_tbSync (s : State) (l : Nat) (f : Link → Link) : (s.modLink l f).net.tbSync = s.net.tbSync := rfl
@[simp] theorem State.modLink_net_tbStop (s : State) (l : Nat) (f : Link → Link) : (s.modLink l f).net.tbStop = s.net.tbStop := rfl
@[simp] theorem State.modLink_net_tbSlew (s : State) (l : Nat) (f : Link → Link) : (s.modLink l f).net.tbSlew = s.net.tbSlew := rfl
@[simp] theorem State.modLink_net_tbSlewed (s : State) (l : Nat) (f : Link → Link) : (s.modLink l f).net.tbSlewed = s.net.tbSlewed := rfl
@[simp] theorem State.modLink_net_mid (s : State) (l : Nat) (f : Link → Link) : (s.modLink l f).net.mid = s.net.mid := rfl

/-! #### setCe -/

@[simp] theorem State.setCe_variant (s : State) (e : Nat) (x : Ce) : (s.setCe e x).variant = s.variant := by unfold State.setCe; split <;> rfl
@[simp] theorem State.setCe_straps (s : State) (e : Nat) (x : Ce) : (s.setCe e x).straps = s.straps := by unfold State.setCe; split <;> rfl
@[simp] theorem State.setCe_pkg (s : State) (e : Nat) (x : Ce) : (s.setCe e x).pkg = s.pkg := by unfold State.setCe; split <;> rfl
@[simp] theorem State.setCe_mem (s : State) (e : Nat) (x : Ce) : (s.setCe e x).mem = s.mem := by unfold State.setCe; split <;> rfl
@[simp] theorem State.setCe_wsBad (s : State) (e : Nat) (x : Ce) : (s.setCe e x).wsBad = s.wsBad := by unfold State.setCe; split <;> rfl
@[simp] theorem State.setCe_wsSoft (s : State) (e : Nat) (x : Ce) : (s.setCe e x).wsSoft = s.wsSoft := by unfold State.setCe; split <;> rfl
@[simp] theorem State.setCe_hmem0 (s : State) (e : Nat) (x : Ce) : (s.setCe e x).hmem0 = s.hmem0 := by unfold State.setCe; split <;> rfl
@[simp] theorem State.setCe_hmem1 (s : State) (e : Nat) (x : Ce) : (s.setCe e x).hmem1 = s.hmem1 := by unfold State.setCe; split <;> rfl
@[simp] theorem State.setCe_free (s : State) (e : Nat) (x : Ce) : (s.setCe e x).free = s.free := by unfold State.setCe; split <;> rfl
@[simp] theorem State.setCe_cores (s : State) (e : Nat) (x : Ce) : (s.setCe e x).cores = s.cores := by unfold State.setCe; split <;> rfl
@[simp] theorem State.setCe_hbms (s : State) (e : Nat) (x : Ce) : (s.setCe e x).hbms = s.hbms := by unfold State.setCe; split <;> rfl
@[simp] theorem State.setCe_lpp (s : State) (e : Nat) (x : Ce) : (s.setCe e x).lpp = s.lpp := by unfold State.setCe; split <;> rfl
@[simp] theorem State.setCe_power (s : State) (e : Nat) (x : Ce) : (s.setCe e x).power = s.power := by unfold State.setCe; split <;> rfl
@[simp] theorem State.setCe_agg (s : State) (e : Nat) (x : Ce) : (s.setCe e x).agg = s.agg := by unfold State.setCe; split <;> rfl
@[simp] theorem State.setCe_host (s : State) (e : Nat) (x : Ce) : (s.setCe e x).host = s.host := by unfold State.setCe; split <;> rfl
@[simp] theorem State.setCe_ingest (s : State) (e : Nat) (x : Ce) : (s.setCe e x).ingest = s.ingest := by unfold State.setCe; split <;> rfl
@[simp] theorem State.setCe_net (s : State) (e : Nat) (x : Ce) : (s.setCe e x).net = s.net := by unfold State.setCe; split <;> rfl
@[simp] theorem State.setCe_decodes (s : State) (e : Nat) (x : Ce) : (s.setCe e x).decodes = s.decodes := by unfold State.setCe; split <;> rfl
@[simp] theorem State.setCe_boot (s : State) (e : Nat) (x : Ce) : (s.setCe e x).boot = s.boot := by unfold State.setCe; split <;> rfl
@[simp] theorem State.setCe_sec (s : State) (e : Nat) (x : Ce) : (s.setCe e x).sec = s.sec := by unfold State.setCe; split <;> rfl
@[simp] theorem State.setCe_tly (s : State) (e : Nat) (x : Ce) : (s.setCe e x).tly = s.tly := by unfold State.setCe; split <;> rfl
@[simp] theorem State.setCe_cvs (s : State) (e : Nat) (x : Ce) : (s.setCe e x).cvs = s.cvs := by unfold State.setCe; split <;> rfl
@[simp] theorem State.setCe_mgmt (s : State) (e : Nat) (x : Ce) : (s.setCe e x).mgmt = s.mgmt := by unfold State.setCe; split <;> rfl
@[simp] theorem State.setCe_tbtime (s : State) (e : Nat) (x : Ce) : (s.setCe e x).tbtime = s.tbtime := by unfold State.setCe; split <;> rfl
@[simp] theorem State.setCe_pending (s : State) (e : Nat) (x : Ce) : (s.setCe e x).pending = s.pending := by unfold State.setCe; split <;> rfl

/-! #### modCe -/

@[simp] theorem State.modCe_variant (s : State) (e : Nat) (f : Ce → Ce) : (s.modCe e f).variant = s.variant := by unfold State.modCe State.setCe; split <;> rfl
@[simp] theorem State.modCe_straps (s : State) (e : Nat) (f : Ce → Ce) : (s.modCe e f).straps = s.straps := by unfold State.modCe State.setCe; split <;> rfl
@[simp] theorem State.modCe_pkg (s : State) (e : Nat) (f : Ce → Ce) : (s.modCe e f).pkg = s.pkg := by unfold State.modCe State.setCe; split <;> rfl
@[simp] theorem State.modCe_mem (s : State) (e : Nat) (f : Ce → Ce) : (s.modCe e f).mem = s.mem := by unfold State.modCe State.setCe; split <;> rfl
@[simp] theorem State.modCe_wsBad (s : State) (e : Nat) (f : Ce → Ce) : (s.modCe e f).wsBad = s.wsBad := by unfold State.modCe State.setCe; split <;> rfl
@[simp] theorem State.modCe_wsSoft (s : State) (e : Nat) (f : Ce → Ce) : (s.modCe e f).wsSoft = s.wsSoft := by unfold State.modCe State.setCe; split <;> rfl
@[simp] theorem State.modCe_hmem0 (s : State) (e : Nat) (f : Ce → Ce) : (s.modCe e f).hmem0 = s.hmem0 := by unfold State.modCe State.setCe; split <;> rfl
@[simp] theorem State.modCe_hmem1 (s : State) (e : Nat) (f : Ce → Ce) : (s.modCe e f).hmem1 = s.hmem1 := by unfold State.modCe State.setCe; split <;> rfl
@[simp] theorem State.modCe_free (s : State) (e : Nat) (f : Ce → Ce) : (s.modCe e f).free = s.free := by unfold State.modCe State.setCe; split <;> rfl
@[simp] theorem State.modCe_cores (s : State) (e : Nat) (f : Ce → Ce) : (s.modCe e f).cores = s.cores := by unfold State.modCe State.setCe; split <;> rfl
@[simp] theorem State.modCe_hbms (s : State) (e : Nat) (f : Ce → Ce) : (s.modCe e f).hbms = s.hbms := by unfold State.modCe State.setCe; split <;> rfl
@[simp] theorem State.modCe_lpp (s : State) (e : Nat) (f : Ce → Ce) : (s.modCe e f).lpp = s.lpp := by unfold State.modCe State.setCe; split <;> rfl
@[simp] theorem State.modCe_power (s : State) (e : Nat) (f : Ce → Ce) : (s.modCe e f).power = s.power := by unfold State.modCe State.setCe; split <;> rfl
@[simp] theorem State.modCe_agg (s : State) (e : Nat) (f : Ce → Ce) : (s.modCe e f).agg = s.agg := by unfold State.modCe State.setCe; split <;> rfl
@[simp] theorem State.modCe_host (s : State) (e : Nat) (f : Ce → Ce) : (s.modCe e f).host = s.host := by unfold State.modCe State.setCe; split <;> rfl
@[simp] theorem State.modCe_ingest (s : State) (e : Nat) (f : Ce → Ce) : (s.modCe e f).ingest = s.ingest := by unfold State.modCe State.setCe; split <;> rfl
@[simp] theorem State.modCe_net (s : State) (e : Nat) (f : Ce → Ce) : (s.modCe e f).net = s.net := by unfold State.modCe State.setCe; split <;> rfl
@[simp] theorem State.modCe_decodes (s : State) (e : Nat) (f : Ce → Ce) : (s.modCe e f).decodes = s.decodes := by unfold State.modCe State.setCe; split <;> rfl
@[simp] theorem State.modCe_boot (s : State) (e : Nat) (f : Ce → Ce) : (s.modCe e f).boot = s.boot := by unfold State.modCe State.setCe; split <;> rfl
@[simp] theorem State.modCe_sec (s : State) (e : Nat) (f : Ce → Ce) : (s.modCe e f).sec = s.sec := by unfold State.modCe State.setCe; split <;> rfl
@[simp] theorem State.modCe_tly (s : State) (e : Nat) (f : Ce → Ce) : (s.modCe e f).tly = s.tly := by unfold State.modCe State.setCe; split <;> rfl
@[simp] theorem State.modCe_cvs (s : State) (e : Nat) (f : Ce → Ce) : (s.modCe e f).cvs = s.cvs := by unfold State.modCe State.setCe; split <;> rfl
@[simp] theorem State.modCe_mgmt (s : State) (e : Nat) (f : Ce → Ce) : (s.modCe e f).mgmt = s.mgmt := by unfold State.modCe State.setCe; split <;> rfl
@[simp] theorem State.modCe_tbtime (s : State) (e : Nat) (f : Ce → Ce) : (s.modCe e f).tbtime = s.tbtime := by unfold State.modCe State.setCe; split <;> rfl
@[simp] theorem State.modCe_pending (s : State) (e : Nat) (f : Ce → Ce) : (s.modCe e f).pending = s.pending := by unfold State.modCe State.setCe; split <;> rfl

/-! #### tally -/

@[simp] theorem State.tally_variant (s : State) (cls ev idx sub n : Nat) : (s.tally cls ev idx sub n).variant = s.variant := rfl
@[simp] theorem State.tally_straps (s : State) (cls ev idx sub n : Nat) : (s.tally cls ev idx sub n).straps = s.straps := rfl
@[simp] theorem State.tally_pkg (s : State) (cls ev idx sub n : Nat) : (s.tally cls ev idx sub n).pkg = s.pkg := rfl
@[simp] theorem State.tally_mem (s : State) (cls ev idx sub n : Nat) : (s.tally cls ev idx sub n).mem = s.mem := rfl
@[simp] theorem State.tally_wsBad (s : State) (cls ev idx sub n : Nat) : (s.tally cls ev idx sub n).wsBad = s.wsBad := rfl
@[simp] theorem State.tally_wsSoft (s : State) (cls ev idx sub n : Nat) : (s.tally cls ev idx sub n).wsSoft = s.wsSoft := rfl
@[simp] theorem State.tally_hmem0 (s : State) (cls ev idx sub n : Nat) : (s.tally cls ev idx sub n).hmem0 = s.hmem0 := rfl
@[simp] theorem State.tally_hmem1 (s : State) (cls ev idx sub n : Nat) : (s.tally cls ev idx sub n).hmem1 = s.hmem1 := rfl
@[simp] theorem State.tally_free (s : State) (cls ev idx sub n : Nat) : (s.tally cls ev idx sub n).free = s.free := rfl
@[simp] theorem State.tally_cores (s : State) (cls ev idx sub n : Nat) : (s.tally cls ev idx sub n).cores = s.cores := rfl
@[simp] theorem State.tally_hbms (s : State) (cls ev idx sub n : Nat) : (s.tally cls ev idx sub n).hbms = s.hbms := rfl
@[simp] theorem State.tally_lpp (s : State) (cls ev idx sub n : Nat) : (s.tally cls ev idx sub n).lpp = s.lpp := rfl
@[simp] theorem State.tally_power (s : State) (cls ev idx sub n : Nat) : (s.tally cls ev idx sub n).power = s.power := rfl
@[simp] theorem State.tally_agg (s : State) (cls ev idx sub n : Nat) : (s.tally cls ev idx sub n).agg = s.agg := rfl
@[simp] theorem State.tally_host (s : State) (cls ev idx sub n : Nat) : (s.tally cls ev idx sub n).host = s.host := rfl
@[simp] theorem State.tally_ingest (s : State) (cls ev idx sub n : Nat) : (s.tally cls ev idx sub n).ingest = s.ingest := rfl
@[simp] theorem State.tally_net (s : State) (cls ev idx sub n : Nat) : (s.tally cls ev idx sub n).net = s.net := rfl
@[simp] theorem State.tally_ce0 (s : State) (cls ev idx sub n : Nat) : (s.tally cls ev idx sub n).ce0 = s.ce0 := rfl
@[simp] theorem State.tally_ce1 (s : State) (cls ev idx sub n : Nat) : (s.tally cls ev idx sub n).ce1 = s.ce1 := rfl
@[simp] theorem State.tally_decodes (s : State) (cls ev idx sub n : Nat) : (s.tally cls ev idx sub n).decodes = s.decodes := rfl
@[simp] theorem State.tally_boot (s : State) (cls ev idx sub n : Nat) : (s.tally cls ev idx sub n).boot = s.boot := rfl
@[simp] theorem State.tally_sec (s : State) (cls ev idx sub n : Nat) : (s.tally cls ev idx sub n).sec = s.sec := rfl
@[simp] theorem State.tally_cvs (s : State) (cls ev idx sub n : Nat) : (s.tally cls ev idx sub n).cvs = s.cvs := rfl
@[simp] theorem State.tally_mgmt (s : State) (cls ev idx sub n : Nat) : (s.tally cls ev idx sub n).mgmt = s.mgmt := rfl
@[simp] theorem State.tally_tbtime (s : State) (cls ev idx sub n : Nat) : (s.tally cls ev idx sub n).tbtime = s.tbtime := rfl
@[simp] theorem State.tally_pending (s : State) (cls ev idx sub n : Nat) : (s.tally cls ev idx sub n).pending = s.pending := rfl

/-! #### bwLink -/

@[simp] theorem State.bwLink_variant (s : State) (l dir n : Nat) : (s.bwLink l dir n).variant = s.variant := rfl
@[simp] theorem State.bwLink_straps (s : State) (l dir n : Nat) : (s.bwLink l dir n).straps = s.straps := rfl
@[simp] theorem State.bwLink_pkg (s : State) (l dir n : Nat) : (s.bwLink l dir n).pkg = s.pkg := rfl
@[simp] theorem State.bwLink_mem (s : State) (l dir n : Nat) : (s.bwLink l dir n).mem = s.mem := rfl
@[simp] theorem State.bwLink_wsBad (s : State) (l dir n : Nat) : (s.bwLink l dir n).wsBad = s.wsBad := rfl
@[simp] theorem State.bwLink_wsSoft (s : State) (l dir n : Nat) : (s.bwLink l dir n).wsSoft = s.wsSoft := rfl
@[simp] theorem State.bwLink_hmem0 (s : State) (l dir n : Nat) : (s.bwLink l dir n).hmem0 = s.hmem0 := rfl
@[simp] theorem State.bwLink_hmem1 (s : State) (l dir n : Nat) : (s.bwLink l dir n).hmem1 = s.hmem1 := rfl
@[simp] theorem State.bwLink_free (s : State) (l dir n : Nat) : (s.bwLink l dir n).free = s.free := rfl
@[simp] theorem State.bwLink_cores (s : State) (l dir n : Nat) : (s.bwLink l dir n).cores = s.cores := rfl
@[simp] theorem State.bwLink_hbms (s : State) (l dir n : Nat) : (s.bwLink l dir n).hbms = s.hbms := rfl
@[simp] theorem State.bwLink_lpp (s : State) (l dir n : Nat) : (s.bwLink l dir n).lpp = s.lpp := rfl
@[simp] theorem State.bwLink_power (s : State) (l dir n : Nat) : (s.bwLink l dir n).power = s.power := rfl
@[simp] theorem State.bwLink_agg (s : State) (l dir n : Nat) : (s.bwLink l dir n).agg = s.agg := rfl
@[simp] theorem State.bwLink_host (s : State) (l dir n : Nat) : (s.bwLink l dir n).host = s.host := rfl
@[simp] theorem State.bwLink_ingest (s : State) (l dir n : Nat) : (s.bwLink l dir n).ingest = s.ingest := rfl
@[simp] theorem State.bwLink_net (s : State) (l dir n : Nat) : (s.bwLink l dir n).net = s.net := rfl
@[simp] theorem State.bwLink_ce0 (s : State) (l dir n : Nat) : (s.bwLink l dir n).ce0 = s.ce0 := rfl
@[simp] theorem State.bwLink_ce1 (s : State) (l dir n : Nat) : (s.bwLink l dir n).ce1 = s.ce1 := rfl
@[simp] theorem State.bwLink_decodes (s : State) (l dir n : Nat) : (s.bwLink l dir n).decodes = s.decodes := rfl
@[simp] theorem State.bwLink_boot (s : State) (l dir n : Nat) : (s.bwLink l dir n).boot = s.boot := rfl
@[simp] theorem State.bwLink_sec (s : State) (l dir n : Nat) : (s.bwLink l dir n).sec = s.sec := rfl
@[simp] theorem State.bwLink_cvs (s : State) (l dir n : Nat) : (s.bwLink l dir n).cvs = s.cvs := rfl
@[simp] theorem State.bwLink_mgmt (s : State) (l dir n : Nat) : (s.bwLink l dir n).mgmt = s.mgmt := rfl
@[simp] theorem State.bwLink_tbtime (s : State) (l dir n : Nat) : (s.bwLink l dir n).tbtime = s.tbtime := rfl
@[simp] theorem State.bwLink_pending (s : State) (l dir n : Nat) : (s.bwLink l dir n).pending = s.pending := rfl
@[simp] theorem State.bwLink_tly_sel (s : State) (l dir n : Nat) : (s.bwLink l dir n).tly.sel = s.tly.sel := rfl
@[simp] theorem State.bwLink_tly_cnt (s : State) (l dir n : Nat) : (s.bwLink l dir n).tly.cnt = s.tly.cnt := rfl
@[simp] theorem State.bwLink_tly_sh (s : State) (l dir n : Nat) : (s.bwLink l dir n).tly.sh = s.tly.sh := rfl
@[simp] theorem State.bwLink_tly_ovf (s : State) (l dir n : Nat) : (s.bwLink l dir n).tly.ovf = s.tly.ovf := rfl
@[simp] theorem State.bwLink_tly_groups (s : State) (l dir n : Nat) : (s.bwLink l dir n).tly.groups = s.tly.groups := rfl
@[simp] theorem State.bwLink_tly_bw (s : State) (l dir n : Nat) : (s.bwLink l dir n).tly.bw = s.tly.bw := rfl
@[simp] theorem State.bwLink_tly_dump (s : State) (l dir n : Nat) : (s.bwLink l dir n).tly.dump = s.tly.dump := rfl
@[simp] theorem State.bwLink_tly_dev (s : State) (l dir n : Nat) : (s.bwLink l dir n).tly.dev = s.tly.dev := rfl
@[simp] theorem State.bwLink_tly_dEn (s : State) (l dir n : Nat) : (s.bwLink l dir n).tly.dEn = s.tly.dEn := rfl
@[simp] theorem State.bwLink_tly_logn (s : State) (l dir n : Nat) : (s.bwLink l dir n).tly.logn = s.tly.logn := rfl
@[simp] theorem State.bwLink_tly_period (s : State) (l dir n : Nat) : (s.bwLink l dir n).tly.period = s.tly.period := rfl
@[simp] theorem State.bwLink_tly_dva (s : State) (l dir n : Nat) : (s.bwLink l dir n).tly.dva = s.tly.dva := rfl
@[simp] theorem State.bwLink_tly_seq (s : State) (l dir n : Nat) : (s.bwLink l dir n).tly.seq = s.tly.seq := rfl
@[simp] theorem State.bwLink_tly_lost (s : State) (l dir n : Nat) : (s.bwLink l dir n).tly.lost = s.tly.lost := rfl
@[simp] theorem State.bwLink_tly_code (s : State) (l dir n : Nat) : (s.bwLink l dir n).tly.code = s.tly.code := rfl
@[simp] theorem State.bwLink_tly_writing (s : State) (l dir n : Nat) : (s.bwLink l dir n).tly.writing = s.tly.writing := rfl

/-! #### tick -/

@[simp] theorem State.tick_variant (s : State) : (s.tick).variant = s.variant := rfl
@[simp] theorem State.tick_straps (s : State) : (s.tick).straps = s.straps := rfl
@[simp] theorem State.tick_pkg (s : State) : (s.tick).pkg = s.pkg := rfl
@[simp] theorem State.tick_mem (s : State) : (s.tick).mem = s.mem := rfl
@[simp] theorem State.tick_wsBad (s : State) : (s.tick).wsBad = s.wsBad := rfl
@[simp] theorem State.tick_wsSoft (s : State) : (s.tick).wsSoft = s.wsSoft := rfl
@[simp] theorem State.tick_hmem0 (s : State) : (s.tick).hmem0 = s.hmem0 := rfl
@[simp] theorem State.tick_hmem1 (s : State) : (s.tick).hmem1 = s.hmem1 := rfl
@[simp] theorem State.tick_cores (s : State) : (s.tick).cores = s.cores := rfl
@[simp] theorem State.tick_hbms (s : State) : (s.tick).hbms = s.hbms := rfl
@[simp] theorem State.tick_lpp (s : State) : (s.tick).lpp = s.lpp := rfl
@[simp] theorem State.tick_power (s : State) : (s.tick).power = s.power := rfl
@[simp] theorem State.tick_agg (s : State) : (s.tick).agg = s.agg := rfl
@[simp] theorem State.tick_host (s : State) : (s.tick).host = s.host := rfl
@[simp] theorem State.tick_ingest (s : State) : (s.tick).ingest = s.ingest := rfl
@[simp] theorem State.tick_net (s : State) : (s.tick).net = s.net := rfl
@[simp] theorem State.tick_ce0 (s : State) : (s.tick).ce0 = s.ce0 := rfl
@[simp] theorem State.tick_ce1 (s : State) : (s.tick).ce1 = s.ce1 := rfl
@[simp] theorem State.tick_decodes (s : State) : (s.tick).decodes = s.decodes := rfl
@[simp] theorem State.tick_boot (s : State) : (s.tick).boot = s.boot := rfl
@[simp] theorem State.tick_sec (s : State) : (s.tick).sec = s.sec := rfl
@[simp] theorem State.tick_tly (s : State) : (s.tick).tly = s.tly := rfl
@[simp] theorem State.tick_cvs (s : State) : (s.tick).cvs = s.cvs := rfl
@[simp] theorem State.tick_mgmt (s : State) : (s.tick).mgmt = s.mgmt := rfl
@[simp] theorem State.tick_tbtime (s : State) : (s.tick).tbtime = s.tbtime := rfl
@[simp] theorem State.tick_pending (s : State) : (s.tick).pending = s.pending := rfl

/-! #### setTly -/

@[simp] theorem State.setTly_variant (s : State) (t : Tly) : (s.setTly t).variant = s.variant := rfl
@[simp] theorem State.setTly_straps (s : State) (t : Tly) : (s.setTly t).straps = s.straps := rfl
@[simp] theorem State.setTly_pkg (s : State) (t : Tly) : (s.setTly t).pkg = s.pkg := rfl
@[simp] theorem State.setTly_mem (s : State) (t : Tly) : (s.setTly t).mem = s.mem := rfl
@[simp] theorem State.setTly_wsBad (s : State) (t : Tly) : (s.setTly t).wsBad = s.wsBad := rfl
@[simp] theorem State.setTly_wsSoft (s : State) (t : Tly) : (s.setTly t).wsSoft = s.wsSoft := rfl
@[simp] theorem State.setTly_hmem0 (s : State) (t : Tly) : (s.setTly t).hmem0 = s.hmem0 := rfl
@[simp] theorem State.setTly_hmem1 (s : State) (t : Tly) : (s.setTly t).hmem1 = s.hmem1 := rfl
@[simp] theorem State.setTly_free (s : State) (t : Tly) : (s.setTly t).free = s.free := rfl
@[simp] theorem State.setTly_cores (s : State) (t : Tly) : (s.setTly t).cores = s.cores := rfl
@[simp] theorem State.setTly_hbms (s : State) (t : Tly) : (s.setTly t).hbms = s.hbms := rfl
@[simp] theorem State.setTly_lpp (s : State) (t : Tly) : (s.setTly t).lpp = s.lpp := rfl
@[simp] theorem State.setTly_power (s : State) (t : Tly) : (s.setTly t).power = s.power := rfl
@[simp] theorem State.setTly_agg (s : State) (t : Tly) : (s.setTly t).agg = s.agg := rfl
@[simp] theorem State.setTly_host (s : State) (t : Tly) : (s.setTly t).host = s.host := rfl
@[simp] theorem State.setTly_ingest (s : State) (t : Tly) : (s.setTly t).ingest = s.ingest := rfl
@[simp] theorem State.setTly_net (s : State) (t : Tly) : (s.setTly t).net = s.net := rfl
@[simp] theorem State.setTly_ce0 (s : State) (t : Tly) : (s.setTly t).ce0 = s.ce0 := rfl
@[simp] theorem State.setTly_ce1 (s : State) (t : Tly) : (s.setTly t).ce1 = s.ce1 := rfl
@[simp] theorem State.setTly_decodes (s : State) (t : Tly) : (s.setTly t).decodes = s.decodes := rfl
@[simp] theorem State.setTly_boot (s : State) (t : Tly) : (s.setTly t).boot = s.boot := rfl
@[simp] theorem State.setTly_sec (s : State) (t : Tly) : (s.setTly t).sec = s.sec := rfl
@[simp] theorem State.setTly_cvs (s : State) (t : Tly) : (s.setTly t).cvs = s.cvs := rfl
@[simp] theorem State.setTly_mgmt (s : State) (t : Tly) : (s.setTly t).mgmt = s.mgmt := rfl
@[simp] theorem State.setTly_tbtime (s : State) (t : Tly) : (s.setTly t).tbtime = s.tbtime := rfl
@[simp] theorem State.setTly_pending (s : State) (t : Tly) : (s.setTly t).pending = s.pending := rfl

/-! #### setCv -/

@[simp] theorem State.setCv_variant (s : State) (k : Nat) (x : CvChan) : (s.setCv k x).variant = s.variant := rfl
@[simp] theorem State.setCv_straps (s : State) (k : Nat) (x : CvChan) : (s.setCv k x).straps = s.straps := rfl
@[simp] theorem State.setCv_pkg (s : State) (k : Nat) (x : CvChan) : (s.setCv k x).pkg = s.pkg := rfl
@[simp] theorem State.setCv_mem (s : State) (k : Nat) (x : CvChan) : (s.setCv k x).mem = s.mem := rfl
@[simp] theorem State.setCv_wsBad (s : State) (k : Nat) (x : CvChan) : (s.setCv k x).wsBad = s.wsBad := rfl
@[simp] theorem State.setCv_wsSoft (s : State) (k : Nat) (x : CvChan) : (s.setCv k x).wsSoft = s.wsSoft := rfl
@[simp] theorem State.setCv_hmem0 (s : State) (k : Nat) (x : CvChan) : (s.setCv k x).hmem0 = s.hmem0 := rfl
@[simp] theorem State.setCv_hmem1 (s : State) (k : Nat) (x : CvChan) : (s.setCv k x).hmem1 = s.hmem1 := rfl
@[simp] theorem State.setCv_free (s : State) (k : Nat) (x : CvChan) : (s.setCv k x).free = s.free := rfl
@[simp] theorem State.setCv_cores (s : State) (k : Nat) (x : CvChan) : (s.setCv k x).cores = s.cores := rfl
@[simp] theorem State.setCv_hbms (s : State) (k : Nat) (x : CvChan) : (s.setCv k x).hbms = s.hbms := rfl
@[simp] theorem State.setCv_lpp (s : State) (k : Nat) (x : CvChan) : (s.setCv k x).lpp = s.lpp := rfl
@[simp] theorem State.setCv_power (s : State) (k : Nat) (x : CvChan) : (s.setCv k x).power = s.power := rfl
@[simp] theorem State.setCv_agg (s : State) (k : Nat) (x : CvChan) : (s.setCv k x).agg = s.agg := rfl
@[simp] theorem State.setCv_host (s : State) (k : Nat) (x : CvChan) : (s.setCv k x).host = s.host := rfl
@[simp] theorem State.setCv_ingest (s : State) (k : Nat) (x : CvChan) : (s.setCv k x).ingest = s.ingest := rfl
@[simp] theorem State.setCv_net (s : State) (k : Nat) (x : CvChan) : (s.setCv k x).net = s.net := rfl
@[simp] theorem State.setCv_ce0 (s : State) (k : Nat) (x : CvChan) : (s.setCv k x).ce0 = s.ce0 := rfl
@[simp] theorem State.setCv_ce1 (s : State) (k : Nat) (x : CvChan) : (s.setCv k x).ce1 = s.ce1 := rfl
@[simp] theorem State.setCv_decodes (s : State) (k : Nat) (x : CvChan) : (s.setCv k x).decodes = s.decodes := rfl
@[simp] theorem State.setCv_boot (s : State) (k : Nat) (x : CvChan) : (s.setCv k x).boot = s.boot := rfl
@[simp] theorem State.setCv_sec (s : State) (k : Nat) (x : CvChan) : (s.setCv k x).sec = s.sec := rfl
@[simp] theorem State.setCv_tly (s : State) (k : Nat) (x : CvChan) : (s.setCv k x).tly = s.tly := rfl
@[simp] theorem State.setCv_mgmt (s : State) (k : Nat) (x : CvChan) : (s.setCv k x).mgmt = s.mgmt := rfl
@[simp] theorem State.setCv_tbtime (s : State) (k : Nat) (x : CvChan) : (s.setCv k x).tbtime = s.tbtime := rfl
@[simp] theorem State.setCv_pending (s : State) (k : Nat) (x : CvChan) : (s.setCv k x).pending = s.pending := rfl

/-! #### modCv -/

@[simp] theorem State.modCv_variant (s : State) (k : Nat) (f : CvChan → CvChan) : (s.modCv k f).variant = s.variant := rfl
@[simp] theorem State.modCv_straps (s : State) (k : Nat) (f : CvChan → CvChan) : (s.modCv k f).straps = s.straps := rfl
@[simp] theorem State.modCv_pkg (s : State) (k : Nat) (f : CvChan → CvChan) : (s.modCv k f).pkg = s.pkg := rfl
@[simp] theorem State.modCv_mem (s : State) (k : Nat) (f : CvChan → CvChan) : (s.modCv k f).mem = s.mem := rfl
@[simp] theorem State.modCv_wsBad (s : State) (k : Nat) (f : CvChan → CvChan) : (s.modCv k f).wsBad = s.wsBad := rfl
@[simp] theorem State.modCv_wsSoft (s : State) (k : Nat) (f : CvChan → CvChan) : (s.modCv k f).wsSoft = s.wsSoft := rfl
@[simp] theorem State.modCv_hmem0 (s : State) (k : Nat) (f : CvChan → CvChan) : (s.modCv k f).hmem0 = s.hmem0 := rfl
@[simp] theorem State.modCv_hmem1 (s : State) (k : Nat) (f : CvChan → CvChan) : (s.modCv k f).hmem1 = s.hmem1 := rfl
@[simp] theorem State.modCv_free (s : State) (k : Nat) (f : CvChan → CvChan) : (s.modCv k f).free = s.free := rfl
@[simp] theorem State.modCv_cores (s : State) (k : Nat) (f : CvChan → CvChan) : (s.modCv k f).cores = s.cores := rfl
@[simp] theorem State.modCv_hbms (s : State) (k : Nat) (f : CvChan → CvChan) : (s.modCv k f).hbms = s.hbms := rfl
@[simp] theorem State.modCv_lpp (s : State) (k : Nat) (f : CvChan → CvChan) : (s.modCv k f).lpp = s.lpp := rfl
@[simp] theorem State.modCv_power (s : State) (k : Nat) (f : CvChan → CvChan) : (s.modCv k f).power = s.power := rfl
@[simp] theorem State.modCv_agg (s : State) (k : Nat) (f : CvChan → CvChan) : (s.modCv k f).agg = s.agg := rfl
@[simp] theorem State.modCv_host (s : State) (k : Nat) (f : CvChan → CvChan) : (s.modCv k f).host = s.host := rfl
@[simp] theorem State.modCv_ingest (s : State) (k : Nat) (f : CvChan → CvChan) : (s.modCv k f).ingest = s.ingest := rfl
@[simp] theorem State.modCv_net (s : State) (k : Nat) (f : CvChan → CvChan) : (s.modCv k f).net = s.net := rfl
@[simp] theorem State.modCv_ce0 (s : State) (k : Nat) (f : CvChan → CvChan) : (s.modCv k f).ce0 = s.ce0 := rfl
@[simp] theorem State.modCv_ce1 (s : State) (k : Nat) (f : CvChan → CvChan) : (s.modCv k f).ce1 = s.ce1 := rfl
@[simp] theorem State.modCv_decodes (s : State) (k : Nat) (f : CvChan → CvChan) : (s.modCv k f).decodes = s.decodes := rfl
@[simp] theorem State.modCv_boot (s : State) (k : Nat) (f : CvChan → CvChan) : (s.modCv k f).boot = s.boot := rfl
@[simp] theorem State.modCv_sec (s : State) (k : Nat) (f : CvChan → CvChan) : (s.modCv k f).sec = s.sec := rfl
@[simp] theorem State.modCv_tly (s : State) (k : Nat) (f : CvChan → CvChan) : (s.modCv k f).tly = s.tly := rfl
@[simp] theorem State.modCv_mgmt (s : State) (k : Nat) (f : CvChan → CvChan) : (s.modCv k f).mgmt = s.mgmt := rfl
@[simp] theorem State.modCv_tbtime (s : State) (k : Nat) (f : CvChan → CvChan) : (s.modCv k f).tbtime = s.tbtime := rfl
@[simp] theorem State.modCv_pending (s : State) (k : Nat) (f : CvChan → CvChan) : (s.modCv k f).pending = s.pending := rfl

/-! #### setSec -/

@[simp] theorem State.setSec_variant (s : State) (x : Sec) : (s.setSec x).variant = s.variant := rfl
@[simp] theorem State.setSec_straps (s : State) (x : Sec) : (s.setSec x).straps = s.straps := rfl
@[simp] theorem State.setSec_pkg (s : State) (x : Sec) : (s.setSec x).pkg = s.pkg := rfl
@[simp] theorem State.setSec_mem (s : State) (x : Sec) : (s.setSec x).mem = s.mem := rfl
@[simp] theorem State.setSec_wsBad (s : State) (x : Sec) : (s.setSec x).wsBad = s.wsBad := rfl
@[simp] theorem State.setSec_wsSoft (s : State) (x : Sec) : (s.setSec x).wsSoft = s.wsSoft := rfl
@[simp] theorem State.setSec_hmem0 (s : State) (x : Sec) : (s.setSec x).hmem0 = s.hmem0 := rfl
@[simp] theorem State.setSec_hmem1 (s : State) (x : Sec) : (s.setSec x).hmem1 = s.hmem1 := rfl
@[simp] theorem State.setSec_free (s : State) (x : Sec) : (s.setSec x).free = s.free := rfl
@[simp] theorem State.setSec_cores (s : State) (x : Sec) : (s.setSec x).cores = s.cores := rfl
@[simp] theorem State.setSec_hbms (s : State) (x : Sec) : (s.setSec x).hbms = s.hbms := rfl
@[simp] theorem State.setSec_lpp (s : State) (x : Sec) : (s.setSec x).lpp = s.lpp := rfl
@[simp] theorem State.setSec_power (s : State) (x : Sec) : (s.setSec x).power = s.power := rfl
@[simp] theorem State.setSec_agg (s : State) (x : Sec) : (s.setSec x).agg = s.agg := rfl
@[simp] theorem State.setSec_host (s : State) (x : Sec) : (s.setSec x).host = s.host := rfl
@[simp] theorem State.setSec_ingest (s : State) (x : Sec) : (s.setSec x).ingest = s.ingest := rfl
@[simp] theorem State.setSec_net (s : State) (x : Sec) : (s.setSec x).net = s.net := rfl
@[simp] theorem State.setSec_ce0 (s : State) (x : Sec) : (s.setSec x).ce0 = s.ce0 := rfl
@[simp] theorem State.setSec_ce1 (s : State) (x : Sec) : (s.setSec x).ce1 = s.ce1 := rfl
@[simp] theorem State.setSec_decodes (s : State) (x : Sec) : (s.setSec x).decodes = s.decodes := rfl
@[simp] theorem State.setSec_boot (s : State) (x : Sec) : (s.setSec x).boot = s.boot := rfl
@[simp] theorem State.setSec_tly (s : State) (x : Sec) : (s.setSec x).tly = s.tly := rfl
@[simp] theorem State.setSec_cvs (s : State) (x : Sec) : (s.setSec x).cvs = s.cvs := rfl
@[simp] theorem State.setSec_mgmt (s : State) (x : Sec) : (s.setSec x).mgmt = s.mgmt := rfl
@[simp] theorem State.setSec_tbtime (s : State) (x : Sec) : (s.setSec x).tbtime = s.tbtime := rfl
@[simp] theorem State.setSec_pending (s : State) (x : Sec) : (s.setSec x).pending = s.pending := rfl

/-! #### setBoot -/

@[simp] theorem State.setBoot_variant (s : State) (b : Boot) : (s.setBoot b).variant = s.variant := rfl
@[simp] theorem State.setBoot_straps (s : State) (b : Boot) : (s.setBoot b).straps = s.straps := rfl
@[simp] theorem State.setBoot_pkg (s : State) (b : Boot) : (s.setBoot b).pkg = s.pkg := rfl
@[simp] theorem State.setBoot_mem (s : State) (b : Boot) : (s.setBoot b).mem = s.mem := rfl
@[simp] theorem State.setBoot_wsBad (s : State) (b : Boot) : (s.setBoot b).wsBad = s.wsBad := rfl
@[simp] theorem State.setBoot_wsSoft (s : State) (b : Boot) : (s.setBoot b).wsSoft = s.wsSoft := rfl
@[simp] theorem State.setBoot_hmem0 (s : State) (b : Boot) : (s.setBoot b).hmem0 = s.hmem0 := rfl
@[simp] theorem State.setBoot_hmem1 (s : State) (b : Boot) : (s.setBoot b).hmem1 = s.hmem1 := rfl
@[simp] theorem State.setBoot_free (s : State) (b : Boot) : (s.setBoot b).free = s.free := rfl
@[simp] theorem State.setBoot_cores (s : State) (b : Boot) : (s.setBoot b).cores = s.cores := rfl
@[simp] theorem State.setBoot_hbms (s : State) (b : Boot) : (s.setBoot b).hbms = s.hbms := rfl
@[simp] theorem State.setBoot_lpp (s : State) (b : Boot) : (s.setBoot b).lpp = s.lpp := rfl
@[simp] theorem State.setBoot_power (s : State) (b : Boot) : (s.setBoot b).power = s.power := rfl
@[simp] theorem State.setBoot_agg (s : State) (b : Boot) : (s.setBoot b).agg = s.agg := rfl
@[simp] theorem State.setBoot_host (s : State) (b : Boot) : (s.setBoot b).host = s.host := rfl
@[simp] theorem State.setBoot_ingest (s : State) (b : Boot) : (s.setBoot b).ingest = s.ingest := rfl
@[simp] theorem State.setBoot_net (s : State) (b : Boot) : (s.setBoot b).net = s.net := rfl
@[simp] theorem State.setBoot_ce0 (s : State) (b : Boot) : (s.setBoot b).ce0 = s.ce0 := rfl
@[simp] theorem State.setBoot_ce1 (s : State) (b : Boot) : (s.setBoot b).ce1 = s.ce1 := rfl
@[simp] theorem State.setBoot_decodes (s : State) (b : Boot) : (s.setBoot b).decodes = s.decodes := rfl
@[simp] theorem State.setBoot_sec (s : State) (b : Boot) : (s.setBoot b).sec = s.sec := rfl
@[simp] theorem State.setBoot_tly (s : State) (b : Boot) : (s.setBoot b).tly = s.tly := rfl
@[simp] theorem State.setBoot_cvs (s : State) (b : Boot) : (s.setBoot b).cvs = s.cvs := rfl
@[simp] theorem State.setBoot_mgmt (s : State) (b : Boot) : (s.setBoot b).mgmt = s.mgmt := rfl
@[simp] theorem State.setBoot_tbtime (s : State) (b : Boot) : (s.setBoot b).tbtime = s.tbtime := rfl
@[simp] theorem State.setBoot_pending (s : State) (b : Boot) : (s.setBoot b).pending = s.pending := rfl

/-! #### setDie -/

@[simp] theorem State.setDie_variant (s : State) (d : Nat) (x : DieState) : (s.setDie d x).variant = s.variant := rfl
@[simp] theorem State.setDie_straps (s : State) (d : Nat) (x : DieState) : (s.setDie d x).straps = s.straps := rfl
@[simp] theorem State.setDie_pkg (s : State) (d : Nat) (x : DieState) : (s.setDie d x).pkg = s.pkg := rfl
@[simp] theorem State.setDie_mem (s : State) (d : Nat) (x : DieState) : (s.setDie d x).mem = s.mem := rfl
@[simp] theorem State.setDie_wsBad (s : State) (d : Nat) (x : DieState) : (s.setDie d x).wsBad = s.wsBad := rfl
@[simp] theorem State.setDie_wsSoft (s : State) (d : Nat) (x : DieState) : (s.setDie d x).wsSoft = s.wsSoft := rfl
@[simp] theorem State.setDie_hmem0 (s : State) (d : Nat) (x : DieState) : (s.setDie d x).hmem0 = s.hmem0 := rfl
@[simp] theorem State.setDie_hmem1 (s : State) (d : Nat) (x : DieState) : (s.setDie d x).hmem1 = s.hmem1 := rfl
@[simp] theorem State.setDie_free (s : State) (d : Nat) (x : DieState) : (s.setDie d x).free = s.free := rfl
@[simp] theorem State.setDie_cores (s : State) (d : Nat) (x : DieState) : (s.setDie d x).cores = s.cores := rfl
@[simp] theorem State.setDie_hbms (s : State) (d : Nat) (x : DieState) : (s.setDie d x).hbms = s.hbms := rfl
@[simp] theorem State.setDie_lpp (s : State) (d : Nat) (x : DieState) : (s.setDie d x).lpp = s.lpp := rfl
@[simp] theorem State.setDie_agg (s : State) (d : Nat) (x : DieState) : (s.setDie d x).agg = s.agg := rfl
@[simp] theorem State.setDie_host (s : State) (d : Nat) (x : DieState) : (s.setDie d x).host = s.host := rfl
@[simp] theorem State.setDie_ingest (s : State) (d : Nat) (x : DieState) : (s.setDie d x).ingest = s.ingest := rfl
@[simp] theorem State.setDie_net (s : State) (d : Nat) (x : DieState) : (s.setDie d x).net = s.net := rfl
@[simp] theorem State.setDie_ce0 (s : State) (d : Nat) (x : DieState) : (s.setDie d x).ce0 = s.ce0 := rfl
@[simp] theorem State.setDie_ce1 (s : State) (d : Nat) (x : DieState) : (s.setDie d x).ce1 = s.ce1 := rfl
@[simp] theorem State.setDie_decodes (s : State) (d : Nat) (x : DieState) : (s.setDie d x).decodes = s.decodes := rfl
@[simp] theorem State.setDie_boot (s : State) (d : Nat) (x : DieState) : (s.setDie d x).boot = s.boot := rfl
@[simp] theorem State.setDie_sec (s : State) (d : Nat) (x : DieState) : (s.setDie d x).sec = s.sec := rfl
@[simp] theorem State.setDie_tly (s : State) (d : Nat) (x : DieState) : (s.setDie d x).tly = s.tly := rfl
@[simp] theorem State.setDie_cvs (s : State) (d : Nat) (x : DieState) : (s.setDie d x).cvs = s.cvs := rfl
@[simp] theorem State.setDie_mgmt (s : State) (d : Nat) (x : DieState) : (s.setDie d x).mgmt = s.mgmt := rfl
@[simp] theorem State.setDie_tbtime (s : State) (d : Nat) (x : DieState) : (s.setDie d x).tbtime = s.tbtime := rfl
@[simp] theorem State.setDie_pending (s : State) (d : Nat) (x : DieState) : (s.setDie d x).pending = s.pending := rfl
@[simp] theorem State.setDie_power_stopped (s : State) (d : Nat) (x : DieState) : (s.setDie d x).power.stopped = s.power.stopped := rfl
@[simp] theorem State.setDie_power_lgLock (s : State) (d : Nat) (x : DieState) : (s.setDie d x).power.lgLock = s.power.lgLock := rfl
@[simp] theorem State.setDie_power_base (s : State) (d : Nat) (x : DieState) : (s.setDie d x).power.base = s.power.base := rfl
@[simp] theorem State.setDie_power_limit (s : State) (d : Nat) (x : DieState) : (s.setDie d x).power.limit = s.power.limit := rfl
@[simp] theorem State.setDie_power_waiting (s : State) (d : Nat) (x : DieState) : (s.setDie d x).power.waiting = s.power.waiting := rfl
@[simp] theorem State.setDie_power_grants (s : State) (d : Nat) (x : DieState) : (s.setDie d x).power.grants = s.power.grants := rfl
@[simp] theorem State.setDie_power_dieLim (s : State) (d : Nat) (x : DieState) : (s.setDie d x).power.dieLim = s.power.dieLim := rfl
@[simp] theorem State.setDie_power_ctxLim (s : State) (d : Nat) (x : DieState) : (s.setDie d x).power.ctxLim = s.power.ctxLim := rfl
@[simp] theorem State.setDie_power_dtemp (s : State) (d : Nat) (x : DieState) : (s.setDie d x).power.dtemp = s.power.dtemp := rfl
@[simp] theorem State.setDie_power_thLock (s : State) (d : Nat) (x : DieState) : (s.setDie d x).power.thLock = s.power.thLock := rfl
@[simp] theorem State.setDie_power_hyst (s : State) (d : Nat) (x : DieState) : (s.setDie d x).power.hyst = s.power.hyst := rfl
@[simp] theorem State.setDie_power_crit (s : State) (d : Nat) (x : DieState) : (s.setDie d x).power.crit = s.power.crit := rfl
@[simp] theorem State.setDie_power_hot (s : State) (d : Nat) (x : DieState) : (s.setDie d x).power.hot = s.power.hot := rfl
@[simp] theorem State.setDie_power_warm (s : State) (d : Nat) (x : DieState) : (s.setDie d x).power.warm = s.power.warm := rfl
@[simp] theorem State.setDie_power_parks (s : State) (d : Nat) (x : DieState) : (s.setDie d x).power.parks = s.power.parks := rfl
@[simp] theorem State.setDie_power_clkSys (s : State) (d : Nat) (x : DieState) : (s.setDie d x).power.clkSys = s.power.clkSys := rfl
@[simp] theorem State.setDie_power_clkL0 (s : State) (d : Nat) (x : DieState) : (s.setDie d x).power.clkL0 = s.power.clkL0 := rfl
@[simp] theorem State.setDie_power_clkL1 (s : State) (d : Nat) (x : DieState) : (s.setDie d x).power.clkL1 = s.power.clkL1 := rfl
@[simp] theorem State.setDie_power_clkP0 (s : State) (d : Nat) (x : DieState) : (s.setDie d x).power.clkP0 = s.power.clkP0 := rfl
@[simp] theorem State.setDie_power_clkP1 (s : State) (d : Nat) (x : DieState) : (s.setDie d x).power.clkP1 = s.power.clkP1 := rfl

/-! #### setParks -/

@[simp] theorem State.setParks_variant (s : State) (d : Nat) (l : List ParkOp) : (s.setParks d l).variant = s.variant := rfl
@[simp] theorem State.setParks_straps (s : State) (d : Nat) (l : List ParkOp) : (s.setParks d l).straps = s.straps := rfl
@[simp] theorem State.setParks_pkg (s : State) (d : Nat) (l : List ParkOp) : (s.setParks d l).pkg = s.pkg := rfl
@[simp] theorem State.setParks_mem (s : State) (d : Nat) (l : List ParkOp) : (s.setParks d l).mem = s.mem := rfl
@[simp] theorem State.setParks_wsBad (s : State) (d : Nat) (l : List ParkOp) : (s.setParks d l).wsBad = s.wsBad := rfl
@[simp] theorem State.setParks_wsSoft (s : State) (d : Nat) (l : List ParkOp) : (s.setParks d l).wsSoft = s.wsSoft := rfl
@[simp] theorem State.setParks_hmem0 (s : State) (d : Nat) (l : List ParkOp) : (s.setParks d l).hmem0 = s.hmem0 := rfl
@[simp] theorem State.setParks_hmem1 (s : State) (d : Nat) (l : List ParkOp) : (s.setParks d l).hmem1 = s.hmem1 := rfl
@[simp] theorem State.setParks_free (s : State) (d : Nat) (l : List ParkOp) : (s.setParks d l).free = s.free := rfl
@[simp] theorem State.setParks_cores (s : State) (d : Nat) (l : List ParkOp) : (s.setParks d l).cores = s.cores := rfl
@[simp] theorem State.setParks_hbms (s : State) (d : Nat) (l : List ParkOp) : (s.setParks d l).hbms = s.hbms := rfl
@[simp] theorem State.setParks_lpp (s : State) (d : Nat) (l : List ParkOp) : (s.setParks d l).lpp = s.lpp := rfl
@[simp] theorem State.setParks_agg (s : State) (d : Nat) (l : List ParkOp) : (s.setParks d l).agg = s.agg := rfl
@[simp] theorem State.setParks_host (s : State) (d : Nat) (l : List ParkOp) : (s.setParks d l).host = s.host := rfl
@[simp] theorem State.setParks_ingest (s : State) (d : Nat) (l : List ParkOp) : (s.setParks d l).ingest = s.ingest := rfl
@[simp] theorem State.setParks_net (s : State) (d : Nat) (l : List ParkOp) : (s.setParks d l).net = s.net := rfl
@[simp] theorem State.setParks_ce0 (s : State) (d : Nat) (l : List ParkOp) : (s.setParks d l).ce0 = s.ce0 := rfl
@[simp] theorem State.setParks_ce1 (s : State) (d : Nat) (l : List ParkOp) : (s.setParks d l).ce1 = s.ce1 := rfl
@[simp] theorem State.setParks_decodes (s : State) (d : Nat) (l : List ParkOp) : (s.setParks d l).decodes = s.decodes := rfl
@[simp] theorem State.setParks_boot (s : State) (d : Nat) (l : List ParkOp) : (s.setParks d l).boot = s.boot := rfl
@[simp] theorem State.setParks_sec (s : State) (d : Nat) (l : List ParkOp) : (s.setParks d l).sec = s.sec := rfl
@[simp] theorem State.setParks_tly (s : State) (d : Nat) (l : List ParkOp) : (s.setParks d l).tly = s.tly := rfl
@[simp] theorem State.setParks_cvs (s : State) (d : Nat) (l : List ParkOp) : (s.setParks d l).cvs = s.cvs := rfl
@[simp] theorem State.setParks_mgmt (s : State) (d : Nat) (l : List ParkOp) : (s.setParks d l).mgmt = s.mgmt := rfl
@[simp] theorem State.setParks_tbtime (s : State) (d : Nat) (l : List ParkOp) : (s.setParks d l).tbtime = s.tbtime := rfl
@[simp] theorem State.setParks_pending (s : State) (d : Nat) (l : List ParkOp) : (s.setParks d l).pending = s.pending := rfl
@[simp] theorem State.setParks_power_stopped (s : State) (d : Nat) (l : List ParkOp) : (s.setParks d l).power.stopped = s.power.stopped := rfl
@[simp] theorem State.setParks_power_lgLock (s : State) (d : Nat) (l : List ParkOp) : (s.setParks d l).power.lgLock = s.power.lgLock := rfl
@[simp] theorem State.setParks_power_base (s : State) (d : Nat) (l : List ParkOp) : (s.setParks d l).power.base = s.power.base := rfl
@[simp] theorem State.setParks_power_limit (s : State) (d : Nat) (l : List ParkOp) : (s.setParks d l).power.limit = s.power.limit := rfl
@[simp] theorem State.setParks_power_waiting (s : State) (d : Nat) (l : List ParkOp) : (s.setParks d l).power.waiting = s.power.waiting := rfl
@[simp] theorem State.setParks_power_grants (s : State) (d : Nat) (l : List ParkOp) : (s.setParks d l).power.grants = s.power.grants := rfl
@[simp] theorem State.setParks_power_dieLim (s : State) (d : Nat) (l : List ParkOp) : (s.setParks d l).power.dieLim = s.power.dieLim := rfl
@[simp] theorem State.setParks_power_ctxLim (s : State) (d : Nat) (l : List ParkOp) : (s.setParks d l).power.ctxLim = s.power.ctxLim := rfl
@[simp] theorem State.setParks_power_dtemp (s : State) (d : Nat) (l : List ParkOp) : (s.setParks d l).power.dtemp = s.power.dtemp := rfl
@[simp] theorem State.setParks_power_thLock (s : State) (d : Nat) (l : List ParkOp) : (s.setParks d l).power.thLock = s.power.thLock := rfl
@[simp] theorem State.setParks_power_hyst (s : State) (d : Nat) (l : List ParkOp) : (s.setParks d l).power.hyst = s.power.hyst := rfl
@[simp] theorem State.setParks_power_crit (s : State) (d : Nat) (l : List ParkOp) : (s.setParks d l).power.crit = s.power.crit := rfl
@[simp] theorem State.setParks_power_hot (s : State) (d : Nat) (l : List ParkOp) : (s.setParks d l).power.hot = s.power.hot := rfl
@[simp] theorem State.setParks_power_warm (s : State) (d : Nat) (l : List ParkOp) : (s.setParks d l).power.warm = s.power.warm := rfl
@[simp] theorem State.setParks_power_die (s : State) (d : Nat) (l : List ParkOp) : (s.setParks d l).power.die = s.power.die := rfl
@[simp] theorem State.setParks_power_clkSys (s : State) (d : Nat) (l : List ParkOp) : (s.setParks d l).power.clkSys = s.power.clkSys := rfl
@[simp] theorem State.setParks_power_clkL0 (s : State) (d : Nat) (l : List ParkOp) : (s.setParks d l).power.clkL0 = s.power.clkL0 := rfl
@[simp] theorem State.setParks_power_clkL1 (s : State) (d : Nat) (l : List ParkOp) : (s.setParks d l).power.clkL1 = s.power.clkL1 := rfl
@[simp] theorem State.setParks_power_clkP0 (s : State) (d : Nat) (l : List ParkOp) : (s.setParks d l).power.clkP0 = s.power.clkP0 := rfl
@[simp] theorem State.setParks_power_clkP1 (s : State) (d : Nat) (l : List ParkOp) : (s.setParks d l).power.clkP1 = s.power.clkP1 := rfl

/-! #### setStEntry -/

@[simp] theorem State.setStEntry_variant (s : State) (n : Nat) (e : StEntry) : (s.setStEntry n e).variant = s.variant := rfl
@[simp] theorem State.setStEntry_straps (s : State) (n : Nat) (e : StEntry) : (s.setStEntry n e).straps = s.straps := rfl
@[simp] theorem State.setStEntry_pkg (s : State) (n : Nat) (e : StEntry) : (s.setStEntry n e).pkg = s.pkg := rfl
@[simp] theorem State.setStEntry_mem (s : State) (n : Nat) (e : StEntry) : (s.setStEntry n e).mem = s.mem := rfl
@[simp] theorem State.setStEntry_wsBad (s : State) (n : Nat) (e : StEntry) : (s.setStEntry n e).wsBad = s.wsBad := rfl
@[simp] theorem State.setStEntry_wsSoft (s : State) (n : Nat) (e : StEntry) : (s.setStEntry n e).wsSoft = s.wsSoft := rfl
@[simp] theorem State.setStEntry_hmem0 (s : State) (n : Nat) (e : StEntry) : (s.setStEntry n e).hmem0 = s.hmem0 := rfl
@[simp] theorem State.setStEntry_hmem1 (s : State) (n : Nat) (e : StEntry) : (s.setStEntry n e).hmem1 = s.hmem1 := rfl
@[simp] theorem State.setStEntry_free (s : State) (n : Nat) (e : StEntry) : (s.setStEntry n e).free = s.free := rfl
@[simp] theorem State.setStEntry_cores (s : State) (n : Nat) (e : StEntry) : (s.setStEntry n e).cores = s.cores := rfl
@[simp] theorem State.setStEntry_hbms (s : State) (n : Nat) (e : StEntry) : (s.setStEntry n e).hbms = s.hbms := rfl
@[simp] theorem State.setStEntry_lpp (s : State) (n : Nat) (e : StEntry) : (s.setStEntry n e).lpp = s.lpp := rfl
@[simp] theorem State.setStEntry_power (s : State) (n : Nat) (e : StEntry) : (s.setStEntry n e).power = s.power := rfl
@[simp] theorem State.setStEntry_agg (s : State) (n : Nat) (e : StEntry) : (s.setStEntry n e).agg = s.agg := rfl
@[simp] theorem State.setStEntry_host (s : State) (n : Nat) (e : StEntry) : (s.setStEntry n e).host = s.host := rfl
@[simp] theorem State.setStEntry_net (s : State) (n : Nat) (e : StEntry) : (s.setStEntry n e).net = s.net := rfl
@[simp] theorem State.setStEntry_ce0 (s : State) (n : Nat) (e : StEntry) : (s.setStEntry n e).ce0 = s.ce0 := rfl
@[simp] theorem State.setStEntry_ce1 (s : State) (n : Nat) (e : StEntry) : (s.setStEntry n e).ce1 = s.ce1 := rfl
@[simp] theorem State.setStEntry_decodes (s : State) (n : Nat) (e : StEntry) : (s.setStEntry n e).decodes = s.decodes := rfl
@[simp] theorem State.setStEntry_boot (s : State) (n : Nat) (e : StEntry) : (s.setStEntry n e).boot = s.boot := rfl
@[simp] theorem State.setStEntry_sec (s : State) (n : Nat) (e : StEntry) : (s.setStEntry n e).sec = s.sec := rfl
@[simp] theorem State.setStEntry_tly (s : State) (n : Nat) (e : StEntry) : (s.setStEntry n e).tly = s.tly := rfl
@[simp] theorem State.setStEntry_cvs (s : State) (n : Nat) (e : StEntry) : (s.setStEntry n e).cvs = s.cvs := rfl
@[simp] theorem State.setStEntry_mgmt (s : State) (n : Nat) (e : StEntry) : (s.setStEntry n e).mgmt = s.mgmt := rfl
@[simp] theorem State.setStEntry_tbtime (s : State) (n : Nat) (e : StEntry) : (s.setStEntry n e).tbtime = s.tbtime := rfl
@[simp] theorem State.setStEntry_pending (s : State) (n : Nat) (e : StEntry) : (s.setStEntry n e).pending = s.pending := rfl
@[simp] theorem State.setStEntry_ingest_dp0 (s : State) (n : Nat) (e : StEntry) : (s.setStEntry n e).ingest.dp0 = s.ingest.dp0 := rfl
@[simp] theorem State.setStEntry_ingest_dp1 (s : State) (n : Nat) (e : StEntry) : (s.setStEntry n e).ingest.dp1 = s.ingest.dp1 := rfl
@[simp] theorem State.setStEntry_ingest_q0 (s : State) (n : Nat) (e : StEntry) : (s.setStEntry n e).ingest.q0 = s.ingest.q0 := rfl
@[simp] theorem State.setStEntry_ingest_q1 (s : State) (n : Nat) (e : StEntry) : (s.setStEntry n e).ingest.q1 = s.ingest.q1 := rfl
@[simp] theorem State.setStEntry_ingest_nextId (s : State) (n : Nat) (e : StEntry) : (s.setStEntry n e).ingest.nextId = s.ingest.nextId := rfl
@[simp] theorem State.setStEntry_ingest_segs (s : State) (n : Nat) (e : StEntry) : (s.setStEntry n e).ingest.segs = s.ingest.segs := rfl
@[simp] theorem State.setStEntry_ingest_iflt0 (s : State) (n : Nat) (e : StEntry) : (s.setStEntry n e).ingest.iflt0 = s.ingest.iflt0 := rfl
@[simp] theorem State.setStEntry_ingest_iflt1 (s : State) (n : Nat) (e : StEntry) : (s.setStEntry n e).ingest.iflt1 = s.ingest.iflt1 := rfl
@[simp] theorem State.setStEntry_ingest_sttPtr (s : State) (n : Nat) (e : StEntry) : (s.setStEntry n e).ingest.sttPtr = s.ingest.sttPtr := rfl
@[simp] theorem State.setStEntry_ingest_stq (s : State) (n : Nat) (e : StEntry) : (s.setStEntry n e).ingest.stq = s.ingest.stq := rfl
@[simp] theorem State.setStEntry_ingest_sttLock (s : State) (n : Nat) (e : StEntry) : (s.setStEntry n e).ingest.sttLock = s.ingest.sttLock := rfl
@[simp] theorem State.setStEntry_ingest_sttStack (s : State) (n : Nat) (e : StEntry) : (s.setStEntry n e).ingest.sttStack = s.ingest.sttStack := rfl
@[simp] theorem State.setStEntry_ingest_sttBase (s : State) (n : Nat) (e : StEntry) : (s.setStEntry n e).ingest.sttBase = s.ingest.sttBase := rfl

/-! #### poke -/

@[simp] theorem State.poke_variant (s : State) (pa : Nat) (bs : List Byte) : (s.poke pa bs).variant = s.variant := rfl
@[simp] theorem State.poke_straps (s : State) (pa : Nat) (bs : List Byte) : (s.poke pa bs).straps = s.straps := rfl
@[simp] theorem State.poke_pkg (s : State) (pa : Nat) (bs : List Byte) : (s.poke pa bs).pkg = s.pkg := rfl
@[simp] theorem State.poke_wsBad (s : State) (pa : Nat) (bs : List Byte) : (s.poke pa bs).wsBad = s.wsBad := rfl
@[simp] theorem State.poke_wsSoft (s : State) (pa : Nat) (bs : List Byte) : (s.poke pa bs).wsSoft = s.wsSoft := rfl
@[simp] theorem State.poke_hmem0 (s : State) (pa : Nat) (bs : List Byte) : (s.poke pa bs).hmem0 = s.hmem0 := rfl
@[simp] theorem State.poke_hmem1 (s : State) (pa : Nat) (bs : List Byte) : (s.poke pa bs).hmem1 = s.hmem1 := rfl
@[simp] theorem State.poke_free (s : State) (pa : Nat) (bs : List Byte) : (s.poke pa bs).free = s.free := rfl
@[simp] theorem State.poke_cores (s : State) (pa : Nat) (bs : List Byte) : (s.poke pa bs).cores = s.cores := rfl
@[simp] theorem State.poke_hbms (s : State) (pa : Nat) (bs : List Byte) : (s.poke pa bs).hbms = s.hbms := rfl
@[simp] theorem State.poke_lpp (s : State) (pa : Nat) (bs : List Byte) : (s.poke pa bs).lpp = s.lpp := rfl
@[simp] theorem State.poke_power (s : State) (pa : Nat) (bs : List Byte) : (s.poke pa bs).power = s.power := rfl
@[simp] theorem State.poke_agg (s : State) (pa : Nat) (bs : List Byte) : (s.poke pa bs).agg = s.agg := rfl
@[simp] theorem State.poke_host (s : State) (pa : Nat) (bs : List Byte) : (s.poke pa bs).host = s.host := rfl
@[simp] theorem State.poke_ingest (s : State) (pa : Nat) (bs : List Byte) : (s.poke pa bs).ingest = s.ingest := rfl
@[simp] theorem State.poke_net (s : State) (pa : Nat) (bs : List Byte) : (s.poke pa bs).net = s.net := rfl
@[simp] theorem State.poke_ce0 (s : State) (pa : Nat) (bs : List Byte) : (s.poke pa bs).ce0 = s.ce0 := rfl
@[simp] theorem State.poke_ce1 (s : State) (pa : Nat) (bs : List Byte) : (s.poke pa bs).ce1 = s.ce1 := rfl
@[simp] theorem State.poke_decodes (s : State) (pa : Nat) (bs : List Byte) : (s.poke pa bs).decodes = s.decodes := rfl
@[simp] theorem State.poke_boot (s : State) (pa : Nat) (bs : List Byte) : (s.poke pa bs).boot = s.boot := rfl
@[simp] theorem State.poke_sec (s : State) (pa : Nat) (bs : List Byte) : (s.poke pa bs).sec = s.sec := rfl
@[simp] theorem State.poke_tly (s : State) (pa : Nat) (bs : List Byte) : (s.poke pa bs).tly = s.tly := rfl
@[simp] theorem State.poke_cvs (s : State) (pa : Nat) (bs : List Byte) : (s.poke pa bs).cvs = s.cvs := rfl
@[simp] theorem State.poke_mgmt (s : State) (pa : Nat) (bs : List Byte) : (s.poke pa bs).mgmt = s.mgmt := rfl
@[simp] theorem State.poke_tbtime (s : State) (pa : Nat) (bs : List Byte) : (s.poke pa bs).tbtime = s.tbtime := rfl
@[simp] theorem State.poke_pending (s : State) (pa : Nat) (bs : List Byte) : (s.poke pa bs).pending = s.pending := rfl

/-! #### touchLpp -/

@[simp] theorem touchLpp_variant (s : State) : (touchLpp s).variant = s.variant := rfl
@[simp] theorem touchLpp_straps (s : State) : (touchLpp s).straps = s.straps := rfl
@[simp] theorem touchLpp_pkg (s : State) : (touchLpp s).pkg = s.pkg := rfl
@[simp] theorem touchLpp_mem (s : State) : (touchLpp s).mem = s.mem := rfl
@[simp] theorem touchLpp_wsBad (s : State) : (touchLpp s).wsBad = s.wsBad := rfl
@[simp] theorem touchLpp_wsSoft (s : State) : (touchLpp s).wsSoft = s.wsSoft := rfl
@[simp] theorem touchLpp_hmem0 (s : State) : (touchLpp s).hmem0 = s.hmem0 := rfl
@[simp] theorem touchLpp_hmem1 (s : State) : (touchLpp s).hmem1 = s.hmem1 := rfl
@[simp] theorem touchLpp_free (s : State) : (touchLpp s).free = s.free := rfl
@[simp] theorem touchLpp_cores (s : State) : (touchLpp s).cores = s.cores := rfl
@[simp] theorem touchLpp_hbms (s : State) : (touchLpp s).hbms = s.hbms := rfl
@[simp] theorem touchLpp_power (s : State) : (touchLpp s).power = s.power := rfl
@[simp] theorem touchLpp_agg (s : State) : (touchLpp s).agg = s.agg := rfl
@[simp] theorem touchLpp_host (s : State) : (touchLpp s).host = s.host := rfl
@[simp] theorem touchLpp_ingest (s : State) : (touchLpp s).ingest = s.ingest := rfl
@[simp] theorem touchLpp_net (s : State) : (touchLpp s).net = s.net := rfl
@[simp] theorem touchLpp_ce0 (s : State) : (touchLpp s).ce0 = s.ce0 := rfl
@[simp] theorem touchLpp_ce1 (s : State) : (touchLpp s).ce1 = s.ce1 := rfl
@[simp] theorem touchLpp_decodes (s : State) : (touchLpp s).decodes = s.decodes := rfl
@[simp] theorem touchLpp_boot (s : State) : (touchLpp s).boot = s.boot := rfl
@[simp] theorem touchLpp_sec (s : State) : (touchLpp s).sec = s.sec := rfl
@[simp] theorem touchLpp_tly (s : State) : (touchLpp s).tly = s.tly := rfl
@[simp] theorem touchLpp_cvs (s : State) : (touchLpp s).cvs = s.cvs := rfl
@[simp] theorem touchLpp_mgmt (s : State) : (touchLpp s).mgmt = s.mgmt := rfl
@[simp] theorem touchLpp_tbtime (s : State) : (touchLpp s).tbtime = s.tbtime := rfl
@[simp] theorem touchLpp_pending (s : State) : (touchLpp s).pending = s.pending := rfl
@[simp] theorem touchLpp_lpp_lock (s : State) : (touchLpp s).lpp.lock = s.lpp.lock := rfl
@[simp] theorem touchLpp_lpp_rate (s : State) : (touchLpp s).lpp.rate = s.lpp.rate := rfl
@[simp] theorem touchLpp_lpp_ranks (s : State) : (touchLpp s).lpp.ranks = s.lpp.ranks := rfl
@[simp] theorem touchLpp_lpp_size (s : State) : (touchLpp s).lpp.size = s.lpp.size := rfl
@[simp] theorem touchLpp_lpp_lce (s : State) : (touchLpp s).lpp.lce = s.lpp.lce := rfl
@[simp] theorem touchLpp_lpp_lue (s : State) : (touchLpp s).lpp.lue = s.lpp.lue := rfl
@[simp] theorem touchLpp_lpp_bad (s : State) : (touchLpp s).lpp.bad = s.lpp.bad := rfl
@[simp] theorem touchLpp_lpp_ready (s : State) : (touchLpp s).lpp.ready = s.lpp.ready := rfl
@[simp] theorem touchLpp_lpp_rsp (s : State) : (touchLpp s).lpp.rsp = s.lpp.rsp := rfl

end Sys2Proof.Machine
end

