-- ==== Sys2Proof/Laws/Translate.lean ====
section
/-! SUPPORT. Translating many bytes at once: what the page table of an operation holds, the translations made where every
page is found, and checked accesses to LPDDR. -/

namespace Sys2Proof.Machine

theorem mem_put {α : Type} [DecidableEq α] {d : α} {k : Nat} {v : α} {t : Table α} {p : Nat × α} (h : p ∈ put d k v t) :
    p = (k, v) ∨ p ∈ t := by
  unfold put at h
  split at h
  · exact .inr (mem_erase h)
  · exact (mem_insertAt h).imp id mem_erase

theorem mem_of_look {α : Type} {d : α} {k : Nat} {t : Table α} (h : look d k t ≠ d) : (k, look d k t) ∈ t := by
  induction t with
  | nil => exact absurd rfl h
  | cons p t ih =>
    obtain ⟨a, v⟩ := p
    unfold look at h ⊢
    split
    · next e => subst e; exact List.mem_cons_self ..
    · next e => rw [if_neg e] at h; exact List.mem_cons_of_mem _ (ih h)

/-- Every entry of a page table is a page of the ones below n, with its lowest address touched. -/
def UsesBelow (n : Nat) (t : Table (Option PageUse)) : Prop :=
  ∀ p ∈ t, ∃ u, p.2 = some u ∧ u.va < n ∧ p.1 = u.va / 4096

theorem addUse_below {n va : Nat} {w : Bool} {t : Table (Option PageUse)} (hn : n ≤ 2 ^ 48) (h : UsesBelow n t) (hv : va < n) :
    UsesBelow n (addUse t va w) := by
  have hk : min (va / 4096) (2 ^ 36) = va / 4096 := by omega
  intro p hp
  unfold addUse at hp
  simp only [hk] at hp
  split at hp
  · rcases mem_put hp with rfl | hp
    · exact ⟨_, rfl, hv, rfl⟩
    · exact h p hp
  · next u hu =>
    rcases mem_put hp with rfl | hp
    · refine ⟨_, rfl, by simp only; omega, ?_⟩
      have := mem_of_look (d := none) (k := va / 4096) (t := t) (by rw [hu]; simp)
      obtain ⟨u', h1, h2, h3⟩ := h _ this
      rw [hu] at h1
      cases h1
      simp only at h3 ⊢
      omega
    · exact h p hp

/-- The page of every touched byte is entered, and no page is lost. -/
theorem look_addUse {k va : Nat} {w : Bool} {t : Table (Option PageUse)} (h : look none k t ≠ none ∨ k = min (va / 4096) (2 ^ 36)) :
    look none k (addUse t va w) ≠ none := by
  unfold addUse
  simp only
  split <;> rw [look_put] <;> split <;> simp_all

theorem foldl_addUse_below {n : Nat} {w : Bool} (l : List Nat) {t : Table (Option PageUse)} (hn : n ≤ 2 ^ 48) (h : UsesBelow n t)
    (hl : ∀ a ∈ l, a < n) : UsesBelow n (l.foldl (fun t a => addUse t a w) t) := by
  induction l generalizing t with
  | nil => exact h
  | cons a l ih => exact ih (addUse_below hn h (hl a (List.mem_cons_self ..))) fun b hb => hl b (List.mem_cons_of_mem _ hb)

theorem look_foldl_addUse {k : Nat} {w : Bool} (l : List Nat) {t : Table (Option PageUse)}
    (h : look none k t ≠ none ∨ ∃ a ∈ l, k = min (a / 4096) (2 ^ 36)) :
    look none k (l.foldl (fun t a => addUse t a w) t) ≠ none := by
  induction l generalizing t with
  | nil => simpa using h
  | cons a l ih =>
    refine ih ?_
    rcases h with h | ⟨b, hb, rfl⟩
    · exact .inl (look_addUse (.inl h))
    · rcases List.mem_cons.1 hb with rfl | hb
      · exact .inl (look_addUse (.inr rfl))
      · exact .inr ⟨b, hb, rfl⟩

theorem pageUses_below {n : Nat} {reads writes : List Nat} (hn : n ≤ 2 ^ 48) (hr : ∀ a ∈ reads, a < n) (hw : ∀ a ∈ writes, a < n) :
    UsesBelow n (pageUses reads writes) :=
  foldl_addUse_below writes hn (foldl_addUse_below reads hn (by intro p hp; simp at hp) hr) hw

theorem look_pageUses {a : Nat} {reads writes : List Nat} (ha : a < 2 ^ 48) (h : a ∈ reads ∨ a ∈ writes) :
    look none (a / 4096) (pageUses reads writes) ≠ none := by
  have hk : a / 4096 = min (a / 4096) (2 ^ 36) := by omega
  refine look_foldl_addUse writes ?_
  rcases h with h | h
  · exact .inl (look_foldl_addUse reads (.inr ⟨a, h, hk⟩))
  · exact .inr ⟨a, h, hk⟩

/-- Where every page below n is found at base plus its address and the state does not change, the translations of the pages
are made. -/
theorem translatePages_flat {s : State} {n base ctx : Nat} (hb : base % 4096 = 0)
    (h : ∀ va r w, va < n → translate s ctx va r w = (s, .ok (base + va))) :
    ∀ (t : Table (Option PageUse)) (xl : Table Nat), UsesBelow n t →
      ∃ xl', translatePages s ctx xl t = (s, .ok xl') ∧
        ∀ k, look none k t ≠ none ∨ look 0 k xl = base / 4096 + k → look 0 k xl' = base / 4096 + k
  | [], xl, _ => ⟨xl, rfl, fun k hk => hk.resolve_left (by simp)⟩
  | (k, some u) :: ps, xl, ht => by
    obtain ⟨u', h1, h2, h3⟩ := ht _ (List.mem_cons_self ..)
    cases h1
    simp only at h2 h3
    obtain ⟨xl', h4, h5⟩ := translatePages_flat hb h ps (put 0 k ((base + u.va) / 4096) xl)
      fun p hp => ht p (List.mem_cons_of_mem _ hp)
    refine ⟨xl', ?_, fun j hj => h5 j ?_⟩
    · rw [translatePages, h _ _ _ h2]
      exact h4
    · rw [look_put]
      by_cases e : j = k
      · subst e; rw [if_pos rfl]; right; omega
      · rw [if_neg e]
        rw [look, if_neg (Ne.symm e)] at hj
        exact hj
  | (k, none) :: ps, xl, ht => by
    obtain ⟨u', h1, _⟩ := ht _ (List.mem_cons_self ..)
    cases h1

/-- The same for an operation: a byte it touches has its device address at base plus its virtual address. -/
theorem xlate_flat {s : State} {n base ctx : Nat} {reads writes : List Nat} (hn : n ≤ 2 ^ 48) (hb : base % 4096 = 0)
    (h : ∀ va r w, va < n → translate s ctx va r w = (s, .ok (base + va)))
    (hr : ∀ a ∈ reads, a < n) (hw : ∀ a ∈ writes, a < n) :
    ∃ xl, xlate s ctx reads writes = (s, .ok xl) ∧ ∀ a, a ∈ reads ∨ a ∈ writes → viaXl xl a = base + a := by
  obtain ⟨xl, h1, h2⟩ := translatePages_flat hb h (pageUses reads writes) [] (pageUses_below hn hr hw)
  refine ⟨xl, h1, fun a ha => ?_⟩
  have hlt : a < 2 ^ 48 := Nat.lt_of_lt_of_le (ha.elim (hr a) (hw a)) hn
  unfold viaXl
  rw [h2 _ (.inl (look_pageUses hlt ha))]
  omega

/-! ### Checked accesses to LPDDR -/

/-- The address lies in the LPDDR port's range (R23). -/
def inLpp (pa : Nat) : Prop := 0x18000000000 ≤ pa ∧ pa < 0x1F000000000

theorem region_lpp {pa : Nat} (h : inLpp pa) : region pa = .lpp (pa - 0x18000000000) := by
  obtain ⟨h1, h2⟩ := h
  unfold region
  rw [if_neg (by omega), if_neg (by omega), if_neg (by omega), if_pos h2]

theorem unitOf_lpp {pa : Nat} (h : inLpp pa) : unitOf pa = (pa, 1) := by
  unfold unitOf
  rw [region_lpp h]

theorem mem_unitsOf {pas : List Nat} {u : Nat × Nat} (h : u ∈ unitsOf pas) : ∃ a ∈ pas, unitOf a = u := by
  unfold unitsOf at h
  rw [List.mem_eraseDups] at h
  exact List.mem_map.1 h

/-- A read of an LPDDR unit that no error has befallen reaches the port and meets nothing (R351). -/
theorem readUnit_lpp {s : State} {u : Nat × Nat} (h : inLpp u.1) (hb : s.lpp.bad = []) : readUnit s u = (touchLpp s, none) := by
  unfold readUnit
  rw [region_lpp h, hb]
  rfl

theorem readUnits_lpp (us : List (Nat × Nat)) (s : State) (h : ∀ u ∈ us, inLpp u.1) (hb : s.lpp.bad = []) :
    (readUnits s us).2 = none := by
  induction us generalizing s with
  | nil => rfl
  | cons u us ih =>
    rw [readUnits, readUnit_lpp (h u (List.mem_cons_self ..)) hb]
    exact ih _ (fun v hv => h v (List.mem_cons_of_mem _ hv)) hb

/-- A write of an LPDDR unit that no error has befallen meets none, and leaves the units as good as they were. -/
theorem writeUnit_lpp {s : State} {u : Nat × Nat} (l : List (Nat × Byte)) (h : inLpp u.1) (hb : s.lpp.bad = []) :
    (writeUnit s u l).2 = none ∧ (writeUnit s u l).1.lpp.bad = [] := by
  unfold writeUnit
  simp only
  rw [region_lpp h, hb]
  exact ⟨rfl, hb⟩

theorem writeUnits_lpp (l : List (Nat × Byte)) (us : List (Nat × Nat)) (s : State) (h : ∀ u ∈ us, inLpp u.1)
    (hb : s.lpp.bad = []) : (writeUnits s l us).2 = none ∧ (writeUnits s l us).1.lpp.bad = [] := by
  induction us generalizing s with
  | nil => exact ⟨rfl, hb⟩
  | cons u us ih =>
    obtain ⟨h1, h2⟩ := writeUnit_lpp l (h u (List.mem_cons_self ..)) hb
    rw [writeUnits]
    simp only [h1]
    exact ih _ (fun v hv => h v (List.mem_cons_of_mem _ hv)) h2

theorem readUnits_lpp_state (us : List (Nat × Nat)) (s : State) (h : ∀ u ∈ us, inLpp u.1) (hb : s.lpp.bad = []) :
    { (readUnits s us).1 with lpp := s.lpp } = s := by
  induction us generalizing s with
  | nil => rfl
  | cons u us ih =>
    rw [readUnits, readUnit_lpp (h u (List.mem_cons_self ..)) hb]
    exact congrArg (fun t : State => { t with lpp := s.lpp })
      (ih (touchLpp s) (fun v hv => h v (List.mem_cons_of_mem _ hv)) hb)

/-- A checked read of LPDDR without errors changes the port's own state alone (R351). -/
theorem readCheck_lpp_state (s : State) {pas : List Nat} (h : ∀ a ∈ pas, inLpp a) (hb : s.lpp.bad = []) :
    { (readCheck s pas).1 with lpp := s.lpp } = s := by
  refine readUnits_lpp_state _ s (fun u hu => ?_) hb
  obtain ⟨a, ha, rfl⟩ := mem_unitsOf hu
  rw [unitOf_lpp (h a ha)]
  exact h a ha

/-- A checked access to LPDDR without errors meets none (R351). -/
theorem readCheck_lpp (s : State) {pas : List Nat} (h : ∀ a ∈ pas, inLpp a) (hb : s.lpp.bad = []) :
    (readCheck s pas).2 = none := by
  refine readUnits_lpp _ s (fun u hu => ?_) hb
  obtain ⟨a, ha, rfl⟩ := mem_unitsOf hu
  rw [unitOf_lpp (h a ha)]
  exact h a ha

theorem writeCheck_lpp (s : State) {l : List (Nat × Byte)} (h : ∀ p ∈ l, inLpp p.1) (hb : s.lpp.bad = []) :
    (writeCheck s l).2 = none ∧ (writeCheck s l).1.lpp.bad = [] := by
  refine writeUnits_lpp l _ s (fun u hu => ?_) hb
  obtain ⟨a, ha, rfl⟩ := mem_unitsOf hu
  obtain ⟨p, hp, rfl⟩ := List.mem_map.1 ha
  rw [unitOf_lpp (h p hp)]
  exact h p hp

/-- The requests of a write of LPDDR without errors all go through (R351). -/
theorem writeStop_lpp (s : State) {l : List (Nat × Byte)} (h : ∀ p ∈ l, inLpp p.1) (hb : s.lpp.bad = []) :
    (writeStop s l).2 = none := by
  unfold writeStop
  induction blocksOf l generalizing s with
  | nil => rfl
  | cons b bs ih =>
    have hl : ∀ p ∈ l.filter fun p => decide (p.1 / 256 = b), inLpp p.1 := fun p hp => h p (List.mem_filter.1 hp).1
    obtain ⟨h1, h2⟩ := writeCheck_lpp s hl hb
    rw [writeBlocks]
    split
    · next e he => rw [he] at h1; cases h1
    · next t he => rw [he] at h2; exact ih t h2

end Sys2Proof.Machine
end

