-- ==== Sys2Proof/Laws/Vec.lean ====
section
/-! SUPPORT. What one vector instruction can do: the lemma about `vecStep`, and the lanes and predicate bits that
`setLanes` and `setPreds` write. -/

namespace Sys2Proof.Machine

/-! ### One instruction at its engines -/

@[simp] theorem Core.stream_vdone (k : Core) (e : Nat) (y : Ve) (fl : Byte) (u : Option Summary) (t : Nat) :
    (k.vdone e y fl u).stream t = k.stream t := by
  unfold Core.vdone Core.flag Core.summary Core.setVe Core.stream
  cases u <;> by_cases h : e = 0 <;> simp [h]

@[simp] theorem Core.ve_vdone_same (k : Core) (e : Nat) (y : Ve) (fl : Byte) (u : Option Summary) :
    (k.vdone e y fl u).ve e = y := by
  unfold Core.vdone Core.flag Core.summary Core.setVe Core.ve
  cases u <;> by_cases h : e = 0 <;> simp [h]

theorem Core.ve_vdone_other (k : Core) {e d : Nat} (he : e < 2) (hd : d < 2) (h : d ≠ e) (y : Ve) (fl : Byte)
    (u : Option Summary) : (k.vdone e y fl u).ve d = k.ve d := by
  unfold Core.vdone Core.flag Core.summary Core.setVe Core.ve
  rcases e with _ | _ | e <;> rcases d with _ | _ | d <;> cases u <;> first | omega | simp_all

/-- Counting an event changes nothing but the tally counters. -/
@[simp] theorem State.core_tally (s : State) (a b i u n c : Nat) : (s.tally a b i u n).core c = s.core c := rfl
@[simp] theorem State.byte_tally (s : State) (a b i u n x : Nat) : (s.tally a b i u n).byte x = s.byte x := rfl

/-- The parts of a core that a vector result can change. -/
theorem Core.rest_vdone (k : Core) (e : Nat) (y : Ve) (fl : Byte) (u : Option Summary) (a b : Ve) (z : W32) (m : Table W64)
    (n : W16) (q : Table Nat) :
    { k.vdone e y fl u with ve0 := a, ve1 := b, astat := z, m := m, mstat := n, winIssued := q } =
      { k with ve0 := a, ve1 := b, astat := z, m := m, mstat := n, winIssued := q } := by
  unfold Core.vdone Core.flag Core.summary Core.setVe
  cases u <;> by_cases h : e = 0 <;> simp [h]

@[simp] theorem Core.ve_modStream (k : Core) (t e : Nat) (g : Stream → Stream) : (k.modStream t g).ve e = k.ve e := by
  unfold Core.modStream Core.setStream Core.ve
  split <;> first | rfl | (split <;> first | rfl | (split <;> rfl))

@[simp] theorem Core.mxa_modStream (k : Core) (t e : Nat) (g : Stream → Stream) : (k.modStream t g).mxa e = k.mxa e := by
  unfold Core.modStream Core.setStream Core.mxa
  split <;> first | rfl | (split <;> first | rfl | (split <;> rfl))

@[simp] theorem Core.astat_vdone (k : Core) (e : Nat) (y : Ve) (fl : Byte) :
    (k.vdone e y fl none).astat = k.astat ||| (fl.setWidth 32 <<< (8 * (2 + e))) := by
  unfold Core.vdone Core.flag Core.setVe; by_cases h : e = 0 <;> simp [h]

@[simp] theorem Core.m_vdone (k : Core) (e : Nat) (y : Ve) (fl : Byte) : (k.vdone e y fl none).m = k.m := by
  unfold Core.vdone Core.flag Core.setVe; by_cases h : e = 0 <;> simp [h]

@[simp] theorem Core.mstat_vdone (k : Core) (e : Nat) (y : Ve) (fl : Byte) : (k.vdone e y fl none).mstat = k.mstat := by
  unfold Core.vdone Core.flag Core.setVe; by_cases h : e = 0 <;> simp [h]

@[simp] theorem Core.winIssued_vdone (k : Core) (e : Nat) (y : Ve) (fl : Byte) :
    (k.vdone e y fl none).winIssued = k.winIssued := by
  unfold Core.vdone Core.flag Core.setVe; by_cases h : e = 0 <;> simp [h]

@[simp] theorem Core.accq_vdone (k : Core) (e : Nat) (y : Ve) (fl : Byte) : (k.vdone e y fl none).accq = k.accq := by
  unfold Core.vdone Core.flag Core.setVe; by_cases h : e = 0 <;> simp [h]

@[simp] theorem Core.mxa_vdone (k : Core) (e d : Nat) (y : Ve) (fl : Byte) : (k.vdone e y fl none).mxa d = k.mxa d := by
  unfold Core.vdone Core.flag Core.setVe Core.mxa; by_cases h : e = 0 <;> simp [h]

/-- The parts of a core that a stream's move leaves. -/
theorem Core.kept_modStream (k : Core) (t : Nat) (g : Stream → Stream) :
    (k.modStream t g).astat = k.astat ∧ (k.modStream t g).m = k.m ∧ (k.modStream t g).mstat = k.mstat ∧
      (k.modStream t g).winIssued = k.winIssued ∧ (k.modStream t g).accq = k.accq ∧ (k.modStream t g).ve0 = k.ve0 ∧
      (k.modStream t g).ve1 = k.ve1 := by
  unfold Core.modStream Core.setStream
  split <;> first | exact ⟨rfl, rfl, rfl, rfl, rfl, rfl, rfl⟩ | (split <;> exact ⟨rfl, rfl, rfl, rfl, rfl, rfl, rfl⟩)

theorem State.rest_modCore (s : State) (c : Nat) (f : Core → Core) (a : Table Core) (b : Tly) :
    { s.modCore c f with cores := a, tly := b } = { s with cores := a, tly := b } := rfl

theorem State.rest_tally (s : State) (g h i u n : Nat) (a : Table Core) (b : Tly) :
    { s.tally g h i u n with cores := a, tly := b } = { s with cores := a, tly := b } := rfl

@[simp] theorem State.byte_modCore (s : State) (c : Nat) (f : Core → Core) (a : Nat) : (s.modCore c f).byte a = s.byte a := rfl

/-- One more word counted in an engine's window at no more than half rate. -/
def Core.counted (k : Core) (e : Nat) : Core := { k with winIssued := put 0 e (look 0 e k.winIssued + 1) k.winIssued }

@[simp] theorem Core.ve_counted (k : Core) (e d : Nat) : (k.counted e).ve d = k.ve d := rfl
@[simp] theorem Core.mxa_counted (k : Core) (e d : Nat) : (k.counted e).mxa d = k.mxa d := rfl
@[simp] theorem Core.stream_counted (k : Core) (e t : Nat) : (k.counted e).stream t = k.stream t := rfl
@[simp] theorem Core.accq_counted (k : Core) (e : Nat) : (k.counted e).accq = k.accq := rfl

theorem Core.look_counted (k : Core) (e d : Nat) :
    look 0 d (k.counted e).winIssued = if d = e then look 0 e k.winIssued + 1 else look 0 d k.winIssued :=
  look_put 0 e d (look 0 e k.winIssued + 1) k.winIssued

theorem Core.countIssue_half (k : Core) (e : Nat) (h : look 0 e k.winIssued < 32) : k.countIssue e = k.counted e := by
  unfold Core.countIssue Core.counted
  simp only
  rw [if_neg (by omega)]

/-- A core after a vector result at an engine at no more than half rate. -/
def Core.vran (k : Core) (e : Nat) (y : Ve) (fl : Byte) : Core := (k.counted e).vdone e y fl none

/-- What a form that touches only its engine does at an engine where it gives a result (R104). -/
theorem VForm.issue_pure {f : VForm} {g : VIn → VOut} {s : State} {c t e n : Nat} {w : W64} {y : Ve} {fl : Byte}
    (hm : f.mm = none) (hb : ∀ s i, f.body s i = (s, g i)) (hw : look 0 e (s.core c).winIssued < 32)
    (h : g (engineIn s c t e n w) = .done y fl none) :
    ((f.issue s c t e n w).core c = (s.core c).vran e y fl) ∧ (∀ d, d ≠ c → (f.issue s c t e n w).core d = s.core d) ∧
      (∀ a, (f.issue s c t e n w).byte a = s.byte a) ∧
      { f.issue s c t e n w with cores := s.cores, tly := s.tly } = s := by
  have hc : (s.modCore c fun k => k.countIssue e).core c = (s.core c).counted e := by
    rw [State.core_modCore, if_pos rfl, Core.countIssue_half _ _ hw]
  have hi : engineIn (s.modCore c fun k => k.countIssue e) c t e n w = engineIn s c t e n w := by
    unfold engineIn; rw [hc]; rfl
  have hf : f.issue s c t e n w =
      ((s.modCore c fun k => k.countIssue e).modCore c fun k => k.vdone e y fl none).tally 0 0x06 c e 1 := by
    unfold VForm.issue
    have hne : ¬(none : Option Nat) = some e := by simp
    simp only [hm, hb, hi, h, if_neg hne]
  rw [hf]
  refine ⟨?_, fun d hd => ?_, fun a => by simp, by rw [State.rest_tally, State.rest_modCore, State.rest_modCore]⟩
  · rw [State.core_tally, State.core_modCore, if_pos rfl, hc]; rfl
  · rw [State.core_tally, State.core_modCore, if_neg hd, State.core_modCore, if_neg hd]

/-- A word enters an engine that is free for it and issues there. -/
theorem VForm.enter_free (f : VForm) (s : State) (c t n e : Nat) (w : W64) (es : List Nat)
    (ha : (s.core c).accOf e = []) (hr : f.ready s c t e n w = true) :
    f.enter s c t n w (e :: es) = f.enter (f.issue s c t e n w) c t n w es := by
  rw [VForm.enter, ha, hr]; rfl

/-- A form that waits for nothing of its own is ready at an engine at no more than half rate with no drain before it. -/
theorem VForm.ready_half (f : VForm) (s : State) (c t e n : Nat) (w : W64) (hf : f.wait = noWait)
    (hw : look 0 e (s.core c).winIssued < 32) (hd : drainRegs ((s.core c).mxa e) n = []) : f.ready s c t e n w = true := by
  unfold VForm.ready Core.windowOpen
  simp only [hf, hd, noWait, List.any_nil]
  simp [hw]

/-- A form that touches only its engines runs at each of them when its word may issue. -/
theorem vecPure_runs {s : State} {c t op : Nat} {w : W64} (h : vecRuns s c t w op) (regs : W64 → List Nat) (sp : W64 → VSpec)
    (f : VIn → VOut) :
    vecPure s c t op none regs sp f =
      VForm.enter ⟨none, noWait, regs, fun s i => (s, if vBad (sp i.w) i.w = true then VOut.fault Code.badParam 0 else f i)⟩
        (s.modCore c fun k => { k with issued := k.issued + 1 }.modStream t Stream.advance) c t (s.core c).issued w
        ((s.core c).stream t).targets := by
  obtain ⟨hw, h63, hop, hv, hsm, he⟩ := h
  have hsm' : ¬(vSmen w = true ∧ ((s.core c).stream t).vtgt = 2) := fun hh => hsm hh.1 hh.2
  have h1 : ¬(w.getLsbD 63 = true ∨ vOp w ≠ op) := by rw [h63, hop]; simp
  have ho : ∀ F : VForm, F.oldest s c t op = none := by
    intro F
    unfold VForm.oldest
    split
    · simp [List.findSome?, (he 0 (by omega)).1, (he 1 (by omega)).1]
    · rfl
  have hq : (((s.core c).stream t).targets.any fun e => decide (8 ≤ ((s.core c).accOf e).length)) = false := by
    unfold Stream.targets
    split
    · simp [(he 0 (by omega)).1, (he 1 (by omega)).1]
    · next hne => simp [(he _ (show ((s.core c).stream t).vtgt < 2 by omega)).1]
  unfold vecPure vecStep
  simp only [ho, hw, if_neg h1, if_neg hsm', hq]
  rfl

/-- The core as a vector word leaves it to the engines: its stream has moved on, and one more word has issued. -/
theorem Core.moved_eq (k : Core) (t : Nat) :
    ({ k with issued := k.issued + 1 } : Core).modStream t Stream.advance =
      { k with issued := k.issued + 1 }.setStream t { k.stream t with pc := (k.stream t).pc + 1 } := rfl

theorem Core.rest_moved (k : Core) (t : Nat) :
    { ({ k with issued := k.issued + 1 } : Core).modStream t Stream.advance with
      ve0 := k.ve0, ve1 := k.ve1, astat := k.astat, m := k.m, mstat := k.mstat, winIssued := k.winIssued } =
      ({ k with issued := k.issued + 1 } : Core).modStream t Stream.advance := by
  unfold Core.modStream Core.setStream
  split <;> first | rfl | (split <;> rfl)

/-- A form that touches only its engines: where it gives a result at every target, the word has run. -/
theorem vecPure_ran {s : State} {c t op : Nat} {w : W64} (h : vecRuns s c t w op) (regs : W64 → List Nat) (sp : W64 → VSpec)
    (f : VIn → VOut) (P : VIn → Ve → Byte → Prop) (hl : vBad (sp w) w = false)
    (hf : ∀ e, ∃ y fl, f (vecIn s c t e w) = .done y fl none ∧ P (vecIn s c t e w) y fl) :
    vecRan c t w P s (vecPure s c t op none regs sp f) := by
  rw [vecPure_runs h]
  have hv := h.2.2.2.1
  have he := h.2.2.2.2.2
  generalize hF : (⟨none, noWait, regs, fun s i => (s, if vBad (sp i.w) i.w = true then VOut.fault Code.badParam 0 else f i)⟩ : VForm) = F
  generalize hs : (s.modCore c fun k => { k with issued := k.issued + 1 }.modStream t Stream.advance) = s0
  have hm : F.mm = none := by rw [← hF]
  have hwt : F.wait = noWait := by rw [← hF]
  have hb : ∀ s i, F.body s i = (s, (fun i => if vBad (sp i.w) i.w = true then VOut.fault Code.badParam 0 else f i) i) := by
    intro s i; rw [← hF]
  have hk : s0.core c = ({ s.core c with issued := (s.core c).issued + 1 } : Core).modStream t Stream.advance := by
    rw [← hs, State.core_modCore, if_pos rfl]
  have hother : ∀ d, d ≠ c → s0.core d = s.core d := fun d hd => by rw [← hs, State.core_modCore, if_neg hd]
  have hrest : { s0 with cores := s.cores, tly := s.tly } = s := by rw [← hs]; rfl
  have hbyte : ∀ a, s0.byte a = s.byte a := fun a => by rw [← hs]; rfl
  obtain ⟨ka, km, kn, kw, kq, k0, k1⟩ := Core.kept_modStream { s.core c with issued := (s.core c).issued + 1 } t Stream.advance
  have hve : ∀ e, (s0.core c).ve e = (s.core c).ve e := fun e => by rw [hk, Core.ve_modStream]; rfl
  have hmx : ∀ e, (s0.core c).mxa e = (s.core c).mxa e := fun e => by rw [hk, Core.mxa_modStream]; rfl
  have hst : ((s0.core c).stream t) = ((s.core c).stream t).advance := by rw [hk, Core.stream_modStream]; rfl
  have hin : ∀ e, engineIn s0 c t e (s.core c).issued w = vecIn s c t e w := by
    intro e; unfold engineIn vecIn; rw [hst, hve]; rfl
  have hg : ∀ e, ∃ y fl, (fun i : VIn => if vBad (sp i.w) i.w = true then VOut.fault Code.badParam 0 else f i)
      (vecIn s c t e w) = .done y fl none ∧ P (vecIn s c t e w) y fl := by
    intro e
    obtain ⟨y, fl, h1, h2⟩ := hf e
    refine ⟨y, fl, ?_, h2⟩
    show (if vBad (sp w) w = true then _ else f (vecIn s c t e w)) = _
    rw [hl]; exact h1
  have hacc : ∀ e, e < 2 → (s0.core c).accOf e = [] := fun e h2 => by
    unfold Core.accOf; rw [hk, kq]; exact (he e h2).1
  have hwin : ∀ e, look 0 e (s0.core c).winIssued = look 0 e (s.core c).winIssued := fun e => by rw [hk, kw]
  have hmoved := Core.moved_eq (s.core c) t
  rcases Nat.lt_or_ge ((s.core c).stream t).vtgt 2 with hlt | hge
  · have ht : ((s.core c).stream t).targets = [((s.core c).stream t).vtgt] := by
      unfold Stream.targets; rw [if_neg (by omega)]
    rw [ht]
    generalize ((s.core c).stream t).vtgt = e at *
    have hw2 : look 0 e (s0.core c).winIssued < 32 := by rw [hwin]; exact (he e hlt).2.1
    rw [F.enter_free _ _ _ _ _ _ _ (hacc e hlt) (F.ready_half _ _ _ _ _ _ hwt hw2 (by rw [hmx]; exact (he e hlt).2.2))]
    obtain ⟨y, fl, h1, h2⟩ := hg e
    obtain ⟨p1, p2, p3, p4⟩ := VForm.issue_pure hm hb hw2 (by rw [hin]; exact h1)
    show vecRan c t w P s (F.issue s0 c t e (s.core c).issued w)
    generalize F.issue s0 c t e (s.core c).issued w = s' at *
    refine ⟨⟨?_, fun a => (p3 a).trans (hbyte a), fun d hd => (p2 d hd).trans (hother d hd), ?_, ?_⟩, ?_, ?_, ?_, fun _ => fl,
      ?_, ?_⟩
    · have := congrArg (fun u : State => { u with cores := s.cores, tly := s.tly }) p4
      exact this.trans hrest
    · rw [p1, Core.vran, Core.rest_vdone, hk, ← hmoved]
      exact Core.rest_moved (s.core c) t
    · intro d hd
      simp only [ht, List.mem_singleton]
      rw [p1, Core.vran, Core.winIssued_vdone]
      rw [Core.look_counted, ← hwin d]
      by_cases hde : d = e
      · subst hde; simp
      · simp [hde]
    · rw [p1, Core.vran, Core.m_vdone, hk]; exact km
    · rw [p1, Core.vran, Core.mstat_vdone, hk]; exact kn
    · intro d hd hne
      rw [ht, List.mem_singleton] at hne
      rw [p1, Core.vran, Core.ve_vdone_other _ hlt hd hne, Core.ve_counted, hve]
    · intro d hd
      rw [ht, List.mem_singleton] at hd
      subst hd
      rw [p1, Core.vran, Core.ve_vdone_same]; exact h2
    · rw [p1, Core.vran, Core.astat_vdone, ht]
      show (s0.core c).astat ||| _ = _
      rw [hk, ka]; rfl
  · have h2v : ((s.core c).stream t).vtgt = 2 := by omega
    have ht : ((s.core c).stream t).targets = [0, 1] := by unfold Stream.targets; rw [if_pos h2v]
    rw [ht]
    have hw0 : look 0 0 (s0.core c).winIssued < 32 := by rw [hwin]; exact (he 0 (by omega)).2.1
    rw [F.enter_free _ _ _ _ _ _ _ (hacc 0 (by omega))
      (F.ready_half _ _ _ _ _ _ hwt hw0 (by rw [hmx]; exact (he 0 (by omega)).2.2))]
    obtain ⟨y0, f0, h0, hp0⟩ := hg 0
    obtain ⟨y1, f1, h1, hp1⟩ := hg 1
    obtain ⟨p1, p2, p3, p4⟩ := VForm.issue_pure hm hb hw0 (by rw [hin]; exact h0)
    generalize F.issue s0 c t 0 (s.core c).issued w = s1 at *
    have hve1 : (s1.core c).ve 1 = (s.core c).ve 1 := by
      rw [p1, Core.vran, Core.ve_vdone_other _ (by omega) (by omega) (by omega), Core.ve_counted, hve]
    have hin1 : engineIn s1 c t 1 (s.core c).issued w = vecIn s c t 1 w := by
      unfold engineIn vecIn
      rw [hve1]
      have : (s1.core c).stream t = ((s.core c).stream t).advance := by
        rw [p1, Core.vran, Core.stream_vdone, Core.stream_counted, hst]
      rw [this]; rfl
    have hwin1 : look 0 1 (s1.core c).winIssued = look 0 1 (s.core c).winIssued := by
      rw [p1, Core.vran, Core.winIssued_vdone]
      rw [Core.look_counted, if_neg (by omega), hwin]
    have hw1 : look 0 1 (s1.core c).winIssued < 32 := by rw [hwin1]; exact (he 1 (by omega)).2.1
    have hacc1 : (s1.core c).accOf 1 = [] := by
      unfold Core.accOf; rw [p1, Core.vran, Core.accq_vdone, Core.accq_counted]; exact hacc 1 (by omega)
    have hd1 : drainRegs ((s1.core c).mxa 1) (s.core c).issued = [] := by
      rw [p1, Core.vran, Core.mxa_vdone, Core.mxa_counted, hmx]; exact (he 1 (by omega)).2.2
    rw [F.enter_free _ _ _ _ _ _ _ hacc1 (F.ready_half _ _ _ _ _ _ hwt hw1 hd1)]
    obtain ⟨q1, q2, q3, q4⟩ := VForm.issue_pure hm hb hw1 (by rw [hin1]; exact h1)
    show vecRan c t w P s (F.issue s1 c t 1 (s.core c).issued w)
    generalize F.issue s1 c t 1 (s.core c).issued w = s' at *
    refine ⟨⟨?_, fun a => ((q3 a).trans (p3 a)).trans (hbyte a),
      fun d hd => ((q2 d hd).trans (p2 d hd)).trans (hother d hd), ?_, ?_⟩, ?_, ?_, ?_, fun e => if e = 0 then f0 else f1,
      ?_, ?_⟩
    · have a1 := congrArg (fun u : State => { u with cores := s.cores, tly := s.tly }) q4
      have a2 := congrArg (fun u : State => { u with cores := s.cores, tly := s.tly }) p4
      exact (a1.trans a2).trans hrest
    · rw [q1, Core.vran, Core.rest_vdone, p1, Core.vran]
      have := Core.rest_vdone ((s0.core c).counted 0) 0 y0 f0 none (s.core c).ve0 (s.core c).ve1 (s.core c).astat (s.core c).m
        (s.core c).mstat (s.core c).winIssued
      refine Eq.trans this ?_
      rw [hk, ← hmoved]
      exact Core.rest_moved (s.core c) t
    · intro d hd
      rw [q1, Core.vran, Core.winIssued_vdone, ht]
      rw [Core.look_counted, hwin1]
      have hd01 : d = 0 ∨ d = 1 := by omega
      rcases hd01 with rfl | rfl
      · rw [if_neg (by omega), p1, Core.vran, Core.winIssued_vdone]
        rw [Core.look_counted, if_pos rfl, hwin]; simp
      · simp
    · rw [q1, Core.vran, Core.m_vdone]
      show (s1.core c).m = _
      rw [p1, Core.vran, Core.m_vdone, hk]; exact km
    · rw [q1, Core.vran, Core.mstat_vdone]
      show (s1.core c).mstat = _
      rw [p1, Core.vran, Core.mstat_vdone, hk]; exact kn
    · intro e he hne
      rw [ht] at hne; simp at hne; omega
    · intro e he
      rw [ht] at he
      simp only [List.mem_cons, List.not_mem_nil, or_false] at he
      rcases he with rfl | rfl
      · rw [q1, Core.vran, Core.ve_vdone_other _ (by omega) (by omega) (by omega), Core.ve_counted, p1, Core.vran,
          Core.ve_vdone_same]
        exact hp0
      · rw [q1, Core.vran, Core.ve_vdone_same]; exact hp1
    · rw [q1, Core.vran, Core.astat_vdone]
      show (s1.core c).astat ||| _ = _
      rw [p1, Core.vran, Core.astat_vdone]
      show ((s0.core c).astat ||| _) ||| _ = _
      rw [hk, ka, ht]; rfl

/-! ### Lanes and predicate bits -/

/-- A key of a list of lane writes to register r is written by the last entry of that lane. -/
theorem look_putAll_lanes {α : Type} [DecidableEq α] (d : α) (r r' l : Nat) (hl : l < 1024) (ls : List (Nat × α))
    (hls : ∀ p ∈ ls, p.1 < 1024) (t : Table α) :
    look d (r' * 1024 + l) (putAll d (ls.map fun p => (r * 1024 + p.1, p.2)) t) =
      if r' = r then ls.foldl (fun b p => if p.1 = l then p.2 else b) (look d (r * 1024 + l) t)
      else look d (r' * 1024 + l) t := by
  induction ls generalizing t with
  | nil => by_cases h : r' = r <;> simp [putAll, h]
  | cons p ls ih =>
    have hp := hls p List.mem_cons_self
    have := ih (fun q hq => hls q (List.mem_cons_of_mem _ hq)) (put d (r * 1024 + p.1) p.2 t)
    simp only [List.map_cons, putAll, List.foldl_cons] at this ⊢
    rw [this]
    by_cases h : r' = r
    · subst h
      simp only [if_true, look_put]
      congr 1
      by_cases e : p.1 = l
      · simp [e]
      · rw [if_neg (by omega), if_neg e]
    · simp only [if_neg h]
      rw [look_put_other _ (by omega)]

/-- The last write of each lane when active lanes get f and zeroed lanes get z. -/
theorem foldl_lanes {α : Type} (act zer : List Nat) (f : Nat → α) (z : α) (l : Nat) (b : α) (hd : l ∈ act → l ∉ zer) :
    (act.map (fun l => (l, f l)) ++ zer.map fun l => (l, z)).foldl (fun b p => if p.1 = l then p.2 else b) b =
      if l ∈ act then f l else if l ∈ zer then z else b := by
  have one : ∀ (g : Nat → α) (ls : List Nat) (b : α),
      (ls.map fun k => (k, g k)).foldl (fun b p => if p.1 = l then p.2 else b) b = if l ∈ ls then g l else b := by
    intro g ls
    induction ls with
    | nil => intro b; simp
    | cons k ls ih =>
      intro b
      simp only [List.map_cons, List.foldl_cons, ih, List.mem_cons]
      by_cases h : l ∈ ls
      · simp [h]
      · by_cases e : k = l
        · subst e; simp [h]
        · simp [h, e, Ne.symm e]
  rw [List.foldl_append, one f act b, one (fun _ => z) zer]
  by_cases h : l ∈ act
  · simp [h, hd h]
  · simp [h]

theorem VIn.mem_lanes (i : VIn) (l : Nat) : l ∈ i.lanes ↔ i.active l = true := by
  simp [VIn.lanes, VIn.active]

theorem VIn.mem_zeroed (i : VIn) (l : Nat) :
    l ∈ i.zeroed ↔ (l < i.x.vl.val ∧ vZ i.w = true) ∧ ¬i.active l = true := by
  unfold VIn.zeroed VIn.active
  by_cases h : vZ i.w = true
  · simp only [h, if_true, List.mem_filter, List.mem_range, and_true, Bool.and_eq_true, decide_eq_true_eq, Bool.not_eq_true']
    constructor
    · rintro ⟨h1, h2⟩; exact ⟨h1, by simp [h2]⟩
    · rintro ⟨h1, h2⟩; exact ⟨h1, by simpa [h1] using h2⟩
  · simp [h]

theorem VIn.lanes_lt (i : VIn) {l : Nat} (h : l ∈ i.lanes) : l < 1024 := by
  have := i.x.vl.isLt
  simp only [VIn.lanes, List.mem_filter, List.mem_range] at h
  omega

theorem VIn.zeroed_lt (i : VIn) {l : Nat} (h : l ∈ i.zeroed) : l < 1024 := by
  have := i.x.vl.isLt
  have := ((i.mem_zeroed l).1 h).1.1
  omega

/-- Writing active lanes with f and zeroed lanes with 0. -/
theorem VIn.lane_written (i : VIn) (x : Ve) (rd : Nat) (f : Nat → W32) (r l : Nat) (hl : l < 1024) :
    (x.setLanes rd (i.lanes.map (fun l => (l, f l)) ++ i.zeroed.map fun l => (l, 0))).lane r l =
      if r = rd ∧ i.active l = true then f l
      else if r = rd ∧ l < i.x.vl.val ∧ vZ i.w = true then 0 else x.lane r l := by
  unfold Ve.setLanes Ve.lane
  have hls : ∀ p ∈ (i.lanes.map (fun l => (l, f l)) ++ i.zeroed.map fun l => (l, (0 : W32))), p.1 < 1024 := by
    intro p hp
    rcases List.mem_append.1 hp with hp | hp <;> obtain ⟨k, hk, rfl⟩ := List.mem_map.1 hp
    · exact i.lanes_lt hk
    · exact i.zeroed_lt hk
  rw [look_putAll_lanes 0 rd r l hl _ hls,
    foldl_lanes _ _ _ _ _ _ fun h => fun hz => ((i.mem_zeroed l).1 hz).2 ((i.mem_lanes l).1 h)]
  by_cases e : r = rd
  · subst e
    simp only [if_true, i.mem_lanes, i.mem_zeroed, true_and]
    by_cases ha : i.active l = true <;> simp [ha]
  · simp [e]

/-- An element-wise form gives what `lanesGiven` says. -/
theorem VIn.elementwise_given (i : VIn) (u : Uses) (f : Nat → W32 → W32 → W32 → W32 × Byte) (h : i.ecc u = false) :
    ∃ y fl, i.elementwise u f = .done y fl none ∧ lanesGiven (fun _ => f) i y fl := by
  refine ⟨_, _, (if_neg (by simp [h])), ?_, rfl, ?_⟩
  · intro r l hl
    simp only [List.map_map, Function.comp_def]
    exact i.lane_written i.x (vVd i.w) (fun l => (f l (i.x.lane (vVa i.w) l) (i.b l) (i.x.lane (vVc i.w) l)).1) r l hl
  · simp [List.map_map, Function.comp_def]

/-- A form with predicate results gives what `predsGiven` says. -/
theorem VIn.predwise_given (i : VIn) (u : Uses) (f : Nat → W32 → W32 → Bool × Byte) (h : i.ecc u = false) :
    ∃ y fl, i.predwise u f = .done y fl none ∧ predsGiven (fun _ => f) i y fl := by
  refine ⟨_, _, (if_neg (by simp [h])), ?_, rfl, ?_⟩
  · intro q l hl
    simp only [List.map_map, Function.comp_def]
    unfold Ve.setPreds NatSet.has
    have hls : ∀ p ∈ (i.lanes.map (fun l => (l, (f l (i.x.lane (vVa i.w) l) (i.b l)).1)) ++
        i.zeroed.map fun l => (l, false)), p.1 < 1024 := by
      intro p hp
      rcases List.mem_append.1 hp with hp | hp <;> obtain ⟨k, hk, rfl⟩ := List.mem_map.1 hp
      · exact i.lanes_lt hk
      · exact i.zeroed_lt hk
    rw [look_putAll_lanes false (vPd i.w) q l hl _ hls,
      foldl_lanes _ _ _ _ _ _ fun h => fun hz => ((i.mem_zeroed l).1 hz).2 ((i.mem_lanes l).1 h)]
    by_cases e : q = vPd i.w
    · subst e
      simp only [if_true, i.mem_lanes, i.mem_zeroed, true_and]
      by_cases ha : i.active l = true <;> simp [ha]
    · simp [e]
  · simp [List.map_map, Function.comp_def]

end Sys2Proof.Machine
end

