-- ==== Sys2Proof/Tests/Slice0.lean ====
section
/-! SUPPORT. Small tests of one step each, ill-formed terms that well-formedness refuses, and, for every statement with
hypotheses, a concrete state and operands that meet them, clause by clause (`test_met_<statement>…`). -/

set_option Elab.async false

namespace Sys2Proof.Tests

open Sys2Proof Sys2Proof.Machine

/-! ### Small states -/

/-- The instruction word of a scalar instruction. -/
def ccw (op rd ra rb rc fn imm : Nat) : W64 :=
  BitVec.ofNat 64 (op * 2 ^ 56 + rd * 2 ^ 51 + ra * 2 ^ 46 + rb * 2 ^ 41 + rc * 2 ^ 36 + fn * 2 ^ 32 + imm)

/-- A core that runs a program of context 0. -/
def busy : Core := { Core.reset with prog := some ⟨0, 0, 0⟩, codeLen := 20 }

/-- The part serves, with core 0 as given. -/
def one (k : Core) : State := { State.reset with pkg := .on, cores := [(0, k)] }

/-- Stream t of core 0 meets word w next. -/
def at' (k : Core) (t : Nat) (x : Stream) (w : W64) : State := one (({ k with code := put 0 x.pc w [] } : Core).setStream t x)

/-- A running stream: s1 = 3, s2 = −1, s3 = 3.0, s4 = −10.0, s31 = 7. -/
def x0 : Stream :=
  { Stream.reset with st := .run, pc := 5, s := [(1, 3), (2, -1), (3, 0x40400000), (4, 0xc1200000), (31, 7)] }

def cc (w : W64) : State := at' busy 0 x0 w

/-- A scalar register of stream 0 of core 0 after a command. -/
def reg (i : Instr) (s : State) (r : Nat) : Option W64 :=
  match exec i s with
  | .next s' => some (((s'.core 0).stream 0).reg r)
  | _ => none

/-! ### The control core -/

theorem test_met_ScalarResults :
    ∀ op ∈ [0x80, 0x81, 0x82, 0x83, 0x84, 0x85, 0x86, 0x87, 0x88, 0x89, 0x8A, 0x8B, 0x8C, 0x90, 0x91, 0x92, 0x93, 0x94,
      0x95, 0x96, 0x97, 0x98, 0xA0, 0xA1, 0xA2, 0xA3, 0xA4, 0xA5, 0xBE, 0xBF, 0xE5],
      ∀ r ∈ [0, 31], let w := ccw op r 1 r 3 15 0xFFFFFFFF
        ccRuns (cc w) 0 0 w op := by
  simp only [ccRuns]; decide +kernel

/-- Targets 0 and CODELEN − 1 (inside), −1 and CODELEN (outside); taken and not taken. -/
theorem test_met_ControlTransfers :
    (∀ op ∈ [0xC0, 0xC1, 0xC2, 0xC3, 0xC4, 0xC5, 0xC6, 0xC7],
      ∀ p ∈ [(1, 2, 0xFFFFFFFB), (2, 1, 14), (1, 1, 14), (3, 4, 14)], let w := ccw op 0 p.1 p.2.1 0 0 p.2.2
        ccRuns (cc w) 0 0 w op) ∧
    x0.reg 1 = x0.reg 1 ∧ x0.reg 1 ≠ x0.reg 2 ∧ (x0.reg 2).toInt < (x0.reg 1).toInt ∧ (x0.reg 1).toNat < (x0.reg 2).toNat ∧
    fpCmp (x0.reg 4) (x0.reg 3) = some .lt ∧ fpCmp (x0.reg 3) (x0.reg 4) = some .gt ∧ fpCmp (x0.reg 3) (x0.reg 3) = some .eq ∧
    (∀ n ∈ [0xFFFFFFFB, 14], 0 ≤ (5 : Int) + (ccSimm (ccw 0xC8 1 0 0 0 0 n)).toInt ∧
      (5 : Int) + (ccSimm (ccw 0xC8 1 0 0 0 0 n)).toInt < busy.codeLen) ∧
    (∀ n ∈ [0xFFFFFFFB, 14, 0xFFFFFFFA, 15], ccRuns (cc (ccw 0xC8 1 0 0 0 0 n)) 0 0 (ccw 0xC8 1 0 0 0 0 n) 0xC8) ∧
    (5 : Int) + (ccSimm (ccw 0xC8 1 0 0 0 0 0xFFFFFFFA)).toInt < 0 ∧
    (busy.codeLen : Int) ≤ 5 + (ccSimm (ccw 0xC8 1 0 0 0 0 15)).toInt ∧
    ccRuns (cc (ccw 0xC9 0 1 0 0 0 0)) 0 0 (ccw 0xC9 0 1 0 0 0 0) 0xC9 ∧ (x0.reg 1).toNat % 2 ^ 14 < busy.codeLen := by
  simp only [ccRuns]; decide +kernel

/-- A stream whose s1 is the working store's last aligned doubleword. -/
def xEdge (n : Nat) : Stream := { x0 with s := [(1, BitVec.ofNat 64 (wsSize - n)), (2, 7)] }

theorem test_met_CcMemoryAndRegisters_memory :
    ∀ p ∈ [(0xB0, 8), (0xB1, 4), (0xB2, 8), (0xB3, 4)],
      let w := ccw p.1 5 1 2 0 0 0
      let s := at' busy 0 (xEdge p.2) w
      let off := (((s.core 0).stream 0).reg (ccRa w) + ccSimm w).toNat
      ccRuns s 0 0 w p.1 ∧ off % p.2 = 0 ∧ off + p.2 = wsSize ∧ s.wsBad.has (wsPa 0 off / 8) = false ∧
      s.wsSoft.has (wsPa 0 off / 8) = false ∧ (s.core 0).drainWaits 0 (s.core 0).issued = false ∧
      (s.core 0).hitsDesc 0 (s.core 0).issued off p.2 = false := by
  simp only [ccRuns]; decide +kernel

theorem test_met_CcMemoryAndRegisters_registers :
    (∀ p ∈ [(0xB8, 0x40), (0xB8, 0x2C0), (0xB9, 0x800), (0xB9, 0xE40)], let w := ccw p.1 5 1 2 0 0 p.2
      let k := (cc w).core 0
      ccRuns (cc w) 0 0 w p.1 ∧ p.2 % 8 = 0 ∧ p.2 < 2 ^ 16 ∧ coreAssigned p.2 = true ∧ csrWaits k p.2 = false ∧
      k.allStarted 0 = true ∧ p.2 ≠ 0x1000 ∧ p.2 ≠ 0xE08) ∧
    (∀ p ∈ [(0xBC, 0), (0xBC, 7), (0xBD, 0)], let w := ccw p.1 5 0 0 0 p.2 0
      ccRuns (cc w) 0 0 w p.1 ∧ ∀ i < 8, ((cc w).core 0).summaryWaits i ((cc w).core 0).issued = false) := by
  simp only [ccRuns]; decide +kernel

/-- A stream in exception handling; class cls of the record in SEXC. -/
def xExc (cls : Nat) : Stream := { x0 with st := .exc, sexc := BitVec.ofNat 64 (cls * 2 ^ 52 + 6 * 2 ^ 32) }

theorem test_met_StreamControl :
    (∀ p ∈ [(0xD0, 2), (0xE1, 3), (0xE6, 0), (0xE0, 0), (0xE2, 0)], let w := ccw p.1 0 1 2 0 p.2 0
      ccRuns (cc w) 0 0 w p.1 ∧ ((cc w).core 0).fenceClear 0 (ccFn w) = true ∧ ccFn w % 4 ≠ (if p.1 = 0xD0 then 3 else 4) ∧
      ccRa w ≠ 31 ∧ (((cc w).core 0).stream 0).st = .run) ∧
    (∀ cls ∈ [0, 1, 2, 3], ∀ fn ∈ [0, 1], let w := ccw 0xE4 0 1 0 0 fn 0
      let s := at' busy 0 (xExc cls) w
      ccRuns s 0 0 w 0xE4 ∧ ((s.core 0).stream 0).st = .exc ∧ fld ((s.core 0).stream 0).sexc.toNat 55 52 = cls ∧
      ((s.core 0).stream 1).st ≠ .exc ∧ ((s.core 0).stream 2).st ≠ .exc) ∧
    (let w := ccw 0xE4 0 1 0 0 0 0
     let s := at' (busy.setStream 2 (xExc 0)) 0 (xExc 1) w
     ccRuns s 0 0 w 0xE4 ∧ ((s.core 0).stream 0).st = .exc ∧ ((s.core 0).stream 2).st = .exc) := by
  simp only [ccRuns]; decide +kernel

/-- An array command of opcode op and unit 0: ZERO of the whole array. -/
theorem test_met_CommandIssue :
    (let w := ccw 0xD1 0 1 2 0 0 0
     let k := (cc w).core 0
     ccRuns (cc w) 0 0 w 0xD1 ∧ allotted k 0 0 (x0.reg 1) (x0.reg 2) = true ∧ ((k.mxa 0).half 0).queue.length < 16) ∧
    (let w := ccw 0xD2 0 1 2 0 0 0
     ccRuns (cc w) 0 0 w 0xD2 ∧ ((cc w).core 0).seQueue.length < 64) ∧
    (let w := ccw 0xD3 0 1 2 0 0 0
     let k := (cc w).core 0
     ccRuns (cc w) 0 0 w 0xD3 ∧ k.cpq.length + (if k.copy.isSome then 1 else 0) < 16) := by
  simp only [ccRuns]; decide +kernel

theorem test_add_wraps : reg (.add 0 0) (cc (ccw 0x80 5 1 2 0 0 0)) 5 = some 2 := by decide +kernel
theorem test_add_s0 : reg (.add 0 0) (cc (ccw 0x80 0 1 2 0 0 0)) 0 = some 0 := by decide +kernel
theorem test_sra_sign : reg (.sra 0 0) (cc (ccw 0x88 5 2 1 0 0 0)) 5 = some (-1) := by decide +kernel
theorem test_slt_signed : reg (.slt 0 0) (cc (ccw 0x89 5 2 1 0 0 0)) 5 = some 1 := by decide +kernel
theorem test_sltu_unsigned : reg (.sltu 0 0) (cc (ccw 0x8A 5 2 1 0 0 0)) 5 = some 0 := by decide +kernel
theorem test_andi_zero_extends : reg (.andi 0 0) (cc (ccw 0x91 5 2 0 0 0 0xFFFFFFFF)) 5 = some 0xFFFFFFFF := by decide +kernel
theorem test_li_sign_extends : reg (.li 0 0) (cc (ccw 0x97 5 0 0 0 0 0x80000000)) 5 = some 0xFFFFFFFF80000000 := by decide +kernel
theorem test_lih_keeps_low : reg (.lih 0 0) (cc (ccw 0x98 5 1 0 0 0 0x12345678)) 5 = some 0x1234567800000003 := by decide +kernel
theorem test_fadd : reg (.fadd 0 0) (cc (ccw 0xA0 5 3 4 0 0 0)) 5 = some 0xc0e00000 := by decide +kernel
theorem test_fsub : reg (.fsub 0 0) (cc (ccw 0xA1 5 3 4 0 0 0)) 5 = some 0x41500000 := by decide +kernel
theorem test_fmul : reg (.fmul 0 0) (cc (ccw 0xA2 5 3 4 0 0 0)) 5 = some 0xc1f00000 := by decide +kernel
theorem test_fcvtif : reg (.fcvtif 0 0) (cc (ccw 0xA4 5 2 0 0 0 0)) 5 = some 0xbf800000 := by decide +kernel
theorem test_fcvtfi : reg (.fcvtfi 0 0) (cc (ccw 0xA5 5 4 0 0 0 0)) 5 = some (-10) := by decide +kernel
theorem test_jal_link : reg (.jal 0 0) (cc (ccw 0xC8 5 0 0 0 0 14)) 5 = some 6 := by decide +kernel
/-! ### The vector engines -/

/-- The instruction word of a vector instruction with RM = rm, TY = ty, VD = vd, VA = 1, VB = 2, VC = 3, SX = 2. -/
def vw (op ty rm vd tw bcb smen imm : Nat) : W64 :=
  BitVec.ofNat 64 (op * 2 ^ 56 + ty * 2 ^ 52 + rm * 2 ^ 45 + vd * 2 ^ 39 + 1 * 2 ^ 34 + 2 * 2 ^ 29 + 3 * 2 ^ 24 + 2 * 2 ^ 19 +
    tw * 2 ^ 16 + bcb * 2 ^ 14 + smen * 2 ^ 13 + 3 * 2 ^ 10 + imm)

/-- An engine with n lanes: v1 = 1.0, v2 = −3.0 in lane 0. -/
def eng (n : Nat) : Ve := { Ve.reset with vl := Fin.ofNat 1025 n, v := [(1024, 0x3f800000), (2048, 0xc0400000)] }

/-- A running stream 1 that targets engines g; s2 is 1,024 bytes below the working store's end, s3 is 64. -/
def xv (g : Nat) : Stream := { x0 with vtgt := g, s := [(2, 0x7FFC00), (3, 64)] }
def vc (n : Nat) (g : Nat) (w : W64) : State := at' { busy with ve0 := eng n, ve1 := eng n } 1 (xv g) w

/-- Both engines alike: what holds of engine 0 holds of each. -/
theorem ve_alike (n : Nat) (g : Nat) (w : W64) (e : Nat) : ((vc n g w).core 0).ve e = eng n := by
  cases e <;> rfl
theorem vecIn_alike (n : Nat) (g : Nat) (w w' : W64) (e : Nat) :
    vecIn (vc n g w) 0 1 e w' = ⟨0, 1, e, w', eng n, (xv g).reg (vSx w'), (xv g).reg (vSx w' + 1), 0⟩ := by
  cases e <;> rfl
theorem engine_takes (n : Nat) (g : Nat) (w : W64) (e : Nat) :
    let k := (vc n g w).core 0
    k.accOf e = [] ∧ look 0 e k.winIssued < 32 ∧ drainRegs (k.mxa e) k.issued = [] := by
  refine ⟨rfl, (by decide : (0 : Nat) < 32), ?_⟩
  cases e <;> rfl

/-- A vector word meets what `vecRuns` asks. -/
theorem runs_of {n : Nat} {g op : Nat} {w : W64} (hg : g ≤ 2)
    (h : fetch (vc n g w) 0 1 = .word w ∧ w.getLsbD 63 = false ∧ vOp w = op ∧ (vSmen w = true → g ≠ 2)) :
    vecRuns (vc n g w) 0 1 w op :=
  ⟨h.1, h.2.1, h.2.2.1, hg, h.2.2.2, fun e _ => engine_takes n g w e⟩

/-- With every register sound, no source holds an error. -/
theorem ecc_none (i : VIn) (u : Uses) (h : i.x.bad = []) : i.ecc u = false := by
  simp [VIn.ecc, VIn.badLanes, h, NatSet.has]

/-- What the statements about a vector word ask of it: it runs, it is legal for form sp, and no source holds an error. -/
def meets (n : Nat) (g : Nat) (op : Nat) (sp : VSpec) (w : W64) : Prop :=
  vecRuns (vc n g w) 0 1 w op ∧ vBad sp w = false ∧ (∀ e u, (vecIn (vc n g w) 0 1 e w).ecc u = false) ∧
  ∀ e, (((vc n g w).core 0).ve e).bad = [] ∧ (((vc n g w).core 0).ve e).sfBad = [] ∧
    (((vc n g w).core 0).ve e).bankLoading = false

theorem meets_of {n : Nat} {g op : Nat} {sp : VSpec} {w : W64} (hg : g ≤ 2)
    (h : (fetch (vc n g w) 0 1 = .word w ∧ w.getLsbD 63 = false ∧ vOp w = op ∧ (vSmen w = true → g ≠ 2)) ∧ vBad sp w = false) :
    meets n g op sp w :=
  ⟨runs_of hg h.1, h.2, fun e u => ecc_none _ u (by rw [vecIn_alike]; rfl), fun e => by rw [ve_alike]; exact ⟨rfl, rfl, rfl⟩⟩

/-- Opcode, form and types of the element-wise instructions. -/
def elementwise : List (Nat × VSpec × List Nat) :=
  [(0x02, vSpec tyAll, [0, 7]), (0x03, vSpec tyAll, [0, 7]), (0x04, vSpec tyAll, [0, 7]), (0x05, vSpec tyAll, [0, 7]),
   (0x10, vSpec tyArith, [0, 1, 3, 4]), (0x11, vSpec tyArith, [0, 1, 3, 4]), (0x12, vSpec tyArith, [0, 1, 3, 4]),
   (0x13, vSpec tyFloat, [0, 3, 4]), (0x14, vSpec tyFloat, [0, 3, 4]), (0x15, vSpec tyFloat, [0, 3, 4]),
   (0x16, vSpec tyOrder, [0, 1, 2, 3, 4]), (0x17, vSpec tyOrder, [0, 1, 2, 3, 4]), (0x18, vSpec tyFloat, [0, 3, 4]),
   (0x19, vSpec tyFloat, [0, 3, 4]), (0x1B, vSpec tyFloat, [0, 3, 4]), (0x20, vSpec 0x04, [2]), (0x21, vSpec 0x04, [2]),
   (0x22, vSpec 0x04, [2]), (0x23, vSpec 0x06, [1, 2]), (0x24, vSpec 0x06, [1, 2]), (0x25, vSpec 0x06, [1, 2]),
   (0x3D, vSpec tyAll, [0, 7]), (0x58, { vSpec ty32 with imm := 0x1, pair := true }, [0, 1, 2]),
   (0x59, { vSpec tyOrder with pair := true }, [0, 1, 2, 3, 4])]

/-- Every type of the form, one engine and both, no lane and one. -/
theorem test_met_VectorElementwise : ∀ p ∈ elementwise, ∀ ty ∈ p.2.2, ∀ g ∈ [0, 1, 2], ∀ n ∈ [0, 1],
    meets n g p.1 p.2.1 (vw p.1 ty 0 4 0 0 0 0) := by
  have h : ∀ p ∈ elementwise, ∀ ty ∈ p.2.2, ∀ g ∈ [0, 1, 2], ∀ n ∈ [0, 1], let w := vw p.1 ty 0 4 0 0 0 0
      g ≤ 2 ∧ (fetch (vc n g w) 0 1 = .word w ∧ w.getLsbD 63 = false ∧ vOp w = p.1 ∧ (vSmen w = true → g ≠ 2)) ∧
      vBad p.2.1 w = false := by
    decide +kernel
  exact fun p hp ty ht g hg n hn => meets_of (h p hp ty ht g hg n hn).1 (h p hp ty ht g hg n hn).2

/-- Opcode, form and immediate of the instructions that write predicates, and of VNOP and VSETVL. -/
def predicates : List (Nat × VSpec × Nat) :=
  [(0x00, vSpec tyAll, 0), (0x01, vSpec tyAll, 0), (0x1A, { vSpec ty32 with imm := 0x7, pdest := true }, 7),
   (0x38, { vSpec tyAll with pdest := true }, 0), (0x39, { vSpec tyAll with pdest := true }, 0),
   (0x3A, { vSpec tyAll with pdest := true }, 0), (0x3B, { vSpec tyAll with pdest := true }, 0),
   (0x3C, { vSpec tyAll with pdest := true }, 0), (0x5A, { vSpec ty32 with pdest := true, pair := true }, 0)]

theorem test_met_VectorPredicates : ∀ p ∈ predicates, ∀ g ∈ [0, 2],
    meets 1 g p.1 p.2.1 (vw p.1 0 0 4 0 0 0 p.2.2) := by
  have h : ∀ p ∈ predicates, ∀ g ∈ [0, 2], let w := vw p.1 0 0 4 0 0 0 p.2.2
      g ≤ 2 ∧ (fetch (vc 1 g w) 0 1 = .word w ∧ w.getLsbD 63 = false ∧ vOp w = p.1 ∧ (vSmen w = true → g ≠ 2)) ∧
      vBad p.2.1 w = false := by
    decide +kernel
  exact fun p hp g hg => meets_of (h p hp g hg).1 (h p hp g hg).2

/-- The forms of VCVT and VCVTMX, by their word and destination type. -/
def cvtForm (w : W64) (d : Nat) : VSpec :=
  { types := tyConvert, imm := 0xF, pdest := false, pair := vRm w == 5, sr := decide (3 ≤ d) && decide (d ≤ 6)
    bad := !bitOf tyConvert d }
def mxForm (w : W64) (d : Nat) : VSpec :=
  { types := 0x01, imm := 0xF, pdest := false, pair := vRm w == 5, sr := true, bad := decide (d < 3) || decide (7 < d) }

/-- A list of words that meet what is asked of them. -/
theorem meets_all {α : Type} {l : List α} {op : α → Nat} {sp : α → VSpec} {w : α → W64} {g : Nat} (hg : g ≤ 2)
    (h : ∀ p ∈ l, (fetch (vc 1 g (w p)) 0 1 = .word (w p) ∧ (w p).getLsbD 63 = false ∧ vOp (w p) = op p ∧
      (vSmen (w p) = true → g ≠ 2)) ∧ vBad (sp p) (w p) = false) :
    ∀ p ∈ l, meets 1 g (op p) (sp p) (w p) :=
  fun p hp => meets_of hg (h p hp)

/-- VCVT between types of one element size and of different ones, VCVTMX to every format, VPERM and VPERMR. -/
theorem test_met_VectorPermuteConvert :
    (∀ op ∈ [0x40, 0x41], meets 1 2 op (vSpec tyAll) (vw op 0 0 4 1 0 0 0)) ∧
    (∀ p ∈ [(0, 1, 0), (0, 0, 0), (3, 4, 5), (0, 3, 5), (3, 0, 0), (0, 5, 0), (5, 0, 0)],
      let w := vw 0x30 p.1 p.2.2 4 0 0 0 p.2.1
      meets 1 2 0x30 (cvtForm w p.2.1) w) ∧
    (∀ d ∈ [3, 4, 5, 6, 7], let w := vw 0x31 0 0 4 0 0 0 d
      meets 1 2 0x31 (mxForm w d) w) ∧
    perLane 0 = perLane 1 ∧ perLane 3 = perLane 4 ∧ perLane 0 ≠ perLane 3 ∧ perLane 0 ≠ perLane 5 := by
  refine ⟨meets_all (by decide) ?_, meets_all (by decide) ?_, meets_all (by decide) ?_, by decide⟩ <;> decide +kernel

/-- No word of the small state's working store holds an error. -/
theorem clean_all (n g : Nat) (w : W64) (l : List Nat) :
    ∀ a ∈ l, (vc n g w).wsBad.has (wsPa 0 a / 8) = false ∧ (vc n g w).wsSoft.has (wsPa 0 a / 8) = false :=
  fun _ _ => ⟨rfl, rfl⟩

theorem test_met_VectorMemory :
    (∀ op ∈ [0x48, 0x49], ∀ tw ∈ [0, 1, 6], let w := vw op 0 0 4 tw 0 0 0
      meets 1 2 op (memSpec w) w ∧ ((vc 1 2 w).core 0).drainWaits 1 ((vc 1 2 w).core 0).issued = false ∧
      ∀ e, (vecIn (vc 1 2 w) 0 1 e w).memCheck = none ∧
        storeWaits (vc 1 2 w) (vecIn (vc 1 2 w) 0 1 e w) ((vecIn (vc 1 2 w) 0 1 e w).memLanes.map (·.2)) = false) ∧
    (∀ op ∈ [0x4A, 0x4B], let w := vw op 0 0 4 0 0 0 0
      meets 1 2 op gatherSpec w ∧ ((vc 1 2 w).core 0).drainWaits 1 ((vc 1 2 w).core 0).issued = false ∧
      ∀ e, (vecIn (vc 1 2 w) 0 1 e w).gatherCheck = none ∧
        storeWaits (vc 1 2 w) (vecIn (vc 1 2 w) 0 1 e w) ((vecIn (vc 1 2 w) 0 1 e w).gatherLanes.filterMap (·.2)) = false) := by
  have h : ∀ op ∈ [0x48, 0x49], ∀ tw ∈ [0, 1, 6], let w := vw op 0 0 4 tw 0 0 0
      let i : VIn := ⟨0, 1, 0, w, eng 1, (xv 2).reg (vSx w), (xv 2).reg (vSx w + 1), 0⟩
      ((fetch (vc 1 2 w) 0 1 = .word w ∧ w.getLsbD 63 = false ∧ vOp w = op ∧ (vSmen w = true → 2 ≠ 2)) ∧
        vBad (memSpec w) w = false) ∧ ((vc 1 2 w).core 0).drainWaits 1 ((vc 1 2 w).core 0).issued = false ∧
      i.memCheck = none ∧ storeWaits (vc 1 2 w) i (i.memLanes.map (·.2)) = false := by decide +kernel
  have g : ∀ op ∈ [0x4A, 0x4B], let w := vw op 0 0 4 0 0 0 0
      let i : VIn := ⟨0, 1, 0, w, eng 1, (xv 2).reg (vSx w), (xv 2).reg (vSx w + 1), 0⟩
      ((fetch (vc 1 2 w) 0 1 = .word w ∧ w.getLsbD 63 = false ∧ vOp w = op ∧ (vSmen w = true → 2 ≠ 2)) ∧
        vBad gatherSpec w = false) ∧ ((vc 1 2 w).core 0).drainWaits 1 ((vc 1 2 w).core 0).issued = false ∧
      i.gatherCheck = none ∧ storeWaits (vc 1 2 w) i (i.gatherLanes.filterMap (·.2)) = false := by decide +kernel
  refine ⟨fun op ho tw ht => ?_, fun op ho => ?_⟩
  · have q := h op ho tw ht
    exact ⟨meets_of (by decide) q.1, q.2.1, fun e => by rw [vecIn_alike]; exact q.2.2⟩
  · have q := g op ho
    exact ⟨meets_of (by decide) q.1, q.2.1, fun e => by rw [vecIn_alike]; exact q.2.2⟩

/-- Every reduction, without and with the summary register (one engine), and by rows. -/
theorem test_met_VectorReductions :
    (∀ m ∈ [0, 1, 2, 3, 4, 5, 6], let w := vw 0x50 0 0 4 0 0 0 m
      meets 1 2 0x50 (redSpec false w) w) ∧
    (∀ m ∈ [0, 6], let w := vw 0x50 0 0 4 0 0 1 m
      meets 1 1 0x50 (redSpec false w) w) ∧
    (∀ p ∈ [(0, 1), (6, 6)], let w := vw 0x51 0 0 4 p.2 0 0 p.1
      meets 1 2 0x51 (redSpec true w) w) ∧
    vSmen (vw 0x50 0 0 4 0 0 1 0) = true ∧ ((vc 1 1 (vw 0x50 0 0 4 0 0 1 0)).core 0).summaryWaits 3 0 = false := by
  refine ⟨meets_all (by decide) ?_, meets_all (by decide) ?_, meets_all (by decide) ?_, by decide, by decide +kernel⟩ <;>
    decide +kernel

/-- An engine that has loads queued and a table word with a single-bit error, on core 0 of a program. -/
def sfCore (ls : List SfLoad) : State :=
  one { busy with ve1 := { eng 1 with loads := ls, sfSoft := [((1 * 32 + 31) * 128 + 127, true)] } }
def zeroLoad : SfLoad := ⟨1, 31, List.replicate 1024 0, .stream 1 7⟩

theorem test_met_SpecialFunctions :
    (∀ p ∈ [(0x60, 0), (0x61, 31), (0x61, 0x21F)], let w := vw p.1 0 0 4 0 3 0 p.2
      meets 1 2 p.1 { vSpec tyFloat with imm := 0x31F, pair := bitOf (vImm w) 9 && vBcb w == 3 } w) ∧
    (∀ b ∈ [0, 1], let w := vw 0x62 0 0 4 0 0 0 b
      meets 1 2 0x62 { vSpec tyAll with imm := 0x1 } w) ∧
    (∀ e, (((vc 1 2 (vw 0x62 0 0 4 0 0 0 1)).core 0).ve e).streamLoad = false) ∧
    (let w := vw 0x63 0 0 4 0 0 1 0x3F
     let s := vc 1 1 w
     let off := (((s.core 0).stream 1).reg (vSx w)).toNat
     meets 1 1 0x63 { vSpec tyAll with imm := 0x3F } w ∧ vSmen w = true ∧ (s.core 0).summaryWaits (vMs w) (s.core 0).issued = false ∧
     off % 64 = 0 ∧ off + 1024 = wsSize ∧ vImm w / 32 % 2 ≠ ((s.core 0).ve 1).bankSel ∧
     (∀ a, off ≤ a → a < off + 1024 → s.wsBad.has (wsPa 0 a / 8) = false ∧ s.wsSoft.has (wsPa 0 a / 8) = false) ∧
     imageOk (s.ws 0 off 1024) = true) ∧
    ((sfCore [zeroLoad]).coreRuns 0 = true ∧ (((sfCore [zeroLoad]).core 0).ve 1).loads = [zeroLoad] ∧
      zeroLoad.origin = .stream 1 7) ∧
    (((sfCore []).core 0).ve 1).sfBad.has ((1 * 32 + 31) * 128 + 127) = false ∧
    (((sfCore []).core 0).ve 1).sfSoft.has ((1 * 32 + 31) * 128 + 127) = true := by
  refine ⟨meets_all (by decide) ?_, meets_all (by decide) ?_, fun e => by rw [ve_alike]; decide +kernel,
    ⟨meets_of (by decide) ?_, ?_, ?_, ?_, ?_, ?_, fun _ _ _ => ⟨rfl, rfl⟩, ?_⟩, ?_, ?_, ?_⟩ <;> decide +kernel

/-- Opcode, types and legal IMM bits of the row-statistics instructions, and whether they write VD + 1. -/
def rowForms : List (Nat × Nat × Nat × Bool) :=
  [(0x70, tyFloat, 0xBF, true), (0x71, tyFloat, 0x3F, false), (0x72, tyFloat, 0xFF, true), (0x73, tyAll, 0x3F, false),
   (0x74, tyFloat, 0x3F, false), (0x75, tyFloat, 0x7F, true), (0x76, tyFloat, 0xBF, false), (0x77, 0x01, 0xBF, false)]

/-- The last state slot of the view, with every other IMM bit that is legal; one row and 64 rows. -/
theorem test_met_RowStatistics : ∀ p ∈ rowForms.flatMap fun f => [(f, 0, f.2.2.1), (f, 3, f.2.2.1 - 7), (f, 6, 0)],
    let w := vw p.1.1 0 0 (if p.1.2.2.2 then 30 else 31) p.2.1 0 0 p.2.2
    meets 1 2 p.1.1 (rsSpec p.1.2.1 p.1.2.2.1 p.1.2.2.2 false w) w :=
  meets_all (by decide) (by decide +kernel)
/-! ### Exceptions, ends, gates -/

theorem test_met_RaiseException :
    (∀ h ∈ [0, 1, 16383], let w := ccw 0xE3 0 0 0 0 0 0xFFFFFFFF
      let s := at' { busy with xvec := put 0 0 h [] } 0 x0 w
      ccRuns s 0 0 w 0xE3 ∧ ((s.core 0).stream 0).st = .run ∧ look 0 0 (s.core 0).xvec = h) := by
  simp only [ccRuns]; decide +kernel

/-- A core whose stream 2 waits with an exception, or has issued END. -/
def excCore (x : Stream) : State := one (({ busy with xvec := [(2, 7)], cfg := 7 } : Core).setStream 2 x)
def exc1 : PendExc := ⟨Code.badParam, 0, 0xC8, 0, false⟩
/-- The update stream of core 0 at the gate. -/
def gateCore (gnf : W64) : State :=
  { at' { busy with gate := some ⟨5, 0xFFFF⟩, gnf := gnf } 2 x0 (ccw 0xB9 0 1 2 0 0 0xE08) with tbtime := 4 }
def gnfWord (step cnt f : Nat) : W64 := BitVec.ofNat 64 (step * 2 ^ 32 + cnt * 2 ^ 8 + f)

theorem test_met_StreamEvents :
    (∀ es ∈ [[exc1], [⟨Code.badParam, 7, 1, 0, false⟩, exc1]], let s := excCore { x0 with pend := es }
     s.coreRuns 0 = true ∧ (s.core 0).prog ≠ none ∧ ((s.core 0).stream 2).pend = es ∧ ((s.core 0).stream 2).st = .run ∧
     (s.core 0).gate = none ∧ look 0 2 (s.core 0).xvec ≠ 0) ∧
    (let s := excCore { x0 with ending := true }
     ((s.core 0).stream 2).ending = true ∧ ((s.core 0).stream 2).pend = [] ∧ (s.core 0).endClear 2 = true ∧ (s.core 0).cfgSeq = false ∧
     (s.core 0).named 0 = true ∧ ((s.core 0).stream 0).st ≠ .done) ∧
    (∀ v ∈ [0, 5 * 2 ^ 32 + 0xFFFF], let w := ccw 0xB9 0 1 2 0 0 0xE08
      let s := at' busy 2 { x0 with s := [(2, BitVec.ofNat 64 v)] } w
      ccRuns s 0 2 w 0xB9 ∧ ccImm w = 0xE08 ∧ (s.core 0).allStarted 2 = true ∧
      fld ((s.core 0).u.reg (ccRb w)).toNat 15 0 = v % 2 ^ 16) := by
  simp only [ccRuns]; decide +kernel

/-- GNF says finite, nonfinite, error, and error with nonfinite. -/
theorem test_met_StreamEvents_gate :
    ∀ f ∈ [2, 3, 6, 7], let s := gateCore (gnfWord 5 0xFFFF f)
      s.coreRuns 0 = true ∧ (s.core 0).prog ≠ none ∧ (s.core 0).u.pend = [] ∧ (s.core 0).u.st = .run ∧
      (s.core 0).gate = some ⟨5, 0xFFFF⟩ ∧ gnfValid (s.core 0).gnf = true ∧ gnfStep (s.core 0).gnf = 5 ∧
      0xFFFF ≤ gnfCnt (s.core 0).gnf ∧ gnfErr (s.core 0).gnf = decide (6 ≤ f) ∧ gnfNf (s.core 0).gnf = decide (f % 2 = 1) := by
  decide +kernel

/-- Opcodes no unit lists. -/
theorem test_met_UnlistedOpcodes :
    (let s := cc (ccw 0xFF 0 0 0 0 0 0)
     fetch s 0 0 = .word (ccw 0xFF 0 0 0 0 0 0) ∧ (ccw 0xFF 0 0 0 0 0 0).getLsbD 63 = true ∧
     ccListed (ccOp (ccw 0xFF 0 0 0 0 0 0)) = false ∧ ((s.core 0).stream 0).st = .run) ∧
    (∀ e ∈ [0, 1], let w := ccw 0x7F 0 0 0 0 0 0
      let s := at' busy 0 { x0 with vtgt := e } w
      fetch s 0 0 = .word w ∧ w.getLsbD 63 = false ∧ vListed (vOp w) = false ∧ ((s.core 0).stream 0).vtgt = e ∧
      ((s.core 0).stream 0).st = .run ∧ (∀ d < 2, (s.core 0).accOf d = []) ∧ look 0 e (s.core 0).winIssued < 32) ∧
    (∀ op ∈ [0, 7, 15], let e : ArrCmd := ⟨3, 0, BitVec.ofNat 64 (op * 2 ^ 60), 0, none⟩
      let s := one { busy with mxa1 := { Mxa.reset with east := { Half.reset with queue := [e] } } }
      s.coreRuns 0 = true ∧ (((s.core 0).mxa 1).half 1).head = some e ∧ (arOp e = 0 ∨ 6 < arOp e) ∧
      (((s.core 0).mxa 1).half 1).fenced = false) ∧
    (∀ op ∈ [0, 4, 15], let e : SeCmd := ⟨3, 0, BitVec.ofNat 64 (op * 2 ^ 60), 0, .queued, [], false⟩
      let s := one { busy with seq := [e] }
      s.coreRuns 0 = true ∧ (s.core 0).seHead = some e ∧ e.stage = .queued ∧ (seOp e.w0 = 0 ∨ 3 < seOp e.w0)) := by
  decide +kernel

/-! ### Matrix arrays -/

/-- A word from (value, lowest bit) pairs. -/
def bits (l : List (Nat × Nat)) : W64 := BitVec.ofNat 64 (l.foldl (fun a p => a + p.1 * 2 ^ p.2) 0)
def acmd (l m : List (Nat × Nat)) : ArrCmd := ⟨3, 0, bits l, bits m, none⟩

/-- Core 0 with command e at the head of queue q of array 1. -/
def arr (q : Nat) (e : ArrCmd) (m : Mxa) : State :=
  one { busy with mxa1 := m.setHalf q { m.half q with queue := [e] }, grant := 100 }

/-- A split array, and one with a valid set 0 of format f, its partner holding the low halves of an FP32 load. -/
def split : Mxa := { Mxa.reset with split := true }
def loaded (f : Nat) : Mxa :=
  { Mxa.reset with west := { Half.reset with set0 := ⟨true, f, false⟩, set1 := ⟨true, f, f == 10⟩ } }

theorem wsClean_of {s : State} {c : Nat} {l : List (Nat × Nat)} (h1 : s.wsBad = []) (h2 : s.wsSoft = [])
    (h : ∀ r ∈ l, r.1 + r.2 ≤ wsSize) : wsClean s c l := by
  intro r hr
  refine ⟨h r hr, fun o _ _ => ?_⟩
  rw [h1, h2]
  exact ⟨rfl, rfl⟩

/-- LDST of one row of a format, whole and split, at the end of the working store; FP32 fills both sets. -/
theorem test_met_ArrayLoad :
    ∀ p ∈ [(0, 0), (1, 0), (8, 0), (10, 0), (0, 1), (10, 1)],
      let e := acmd ([(1, 60), (p.1, 52), (1, 44), (64, 24), (0x7FF000, 0)] ++ if p.2 = 1 then [(2, 58)] else []) [(0x7FF800, 0)]
      let m := if p.2 = 1 then split else Mxa.reset
      let s := arr p.2 e m
      let cols := ((s.core 0).mxa 1).cols (((s.core 0).mxa 1).span p.2)
      arrRuns s 0 1 p.2 e 1 ∧ ldstCheck e = none ∧ (s.core 0).drainWaits e.stream e.id = false ∧
      ∀ r ∈ ldstRanges e cols.length, r.1 + r.2 ≤ wsSize := by
  simp only [arrRuns]; decide +kernel

/-- PASS of one vector, without and with ACC, whole and split, BF16, INT8 and FP32. -/
theorem test_met_ArrayPass :
    ∀ p ∈ [(0, 0, 0), (1, 0, 0), (1, 1, 0), (10, 1, 0), (1, 1, 1)],
      let e := acmd ([(2, 60), (p.1, 52), (p.1, 48), (p.2.1, 56), (1, 40), (1, 32), (0x7FF000, 0)] ++ if p.2.2 = 1 then [(1, 58)] else [])
        [(1, 54), (511, 45), (64, 24)]
      let m := { loaded p.1 with split := decide (p.2.2 = 1) }
      let s := arr 0 e m
      let k := s.core 0
      let m := k.mxa 1
      let h := m.span 0
      let y := m.half h
      let lv := max 1 y.level
      arrRuns s 0 1 0 e 2 ∧ passCheck y (m.cols h).length e = none ∧ k.drainWaits e.stream e.id = false ∧
      paAcc e = decide (p.2.1 = 1) ∧ (∀ n ∈ m.poisonKeys h (paRow e) (paM e), m.poison.has n = false) ∧
      (∀ n ∈ passKeys m h e, m.accBad.has n = false) ∧ k.prog ≠ none ∧
      levelBook (passCharge m.split (paFs e) (paFm e) (paRows e)) lv ≤ k.unbooked + y.book ∧
      ∀ r ∈ (List.range (paM e)).flatMap (passRanges e), r.1 + r.2 ≤ wsSize := by
  simp only [arrRuns]; decide +kernel

/-- DRAIN of the last row to the end of the working store and to the last register, whole and split, every result
format. -/
theorem test_met_ArrayDrain :
    ∀ p ∈ [(0, 0, 0), (1, 0, 1), (4, 0, 0), (7, 0, 0), (1, 1, 0), (6, 1, 1)],
      let e := acmd [(3, 60), (p.2.2, 58), (1, 57), (p.1, 49), (p.2.1, 48), (511, 39), (1, 29),
        (if p.2.1 = 0 then 0x7FFC00 else 31 * 8 + 7, 0)] []
      let s := arr 0 e { Mxa.reset with split := decide (p.2.2 = 1) }
      let k := s.core 0
      let m := k.mxa 1
      let h := m.span 0
      arrRuns s 0 1 0 e 3 ∧ drainCheck e = none ∧ (∀ n ∈ m.poisonKeys h (drRow e) (drN e), m.poison.has n = false) ∧
      drN e = 1 ∧ drDest e = decide (p.2.1 = 1) ∧
      (drDest e = false → k.hitsDesc e.stream e.id (arAddr e) (drN e * m.width * drBytes e) = false ∧
        arAddr e + m.width * drBytes e ≤ wsSize) ∧ m.accBad = [] ∧ s.wsBad = [] ∧ k.accOf 1 = [] := by
  simp only [arrRuns]; decide +kernel

theorem test_met_ArrayControl :
    (∀ p ∈ [(4, 0, 0), (4, 1, 1), (5, 0, 0), (5, 0, 1), (6, 0, 0), (6, 1, 1)],
      let e := acmd [(p.1, 60), (p.2.1, 58), (if p.1 = 5 then p.2.2 else 0, 57), (511, 39), (1, 29)] []
      let y := { Mxa.reset with split := decide (p.2.1 = 1), poison := [(511, true)] }
      let s := arr 0 e (if p.1 = 6 then y.setHalf 0 { y.half 0 with fenced := true } else y)
      let m := (s.core 0).mxa 1
      arrRuns s 0 1 0 e p.1 ∧ drN e ≠ 0 ∧ drRow e + drN e = 512 ∧ (∀ x ∈ m.west.queue ++ m.east.queue, e.id ≤ x.id) ∧
        (p.1 = 5 → m.west.fenced = false ∧ m.east.fenced = false)) ∧
    (let e := acmd [(5, 60)] []
     let s := arr 0 e { split with east := { Half.reset with fenced := true } }
     arrRuns s 0 1 0 e 5 ∧ ((s.core 0).mxa 1).east.fenced = true) ∧
    (let e := acmd [(2, 60)] []
     let s := arr 0 e { Mxa.reset with west := { Half.reset with fenced := true } }
     s.coreRuns 0 = true ∧ (((s.core 0).mxa 1).half 0).head = some e ∧ arOp e = 2 ∧ (((s.core 0).mxa 1).half 0).fenced = true ∧
     (look .reset (testKey 0 1 0) s.agg.tests).failNext = false) ∧
    (let e := acmd [(4, 60), (3, 58)] []
     let s := arr 0 e Mxa.reset
     s.coreRuns 0 = true ∧ (((s.core 0).mxa 1).half 0).head = some e ∧ arOp e = 4 ∧ (((s.core 0).mxa 1).half 0).fenced = false ∧
     arHalf e = 3) := by
  simp only [arrRuns]; decide +kernel
/-! ### Events of the arrays, and the stream engine -/

theorem test_met_ArrayEvents_done :
    (∀ p ∈ ([(0x0F, 0), (0x01, 1)] : List (Nat × Nat)), let e : ArrCmd := ⟨3, 0, 0, 0, some (BitVec.ofNat 8 p.1)⟩
      let s := one { busy with mxa1 := split.setHalf p.2 { Half.reset with queue := [e] } }
      s.coreRuns 0 = true ∧ (((s.core 0).mxa 1).half p.2).queue = [e] ∧ (BitVec.ofNat 8 p.1).toNat < 0x10) ∧
    (let e : ArrCmd := ⟨3, 0, 0, 0, some Code.badParam⟩
     let s := one (({ busy with mxa1 := split.setHalf 1 { Half.reset with queue := [e] } } : Core).setStream 0 x0)
     (((s.core 0).mxa 1).half 1).queue = [e] ∧ ((s.core 0).stream 0).st = .run) := by
  decide +kernel

theorem test_met_ArrayEvents_mask :
    ∀ lo ∈ [true, false], let s := one { Core.reset with mxa1 := { Mxa.reset with
        pendLo := if lo then some 5 else none, pendHi := if lo then none else some 0 } }
      s.coreRuns 0 = true ∧ (s.core 0).prog = none ∧ ((s.core 0).mxa 1).west.queue = [] ∧ ((s.core 0).mxa 1).east.queue = [] ∧
      (((s.core 0).mxa 1).pendLo ≠ none ∨ ((s.core 0).mxa 1).pendHi ≠ none) := by
  decide +kernel

/-- Halves that may rise, from level 1 and to level 8, and one at level 8; a tail ends and another falls. -/
theorem test_met_ArrayEvents_ramp :
    ∀ p ∈ ([(1, 0), (7, 1), (8, 1)] : List (Nat × Nat)),
      let h : Half := { Half.reset with level := p.1, charge := 1, book := 1, tails := [⟨1, 8, 1⟩, ⟨8, 8, 8⟩] }
      let s := one { busy with grant := 8, mxa1 := split.setHalf p.2 h }
      let x := ((s.core 0).mxa 1).half p.2
      s.coreRuns 0 = true ∧ s.power.waiting = [] ∧ (p.2 = 0 ∨ ((s.core 0).mxa 1).split = true) ∧ x.level ≠ 0 ∧
      (x.level < 8 ∧ levelBook x.charge (x.level + 1) ≤ (s.core 0).unbooked + x.book ∨ x.level = 8) := by
  decide +kernel

theorem test_met_SeCommandChecks_post :
    ∀ n ∈ ([0, 0xFFFE, 0xFFFF] : List Nat), let s := one { busy with tc := put 0 255 (BitVec.ofNat 16 n) [] }
      s.dieState (dieOf 0) ≠ .parked ∧ (s.core 0).tcOf 255 = BitVec.ofNat 16 n := by
  decide +kernel

/-- Doublewords in little-endian order. -/
def w64s (l : List Nat) : List Byte := l.flatMap fun n => leBytes 8 n
/-- Memory with bytes laid at addresses, the zero bytes left out. -/
def pokes (s : State) (l : List (Nat × List Byte)) : State :=
  { s with mem := l.foldr (fun p m => ((pairs p.1 p.2).filter fun q => q.2 != 0) ++ m) s.mem }

/-- Context 0 maps its first GiB to the working stores, core 0's first. -/
def paged (s : State) : State :=
  s.setCtx 0 { Ctx.reset with en := true, root := some 0x100000, xc := [(0, 0x200001), (1, 0x1000000000F)], cores := -1 }

/-- A descriptor of one one-byte element at va. -/
def desc1 (va : Nat) : List Byte := w64s ([2 ^ 60 + va, 0xE4000000] ++ [2 ^ 41 + 1] ++ List.replicate 13 0)

/-- Core 0 whose descriptors at 0x80 and 0x100 name the bytes at 0x2000 and 0x3000. -/
def seState (k : Core) : State := paged (pokes (one k) [(wsPa 0 0x80, desc1 0x2000), (wsPa 0 0x100, desc1 0x3000)])

/-- A stream-engine command: LOAD or STORE of the element at 0x2000 with local address 0x8000, or a POST. -/
def seCmd (op : Nat) (stage : SeStage) (bad : Bool) : SeCmd :=
  ⟨7, 0, bits [(op, 60), (if op = 3 then 1 else 0, 55), (0, 40), (5, 32), (if op = 3 then 0 else 0x8000, 0)],
    if op = 3 then 0 else 0x80, stage, [], bad⟩

theorem test_met_SeCommandChecks :
    (∀ op ∈ [1, 2], let e := seCmd op .queued false
      let s := seState { busy with seq := [e] }
      s.coreRuns 0 = true ∧ (s.core 0).seHead = some e ∧ e.stage = .queued ∧ seOp e.w0 = op ∧
      seCheck s e.w0 e.w1 = none ∧ seDesc e.w1 + 128 ≤ wsSize ∧ (s.core 0).drainWaits e.stream e.id = false ∧
      s.wsBad = [] ∧ s.wsSoft = [] ∧ descCheck (descOf (s.ws 0 (seDesc e.w1) 128)) (op == 1) (seLaddr e.w0) = none) ∧
    (let e := seCmd 3 .queued false
     let s := seState { busy with seq := [e] }
     s.coreRuns 0 = true ∧ (s.core 0).seHead = some e ∧ seOp e.w0 = 3 ∧ seCheck s e.w0 e.w1 = none) ∧
    (let e : SeCmd := ⟨7, 0, bits [(1, 60), (1, 24)], 0, .queued, [], false⟩
     let s := seState (({ busy with seq := [e] } : Core).setStream 0 x0)
     s.coreRuns 0 = true ∧ (s.core 0).seHead = some e ∧ seOp e.w0 = 1 ∧ seCheck s e.w0 e.w1 ≠ none ∧
     ((s.core 0).stream e.stream).st = .run) ∧
    (∀ bad ∈ [false, true], let e := seCmd 3 .posting bad
      let s := seState (({ busy with seq := [e] } : Core).setStream 0 x0)
      s.coreRuns 0 = true ∧ (s.core 0).seq.find? (fun e => e.stage == .posting && e.waitFor.isEmpty) = some e ∧ e.bad = bad ∧
      sePen e.w0 = true ∧ s.dieState (dieOf (sePcore e.w0)) ≠ .parked ∧ (s.core (sePcore e.w0)).tcOf (sePctr e.w0) ≠ 0xFFFF ∧
      ((s.core 0).stream e.stream).st = .run) := by
  decide +kernel

/-- A translation succeeds with what a test asks of it. -/
def xlTest (r : State × Xlation) (B : State → Table Nat → Bool) : Bool := match r with | (s, .ok x) => B s x | _ => false

theorem xlated_test {r : State × Xlation} {B : State → Table Nat → Bool} {P : State → Table Nat → Prop}
    (h : xlTest r B = true) (hp : ∀ s x, B s x = true → P s x) : ∃ s x, r = (s, .ok x) ∧ P s x := by
  match r, h with
  | (s, .ok x), h => exact ⟨s, x, rfl, hp s x h⟩

theorem xlated {r : State × Xlation} {P : State → Table Nat → Prop} [∀ s x, Decidable (P s x)]
    (h : xlTest r (fun s x => decide (P s x)) = true) : ∃ s x, r = (s, .ok x) ∧ P s x :=
  xlated_test h fun _ _ => of_decide_eq_true

theorem test_met_Transfers_open :
    ∀ op ∈ [1, 2], let e := seCmd op (.checked (desc1 0x2000)) false
      let s := seState { busy with seq := [e] }
      let d := descOf (desc1 0x2000)
      let la := seLaddr e.w0
      s.coreRuns 0 = true ∧ (s.core 0).seHead = some e ∧ (s.core 0).running.length < 32 ∧
      (s.core 0).blocks + 2 ^ seWin e.w0 ≤ 64 ∧ (s.core 0).running = [] ∧
      ∃ s1 xl, xlate s ((s.core 0).ctx.getD 0) (if op = 1 then d.loadReads la else []) (if op = 1 then [] else d.storeWrites la) =
        (s1, .ok xl) ∧ s1.wsBad = [] ∧ s1.wsSoft = [] ∧ ∀ p ∈ d.storePlan la, p.1 + d.esize ≤ wsSize := by
  have h : ∀ op ∈ [1, 2], let e := seCmd op (.checked (desc1 0x2000)) false
      let s := seState { busy with seq := [e] }
      let d := descOf (desc1 0x2000)
      let la := seLaddr e.w0
      (s.coreRuns 0 = true ∧ (s.core 0).seHead = some e ∧ (s.core 0).running.length < 32 ∧
        (s.core 0).blocks + 2 ^ seWin e.w0 ≤ 64 ∧ (s.core 0).running = []) ∧
      xlTest (xlate s ((s.core 0).ctx.getD 0) (if op = 1 then d.loadReads la else []) (if op = 1 then [] else d.storeWrites la))
        (fun s1 _ => decide (s1.wsBad = [] ∧ s1.wsSoft = [] ∧ ∀ p ∈ d.storePlan la, p.1 + d.esize ≤ wsSize)) = true := by
    decide +kernel
  intro op ho
  obtain ⟨⟨a, b, c, d, e⟩, f⟩ := h op ho
  exact ⟨a, b, c, d, e, xlated f⟩

/-- A running LOAD or STORE of that element, its page translated. -/
def xfer1 (op : Nat) : Transfer :=
  ⟨7, 0, (seCmd op .queued false).w0, 0x80, desc1 0x2000, [(2, wsPa 0 0x2000 / 4096)], if op = 1 then [] else [(0x8000, 5)], op - 1, none, 8, false⟩

theorem test_met_Transfers_end :
    (∀ op ∈ [1, 2], let s := seState { busy with running := [xfer1 op] }
      s.coreRuns 0 = true ∧ (s.core 0).transfer 7 = some (xfer1 op) ∧ (landing s 0 (xfer1 op)).2 = none) ∧
    (let s := { seState (({ busy with running := [xfer1 1] } : Core).setStream 0 x0) with wsBad := [(wsPa 0 0x2000 / 8, true)] }
     s.coreRuns 0 = true ∧ (s.core 0).transfer 7 = some (xfer1 1) ∧ seOp (xfer1 1).w0 = 1 ∧
     ((s.core 0).stream (xfer1 1).stream).st = .run ∧ 0x10 ≤ Code.eccUncorr.toNat ∧
     (readCheck s (loadSources (descOf (xfer1 1).desc) (seLaddr (xfer1 1).w0) (xfer1 1).xl)).2 = some Code.eccUncorr) := by
  decide +kernel
/-! ### Beats, copies, collective commands, launches -/

/-- A stream that waits with SWAP for counter 1 and asks for u units. -/
def swapped (u : Nat) : Stream := { x0 with st := .swap, mask := 2, units := u }
def beatCore (u : Nat) (l : LReq) : Core :=
  ({ busy with csRetired := true, lreq := l, tc := [(1, 3)], dbPend := [(15, some 0x42)] } : Core).setStream 1 (swapped u)

theorem test_met_Beats :
    (∀ p ∈ [(0, LReq.notSent), (8, .granted)], let s := one (beatCore p.1 p.2)
      s.works 0 = true ∧ (s.core 0).beatReady = true ∧ ((s.core 0).lreq = .granted ∨ (s.core 0).unitsAsked = 0) ∧
      wfTable none (s.core 0).dbPend = true) ∧
    (let s := one busy
     s.powered = true ∧ s.coreOn 0 = true ∧ (s.core 0).prog ≠ none) ∧
    (let s := one { beatCore 0 .notSent with csRetired := false }
     s.works 0 = true ∧ (s.core 0).swapped = true ∧ (s.core 0).computeEmpty = true ∧ (s.core 0).csRetired = false) ∧
    (∀ u ∈ [1, 65535], let s := one (beatCore u .notSent)
      s.works 0 = true ∧ (s.core 0).beatReady = true ∧ (s.core 0).lreq = .notSent ∧ (s.core 0).unitsAsked ≠ 0 ∧
      s.power.waiting = [] ∧
      let r : LedgerReq := ⟨.core 0, u, false, none⟩
      let s1 := s.setCore 0 { s.core 0 with lreq := .sent, denied := false, lgReq := BitVec.ofNat 16 (min u 65535) }
      fits { s1 with power := { s.power with waiting := [r] } } r = true) ∧
    (∀ u ∈ [99, 100], let r : LedgerReq := ⟨.core 0, 100, false, some u⟩
     let s := { one (beatCore 100 .sent) with power := { Power.reset with waiting := [⟨.core 1, 7, true, none⟩, r] } }
     s.power.waiting.find? (fun r => decide (r.who = .core 0)) = some r ∧ r.fit = some u) ∧
    (∀ n ∈ [0, 32, 33], let s := one { busy with winIssued := put 0 1 n [] }
     s.coreRuns 0 = true ∧ look 0 1 (s.core 0).winIssued = n) := by
  decide +kernel

/-- A core whose limit of 1 microsecond has passed, without a beat to start. -/
theorem test_met_Beats_watchdog :
    let s := { one { busy with wdLimit := 1, wdStart := 5 } with tbtime := 1005 }
    let k := s.core 0
    s.works 0 = true ∧ k.wdLimit ≠ 0 ∧ k.wdExc = none ∧ k.wdLimit.toNat * 1000 ≤ (s.tbtime - k.wdStart).toNat ∧
    ¬ (k.beatReady = true ∧ (k.lreq = .granted ∨ k.unitsAsked = 0)) := by
  decide +kernel

/-- A copy of the byte at 0x2000 to 0x3000. -/
def copy1 : CopyCmd := ⟨7, 0, 0, 0, bits [(1, 60), (228, 48), (0x80, 0)], bits [(0x100, 0)]⟩

theorem test_met_Copies_start :
    let s := seState { busy with cpq := [copy1] }
    let k := s.core 0
    let a := descOf (s.ws 0 (cpSdesc copy1.w0) 128)
    let b := descOf (s.ws 0 (cpDdesc copy1.w1) 128)
    let plan := copyPlan a b (cpPerm copy1.w0)
    (s.coreRuns 0 = true ∧ k.cpq = [copy1] ∧ k.copy = none ∧ k.drainWaits copy1.stream copy1.id = false ∧
      copyCheck s copy1.w0 copy1.w1 = none ∧ s.wsBad = [] ∧ s.wsSoft = [] ∧ cpSdesc copy1.w0 + 128 ≤ wsSize ∧
      cpDdesc copy1.w1 + 128 ≤ wsSize ∧ copyDescCheck a b (cpPerm copy1.w0) = none ∧
      overlapBytes (hull (copyReads a plan)) (hull (copyWrites b plan)) = 0) ∧
    ∃ s1 xl, xlate (s.setCore 0 { k with cpq := [] }) copy1.ctx (copyReads a plan) (copyWrites b plan) = (s1, .ok xl) ∧
      (readCheck s1 ((copyReads a plan).map (viaXl xl))).2 = none :=
  ⟨by decide +kernel, xlated (by decide +kernel)⟩

theorem test_met_Copies_end :
    let r : CopyRun := ⟨copy1, [(wsPa 0 0x3000, 5)], none⟩
    let s := seState { busy with copy := some r }
    s.coreRuns 0 = true ∧ (s.core 0).copy = some r ∧ r.stop = none ∧ (writeStop s r.writes).2 = none := by
  decide +kernel

/-- A write of CECMD: KIND, CE, HANDLE and INFO. -/
def cecmd (kind ce h info : Nat) : CeWrite := ⟨1, 0, bits [(kind, 62), (ce, 61), (h, 48), (info, 0)], []⟩
def aPlan : Plan := ⟨0, [], [], [], .none⟩

theorem test_met_CollectiveCommands :
    (let w := ccw 0xB9 0 0 1 0 0 0x1000
     let s := at' { busy with cecmd := List.replicate 7 (cecmd 0 0 0 0) } 0 x0 w
     ccRuns s 0 0 w 0xB9 ∧ ccImm w = 0x1000 ∧ (s.core 0).allStarted 0 = true ∧ (s.core 0).cecmd.length < 8) ∧
    (∀ p ∈ [(0, 255, 0), (1, 0, 0x7FFFC0), (3, 0, 0)], let w := cecmd p.1 1 p.2.1 p.2.2
      let s := { one { busy with cecmd := [w] } with ce1 := { Ce.reset with plans := [(255, some aPlan)] } }
      (s.core 0).cecmd = [w] ∧ s.works 0 = true ∧ w.waits = [] ∧ ccmCe w.val = 1 ∧ ccmHandle w.val = p.2.1 ∧
      (p.1 = 0 → ccmKind w.val = 0 ∧ ccmReserved w.val = false ∧ (s.ce 1).plan 255 = some aPlan ∧ aPlan.ctx = w.ctx ∧
        look [] 255 (s.ce 1).waiting = []) ∧
      (p.1 = 1 → ccmKind w.val = 1 ∧ ccmReserved w.val = false ∧ (s.ce 1).xfers.length < 4096 ∧ ccmInfo w.val % 64 = 0 ∧
        ccmInfo w.val + 64 = wsSize ∧ s.wsBad = [] ∧ s.wsSoft = []) ∧
      (p.1 = 3 → ccmReserved w.val = true)) := by
  simp only [ccRuns]; decide +kernel

/-- An image of stream 0 with one word of code and one byte of data, at 0x2000; its launch. -/
def image1 : List Byte := w64s ([0x8160C0DE * 2 ^ 32 + 1 * 2 ^ 24, 1, 0, 0, 1, 1, 0, 0, 256, 0x6000 * 2 ^ 24 + 64] ++ List.replicate 14 0 ++
  [11, 0, 0, 0, 0, 0, 0, 0] ++ [101, 102, 103, 104, 105, 106, 107, 108])
def launch1 : LaunchReq := ⟨3, 0, 0x2000, 0x55⟩
def launchState : State :=
  paged (pokes (one { Core.reset with launches := [launch1], prevCtx := some 0 }) [(wsPa 0 0x2000, image1)])

/-- What the launch asks once its header is translated: its checks pass, and its code and data can be read. -/
def launchRest (s1 : State) (xl : Table Nat) : Prop :=
  let s := launchState
  let k := s.core 0
  let im := imageOf (vaBytes s xl launch1.va 192)
  let r := readCheck s1 ((upFrom launch1.va 192).map (viaXl xl))
  let m0 := k.mxa0.applyMask.prepare (fld im.cfg 7 6 == 2)
  let m1 := k.mxa1.applyMask.prepare (fld im.cfg 7 6 == 2)
  (r.2 = none ∧ im.check (r.1.core 0) = none) ∧
  ∃ s3 xl', xlate ((r.1.answerTests 0).modCore 0 fun k => { k with mxa0 := m0, mxa1 := m1, prevCtx := some launch1.ctx }) launch1.ctx
    (im.reads launch1.va) [] = (s3, .ok xl') ∧ (readCheck s3 ((im.reads launch1.va).map (viaXl xl'))).2 = none

def launchTest (s1 : State) (xl : Table Nat) : Bool :=
  let s := launchState
  let k := s.core 0
  let im := imageOf (vaBytes s xl launch1.va 192)
  let r := readCheck s1 ((upFrom launch1.va 192).map (viaXl xl))
  let m0 := k.mxa0.applyMask.prepare (fld im.cfg 7 6 == 2)
  let m1 := k.mxa1.applyMask.prepare (fld im.cfg 7 6 == 2)
  decide (r.2 = none ∧ im.check (r.1.core 0) = none) &&
  xlTest (xlate ((r.1.answerTests 0).modCore 0 fun k => { k with mxa0 := m0, mxa1 := m1, prevCtx := some launch1.ctx }) launch1.ctx
    (im.reads launch1.va) []) fun s3 xl' => decide ((readCheck s3 ((im.reads launch1.va).map (viaXl xl'))).2 = none)

theorem launchTest_rest (s1 : State) (xl : Table Nat) (h : launchTest s1 xl = true) : launchRest s1 xl := by
  unfold launchTest at h
  rw [Bool.and_eq_true] at h
  exact ⟨of_decide_eq_true h.1, xlated h.2⟩

theorem test_met_CoreLaunches :
    let s := launchState
    let k := s.core 0
    let lr := launch1
    let s0 := (s.setCore 0 { k with launches := [] }).modCore 0 Core.applyPending
    (k.launches = [lr] ∧ s.hasCore 0 = true ∧ s.agg.safe = false ∧ s.dieState (dieOf 0) = .run ∧ s.parking (dieOf 0) = false ∧
      s.agg.oos.has 0 = false ∧ s.agg.tst.has 0 = false ∧ k.prog = none ∧ k.arraysIdle = true ∧ k.prevCtx = some lr.ctx) ∧
    ∃ s1 xl, xlate s0 lr.ctx (upFrom lr.va 192) [] = (s1, .ok xl) ∧ launchRest s1 xl :=
  ⟨by decide +kernel, xlated_test (B := launchTest) (by decide +kernel) launchTest_rest⟩
/-! ### Packets -/

/-- A packet of opcode o with parameter words ws at the front of submission queue 33 of context 0, the PF of port 0, which
holds the stewardship; its reply goes to completion queue 40. -/
def pk (s : State) (o : Op) (ws : List Nat) : State :=
  let w0 := o.code * 2 ^ 56 + 2 ^ 54 + 9 * 2 ^ 32 + 0x77 * 2 ^ 16 + o.plen
  let s := s.setCtx 0 { s.ctx 0 with en := true, cfg := ⟨true, 37, []⟩ }
  let s := s.setSq 33 ⟨some 0, 0x10000, true, 16, 3, 5, 9, false, 40, none⟩
  let s := s.setCq 40 ⟨some 0, 0x20000, true, 16, true, 2, true, 0, 0, 0, [], none⟩
  let s := s.setPort 0 { s.port 0 with up := true }
  { s with pkg := .on, host := { s.host with pidNext := 4, stValid := true, stPort := 0 }
           hmem0 := putRange 0 (0x10000 + 192) (w64s (w0 :: ws)) s.hmem0 }

/-- Core 0 idle, pages mapped; LPDDR in two ranks of 2 GiB. -/
def base : State := paged (one Core.reset)

/-- The packet at the front of queue 33, and the state after it has left its ring. -/
def front (s : State) : Pkt × State :=
  match readSpace s ((s.sq 33).owner.getD 0) (s.sq 33).host ((s.sq 33).ring + 64 * (s.sq 33).head) 64 with
  | (s1, .ok bs) => (⟨33, (s.sq 33).owner.getD 0, packetWords bs, .unit, false, false⟩,
      (takePacket s1 33 ((s.sq 33).owner.getD 0) (packetWords bs) false).2)
  | _ => (⟨33, 0, [], .unit, false, false⟩, s)
def pktOf (s : State) : Pkt := (front s).1
def aft (s : State) : State := (front s).2

/-- A test for `pktFront`. -/
def frontTest (s : State) : Bool :=
  let x := s.sq 33
  let ctx := x.owner.getD 0
  x.owner.isSome && canDispatch s 33 && !s.agg.safe &&
  (match readSpace s ctx x.host (x.ring + 64 * x.head) 64 with
   | (s1, .ok bs) =>
     let p : Pkt := ⟨33, ctx, packetWords bs, .unit, false, false⟩
     decide (p.seq = x.expSeq) && decide ((takePacket s1 33 ctx (packetWords bs) false).1 = 4) &&
     decide (bitOf (p.w 0) 55 = true → sqHas s1 33 (fun r => !r.silent) = false) &&
     decide ((p.opcode = 0x08 ∨ p.opcode = 0x10) →
       sqHas s1 33 (fun r => decide (r.opcode = 1) && decide (r.work ≠ .replied)) = false)
   | _ => false)

theorem front33 {s : State} (h : frontTest s = true) : pktFront s 33 4 (pktOf s) (aft s) := by
  unfold frontTest at h
  unfold pktFront pktOf aft front
  simp only [Bool.and_eq_true, Bool.not_eq_true', Option.isSome_iff_exists] at h
  obtain ⟨⟨⟨⟨ctx, ho⟩, hc⟩, hs⟩, h⟩ := h
  split at h
  · next s1 bs hr =>
    simp only [ho, Option.getD_some] at hr h ⊢
    rw [hr]
    simp only [Bool.and_eq_true, decide_eq_true_eq] at h ⊢
    obtain ⟨⟨⟨h1, h2⟩, h3⟩, h4⟩ := h
    exact ⟨trivial, hc, hs, h1, s1, bs, rfl, rfl, Prod.ext h2.symm rfl, h3, h4⟩
  · exact absurd h (by simp)

/-- A test for `pktRuns`. -/
def runsTest (s : State) (o : Op) : Bool :=
  frontTest s && decide ((pktOf s).opcode = o.code ∧ (0x40 ≤ o.code → firmwareHalted s o (pktOf s).ctx = false) ∧
    hasRight (aft s) (pktOf s).ctx o.right = true ∧ o.formOk (pktOf s).words = true)

theorem runs33 {s : State} {o : Op} (h : runsTest s o = true) : pktRuns s 33 o 4 (pktOf s) (aft s) := by
  unfold runsTest at h
  rw [Bool.and_eq_true] at h
  exact ⟨front33 h.1, of_decide_eq_true h.2⟩

/-- Packets of an opcode, one for each case, that run and meet what a clause asks besides. -/
theorem runs_cases {α : Type} {l : List α} {o : Op} {s : α → State} {P : α → Prop}
    (h : ∀ x ∈ l, runsTest (s x) o = true ∧ P x) : ∀ x ∈ l, pktRuns (s x) 33 o 4 (pktOf (s x)) (aft (s x)) ∧ P x :=
  fun x hx => ⟨runs33 (h x hx).1, (h x hx).2⟩

theorem test_met_Packets :
    (pktFront (pk base opNop []) 33 4 (pktOf (pk base opNop [])) (aft (pk base opNop []))) ∧
    (∀ silent ∈ [false, true],
      let p : Pkt := ⟨33, 0, [], .unit, silent, false⟩
      let s := (pk base opNop []).setPkt 4 (some p)
      s.pkt 4 = some p ∧ p.work ≠ .replied ∧ (∀ e ∈ s.host.sqs, e.2.deleting = none) ∧ (s.cq (s.sq p.sq).cq).owner = some p.ctx) ∧
    (let s := pk base opLedgerSet [0, 0x910]
     let s := { s with host := { s.host with stPort := 1 } }
     pktFront s 33 4 (pktOf s) (aft s) ∧ firmwareHalted s opLedgerSet (pktOf s).ctx = false ∧ (pktOf s).opcode = 0x84 ∧
     hasRight (aft s) (pktOf s).ctx .steward = false) ∧
    (let s := pk base opLedgerSet [0x10000, 0x910]
     pktFront s 33 4 (pktOf s) (aft s) ∧ firmwareHalted s opLedgerSet (pktOf s).ctx = false ∧ (pktOf s).opcode = 0x84 ∧
     hasRight (aft s) (pktOf s).ctx .steward = true ∧ opLedgerSet.formOk (pktOf s).words = false) ∧
    (let s := pk base ⟨0xEE, 0, .any, []⟩ []
     pktFront s 33 4 (pktOf s) (aft s) ∧ firmwareHalted s opLedgerSet (pktOf s).ctx = false ∧ ∀ o ∈ opList, o.code ≠ (pktOf s).opcode) := by
  refine ⟨front33 ?_, ?_, ⟨front33 ?_, ?_⟩, ⟨front33 ?_, ?_⟩, ⟨front33 ?_, ?_⟩⟩ <;> decide +kernel
/-- Stack 1 of the part with the reservations of context 0 as given. -/
def reserved (held limit : Nat) : State := base.setStack 1 { Stack.reset with rsv := [(0, ⟨held, limit⟩)] }

theorem test_met_PacketEffects_tokens :
    (let s := pk base opNop []
     pktRuns s 33 opNop 4 (pktOf s) (aft s)) ∧
    (∀ n ∈ [0, 1, 0xFFFF], let s := pk base opTokenPost [0 * 2 ^ 57 + 63 * 2 ^ 51 + n]
      pktRuns s 33 opTokenPost 4 (pktOf s) (aft s) ∧
      coresCheck (aft s) (pktOf s).ctx [fld ((pktOf s).w 1) 63 57] = none ∧ fld ((pktOf s).w 1) 15 0 = n) ∧
    (∀ n ∈ [5, 6], let s := (pk base opQwait [34 * 2 ^ 32 + n]).setSq 34 ⟨some 0, 0, true, 16, 0, 0, 6, false, 40, none⟩
      pktRuns s 33 opQwait 4 (pktOf s) (aft s) ∧ fld ((pktOf s).w 1) 43 32 ≠ (pktOf s).sq ∧
      holdsSq (aft s) (pktOf s).ctx (fld ((pktOf s).w 1) 43 32) = true ∧
      seqDone (aft s) (fld ((pktOf s).w 1) 43 32) (fld ((pktOf s).w 1) 15 0) = decide (n = 5)) := by
  exact ⟨runs33 (by decide +kernel), runs_cases (by decide +kernel), runs_cases (by decide +kernel)⟩

theorem test_met_PacketEffects_stacks :
    (∀ x ∈ [(0, 48, 48), (5, 20, 15), (5, 20, 1)], let s := pk (reserved x.1 x.2.1) opHbmReserve [x.2.2 * 256 + 1]
      pktRuns s 33 opHbmReserve 4 (pktOf s) (aft s) ∧
      (aft s).hasStack (rsvStack (pktOf s)) = true ∧ rsvUnits (pktOf s) ≤ 48 ∧ rsvUnits (pktOf s) ≠ 0 ∧
      x.1 + rsvUnits (pktOf s) ≤ x.2.1 ∧ ((aft s).stack (rsvStack (pktOf s))).reserved + rsvUnits (pktOf s) ≤ 48 ∧
      ((aft s).stack (rsvStack (pktOf s))).rsvOf (pktOf s).ctx = ⟨x.1, x.2.1⟩) ∧
    (∀ x ∈ [(48, 48), (5, 1)], let s := pk (reserved x.1 48) opHbmRelease [x.2 * 256 + 1]
      pktRuns s 33 opHbmRelease 4 (pktOf s) (aft s) ∧
      (aft s).hasStack (rsvStack (pktOf s)) = true ∧ rsvUnits (pktOf s) ≤ 48 ∧ rsvUnits (pktOf s) ≠ 0 ∧
      rsvUnits (pktOf s) ≤ (((aft s).stack (rsvStack (pktOf s))).rsvOf (pktOf s).ctx).held) := by
  exact ⟨runs_cases (by decide +kernel), runs_cases (by decide +kernel)⟩

theorem test_met_PacketEffects_steward :
    (let s := pk base opStewardRenew []
     pktRuns s 33 opStewardRenew 4 (pktOf s) (aft s)) ∧
    (∀ x ∈ [(false, false), (true, true)],
      let s := pk base opStewardClaim []
      let s := { s with host := { s.host with stValid := x.1, stExpired := x.2, stPort := 1 } }
      pktRuns s 33 opStewardClaim 4 (pktOf s) (aft s) ∧ ((aft s).host.stValid = false ∨ (aft s).host.stExpired = true)) ∧
    (let s := (pk base opStewardHandoff []).setPort 1 { Port.reset with up := true }
     pktRuns s 33 opStewardHandoff 4 (pktOf s) (aft s) ∧ ((aft s).port (1 - portOf (pktOf s).ctx)).up = true) ∧
    (pk base opNop []).host.stValid = true := by
  exact ⟨runs33 (by decide +kernel), runs_cases (by decide +kernel), ⟨runs33 (by decide +kernel), by decide +kernel⟩,
    by decide +kernel⟩

/-- Indices on both sides of a ring's end. -/
theorem test_met_QueueCommands_doorbells :
    let s := pk base opNop []
    let s := s.setCq 40 { s.cq 40 with head := 14, used := 5 }
    hostServed s 0 = true ∧ holdsSq s 0 33 = true ∧ (s.sq 33).entries = 16 ∧ fld (BitVec.ofNat 64 15).toNat 16 0 < 16 ∧
    holdsSq s 0 4095 = false ∧ holdsCq s 0 40 = true ∧ (s.cq 40).entries = 16 ∧
    (∀ i ∈ [14, 15, 0, 3], (fld (BitVec.ofNat 64 i).toNat 16 0 + 16 - 14) % 16 ≤ (s.cq 40).used) ∧
    (∀ m ∈ [16, 4096], (BitVec.ofNat 64 (2 ^ 63 + m)).getLsbD 63 = true ∧ (s.ctx 0).aen = false ∧
      pow2In (fld (BitVec.ofNat 64 (2 ^ 63 + m)).toNat 12 0) 16 4096 = true) ∧
    (BitVec.ofNat 64 16).getLsbD 63 = false ∧ ((s.setCtx 0 { s.ctx 0 with aen := true }).ctx 0).aen = true ∧
    hostServed (s.setCtx 0 { s.ctx 0 with aen := true }) 0 = true := by
  decide +kernel

/-- A reply at the ring's last entry and at its first, with interrupts. -/
theorem test_met_QueueCommands_reply :
    ∀ idx ∈ [0, 15],
      let r : Reply := ⟨4, 33, 0x77, 9, Code.ok, 5, true⟩
      let s := pk base opNop []
      let s := s.setCq 40 { s.cq 40 with replies := [r, r], used := 15, idx := idx }
      let k := s.cq 40
      k.owner = some 0 ∧ k.replies = [r, r] ∧ k.used < k.entries ∧ k.deleting = none ∧ k.ien = true ∧ r.irq = true ∧
      (writeSpace s 0 k.host (k.ring + 16 * k.idx) (replyBytes r k.phase s.tbtime)).2 = .ok [] := by
  decide +kernel

/-- Rings of the least and of the most entries, in memory of the part. -/
theorem test_met_QueueCommands_packets :
    (∀ x ∈ [(16, 0), (65536, 0), (16, 1), (65536, 1)],
      let s := pk base opQCreate [0x5000, x.2 * 2 ^ 63 + 2 ^ 62 + 40 * 2 ^ 36 + 3 * 2 ^ 21 + x.1]
      pktRuns s 33 opQCreate 4 (pktOf s) (aft s) ∧
      let w := (pktOf s).w 2
      pow2In (fld w 16 0) 16 65536 = true ∧ (pktOf s).w 1 % 4096 = 0 ∧ bitOf w 62 = true ∧ bitOf w 63 = decide (x.2 = 1) ∧
      holdsCq (aft s) (pktOf s).ctx (fld w 47 36) = true ∧
      poolSqs (aft s) (pktOf s).ctx < ((aft s).ctx (pktOf s).ctx).sqLim ∧ (freeSq (aft s)).isSome = true ∧
      poolCqs (aft s) (pktOf s).ctx < ((aft s).ctx (pktOf s).ctx).cqLim ∧
      vectorOk (aft s) (pktOf s).ctx (fld w 31 21) = true ∧ (freeCq (aft s)).isSome = true) ∧
    (let s := (pk base opQDelete [2 ^ 63 + 41]).setCq 41 ⟨some 0, 0, true, 16, false, 0, true, 0, 0, 0, [], none⟩
     let d := fld ((pktOf s).w 1) 11 0
     pktRuns s 33 opQDelete 4 (pktOf s) (aft s) ∧ 32 ≤ d ∧ bitOf ((pktOf s).w 1) 63 = true ∧
     holdsCq (aft s) (pktOf s).ctx d = true ∧ ((aft s).cq d).replies = [] ∧
     ∀ e ∈ (aft s).host.sqs, e.2.owner = some (pktOf s).ctx → e.2.cq ≠ d) ∧
    (let s := (pk base opQReset [34 * 2 ^ 32 + 12]).setSq 34 ⟨some 0, 0, true, 16, 0, 7, 6, true, 40, none⟩
     let d := fld ((pktOf s).w 1) 43 32
     pktRuns s 33 opQReset 4 (pktOf s) (aft s) ∧ d ≠ (pktOf s).sq ∧ holdsSq (aft s) (pktOf s).ctx d = true) := by
  exact ⟨runs_cases (by decide +kernel), ⟨runs33 (by decide +kernel), by decide +kernel⟩,
    ⟨runs33 (by decide +kernel), by decide +kernel⟩⟩
/-- Context 3 of port 0, a VF, enabled beside context 0. -/
def base3 : State :=
  (base.setCtx 3 { Ctx.reset with en := true, root := some 0x1000, xc := [(0, 1)], aen := true }).setPort 0
    { Port.reset with up := true, vfEn := true, numVf := 3 }

theorem test_met_ContextCommands_roots :
    (let s := pk base3 opCtxSetroot [3, 0x10000]
     pktRuns s 33 opCtxSetroot 4 (pktOf s) (aft s) ∧ portOf (fld ((pktOf s).w 1) 4 0) = portOf (pktOf s).ctx ∧
     functionEnabled (aft s) (fld ((pktOf s).w 1) 4 0) = true ∧ rootOk (aft s) (fld ((pktOf s).w 2) 47 0) = true) ∧
    (let s := pk base3 opXlateInval [0, 2 ^ 63, 0]
     pktRuns s 33 opXlateInval 4 (pktOf s) (aft s) ∧ functionEnabled (aft s) (fld ((pktOf s).w 3) 4 0) = true ∧
     fld ((pktOf s).w 3) 4 0 = (pktOf s).ctx ∧ bitOf ((pktOf s).w 2) 63 = true) ∧
    (let s := pk base3 opCtxTeardown [3]
     pktRuns s 33 opCtxTeardown 4 (pktOf s) (aft s) ∧ portOf (fld ((pktOf s).w 1) 4 0) = portOf (pktOf s).ctx ∧
     functionEnabled (aft s) (fld ((pktOf s).w 1) 4 0) = true ∧ fld ((pktOf s).w 1) 4 0 ≠ (pktOf s).ctx) := by
  refine ⟨⟨runs33 ?_, ?_⟩, ⟨runs33 ?_, ?_⟩, ⟨runs33 ?_, ?_⟩⟩ <;> decide +kernel

theorem test_met_ContextCommands_cores :
    (∀ m ∈ [1, 2 ^ 63 + 1], let s := pk base3 opProgAbort [m]
      pktRuns s 33 opProgAbort 4 (pktOf s) (aft s) ∧
      let cs := maskCores ((pktOf s).w 1) (fld ((pktOf s).w 2) 31 0)
      cs ≠ [] ∧ ∀ c ∈ cs, (aft s).hasCore c = true ∧ ((aft s).ctx (pktOf s).ctx).cores.getLsbD c = true) ∧
    (∀ m ∈ [0, 7], let s := pk base3 opCtxCores [3, m, 0x80000000]
      pktRuns s 33 opCtxCores 4 (pktOf s) (aft s) ∧
      ∀ c ∈ maskCores ((pktOf s).w 2) (fld ((pktOf s).w 3) 31 0), (aft s).hasCore c = true) ∧
    (let s := pk base3 opCtxJob [0xFFFF * 2 ^ 16 + 256 + 3]
     pktRuns s 33 opCtxJob 4 (pktOf s) (aft s) ∧ portOf (fld ((pktOf s).w 1) 4 0) = portOf (pktOf s).ctx ∧
     functionEnabled (aft s) (fld ((pktOf s).w 1) 4 0) = true) ∧
    (let s := pk base3 opReclaim [2 * 256 + 7 * 4096 + 3]
     pktRuns s 33 opReclaim 4 (pktOf s) (aft s) ∧ qsKind (pktOf s) = 2 ∧ (aft s).hasStack (qsStack (pktOf s)) = true) := by
  refine ⟨runs_cases ?_, runs_cases ?_, ⟨runs33 ?_, ?_⟩, ⟨runs33 ?_, ?_⟩⟩ <;> decide +kernel

/-- Each quota at its least and its greatest value. -/
theorem test_met_ContextCommands_quotas :
    ∀ x ∈ [(0, 0), (0, 4064), (1, 4064), (2, 0), (3, 262144), (4, 48), (5, 6000)],
      let s := pk base3 opQuotaSet [x.1 * 256 + (if x.1 = 4 then 7 * 4096 else 0) + 3, x.2]
      pktRuns s 33 opQuotaSet 4 (pktOf s) (aft s) ∧ qsKind (pktOf s) = x.1 ∧ fld ((pktOf s).w 2) 31 0 = x.2 ∧
      (x.1 = 2 → otherVecs (aft s) 3 + x.2 ≤ 2048) ∧ (aft s).variant.ingest = true ∧
      (aft s).hasStack (qsStack (pktOf s)) = true :=
  runs_cases (by decide +kernel)

/-- A DMA of one byte to a neighbour, and one whose waiting packet has its translations. -/
def dmaState : State := pk (pokes base [(wsPa 0 0x2000, [7])]) opDma [0x2000, 0x2001, 1]

theorem test_met_DataCommands_dma :
    let s := dmaState
    let p := pktOf s
    pktRuns s 33 opDma 4 p (aft s) ∧
    (dmaSspace p = false ∧ dmaDspace p = false ∧ dmaPen p = false ∧ dmaLen p ≠ 0 ∧ p.w 1 + dmaLen p ≤ p.w 2) ∧
    ∃ t1 xl, xlate (aft s) p.ctx (upFrom (p.w 1) (dmaLen p)) (upFrom (p.w 2) (dmaLen p)) = (t1, .ok xl) ∧
      let u := t1.setPkt 4 (some { p with work := .dma xl })
      let r := readCheck u ((upFrom (p.w 1) (dmaLen p)).map (viaXl xl))
      u.pkt 4 = some { p with work := .dma xl } ∧ r.2 = none ∧
      (writeStop r.1 ((List.range (dmaLen p)).map fun i => (viaXl xl (p.w 2 + i), u.byte (viaXl xl (p.w 1 + i))))).2 = none :=
  ⟨runs33 (by decide +kernel), by decide +kernel, xlated (by decide +kernel)⟩

theorem test_met_DataCommands_launch :
    (let s := pk base opLaunch [0x2000, 77, 1]
     let p := pktOf s
     pktRuns s 33 opLaunch 4 p (aft s) ∧ maskCores (p.w 3) (fld (p.w 4) 31 0) ≠ [] ∧
     coresCheck (aft s) p.ctx (maskCores (p.w 3) (fld (p.w 4) 31 0)) = none ∧ fld (p.w 5) 47 0 = 0) ∧
    (let s := pk base opSfLoad [0x2000, 128 + 256 + 512 * 31]
     let p := pktOf s
     let r := readVa (aft s) p.ctx (fld (p.w 1) 47 0) 1024
     pktRuns s 33 opSfLoad 4 p (aft s) ∧ (aft s).hasCore (fld (p.w 2) 6 0) = true ∧
     ((aft s).ctx p.ctx).cores.getLsbD (fld (p.w 2) 6 0) = true ∧ fld (p.w 1) 47 0 % 64 = 0 ∧
     r.2 = .inl (List.replicate 1024 0) ∧ fld (p.w 2) 8 8 ≠ (((aft s).core (fld (p.w 2) 6 0)).ve (fld (p.w 2) 7 7)).bankSel ∧
     imageOk (List.replicate 1024 0) = true) := by
  refine ⟨⟨runs33 ?_, ?_⟩, ⟨runs33 ?_, ?_⟩⟩ <;> decide +kernel
/-! ### Plans, transfers, instances -/

/-- Jobs of both engines: context 0 has job 0x63; this device is 7. -/
def jobs (s : State) : State :=
  { s with net := { s.net with devId := 7 }, ce0 := { s.ce0 with jobs := [(0, 0x8000000000000063)] }
           ce1 := { s.ce1 with jobs := [(0, 0x8000000000000063)] } }

/-- A plan image of one participant, this device, and one step; SRC at 0x4000, DST at 0x5000, chunks of 64 bytes, collective 5. -/
def planImage : List Byte :=
  w64s ([3 * 2 ^ 60 + 5 * 2 ^ 53 + 1 * 2 ^ 32 + 1 * 2 ^ 16, 5 * 2 ^ 48 + 1 * 2 ^ 40 + 64, 0x4000, 0x5000, 1, 1, 5] ++
    List.replicate 9 0) ++ w64s [7] ++ w64s [1 * 2 ^ 60 + 2 ^ 55, 1]
def plan1 : Plan := planOf 0 planImage .none
def planState (p : Option Plan) (i : Option Inst) (w : List Waiting) : State :=
  let s := jobs base
  pokes { s with ce1 := { s.ce1 with plans := if p.isSome then [(255, p)] else [], running := if i.isSome then [(255, i)] else []
                                     waiting := if w ≠ [] then [(255, w)] else [] } } [(wsPa 0 0x2000, planImage)]

theorem test_met_PlanCommands_load :
    let s := pk (planState none none []) opPlanLoad [1, 0x2000]
    let p := pktOf s
    let r1 := readVa (aft s) p.ctx (fld (p.w 2) 47 0) 128
    let r2 := readVa r1.1 p.ctx (fld (p.w 2) 47 0) (planBytes 1 1)
    let r3 := loadParity r2.1 plan1
    pktRuns s 33 opPlanLoad 4 p (aft s) ∧ r1.2 = .inl (planImage.take 128) ∧ fieldAt (planImage.take 128) 2 2 = 1 ∧
    fieldAt (planImage.take 128) 4 2 = 1 ∧ r2.2 = .inl planImage ∧ plan1 = planOf p.ctx planImage .none ∧
    planCheck r2.1 1 plan1 (planBytes 1 1) = none ∧ r3.2 = .inl .none ∧ freeHandle (r3.1.ce 1) = some 0 := by
  refine ⟨runs33 ?_, ?_⟩ <;> decide +kernel

theorem test_met_PlanCommands_rest :
    (let s := pk (planState (some plan1) none []) opPlanUnload [255 * 256 + 1]
     let h := pktHandle (pktOf s)
     let ce := (aft s).ce (pktEngine (pktOf s))
     pktRuns s 33 opPlanUnload 4 (pktOf s) (aft s) ∧ ce.plan h = some plan1 ∧ plan1.ctx = (pktOf s).ctx ∧ ce.inst h = none ∧
     look [] h ce.waiting = []) ∧
    (let s := pk (planState (some plan1) none []) opCeTrigger [255 * 256 + 1, 0xFFFFFFFF]
     let h := pktHandle (pktOf s)
     let ce := (aft s).ce (pktEngine (pktOf s))
     pktRuns s 33 opCeTrigger 4 (pktOf s) (aft s) ∧ ce.plan h = some plan1 ∧ plan1.ctx = (pktOf s).ctx ∧
     look [] h ce.waiting = []) ∧
    (let s := pk (planState (some plan1) (some (Inst.new 3)) []) opCeAbort [255 * 256 + 1]
     let ce := (aft s).ce (pktEngine (pktOf s))
     pktRuns s 33 opCeAbort 4 (pktOf s) (aft s) ∧ ce.plan (pktHandle (pktOf s)) = some plan1 ∧ plan1.ctx = (pktOf s).ctx) := by
  refine ⟨⟨runs33 ?_, ?_⟩, ⟨runs33 ?_, ?_⟩, ⟨runs33 ?_, ?_⟩⟩ <;> decide +kernel

/-- A descriptor at 0x2000: a put of n bytes to device 7. -/
def xferState (n : Nat) : State :=
  pk (pokes (jobs base) [(wsPa 0 0x2000, w64s [1 * 2 ^ 60 + 0x4000, 7 * 2 ^ 48 + 0x5000, n, 0, 0, 0, 0, 0])]) opCeXfer [1, 0x2000]

/-- A put of one byte, and one of none, which completes at once. -/
theorem test_met_TransfersIssue_packet :
    ∀ n ∈ [1, 0], let s := xferState n
      let p := pktOf s
      let va := fld (p.w 2) 47 0
      pktRuns s 33 opCeXfer 4 p (aft s) ∧
      ∃ t1 xl, xlate (aft s) p.ctx (upFrom va 64) (upFrom (va + 32) 8) = (t1, .ok xl) ∧
        let r := readCheck t1 ((upFrom va 64).map (viaXl xl))
        let words := wordsOf ((upFrom va 64).map fun a => r.1.byte (viaXl xl a)) 8
        let u := issueXfer r.1 (pktEngine p) p.ctx (.host 4 va (viaXl xl (va + 32))) words
        r.2 = none ∧ u.ce0.xfers.length ≤ 4096 ∧ u.ce1.xfers.length ≤ 4096 ∧
        xferCheck r.1 (pktEngine p) p.ctx words = none ∧ (n = 0 → fld (words.getD 2 0) 23 0 = 0) ∧ bitOf (words.getD 0 0) 58 = false := by
  intro n hn
  refine ⟨runs33 ((by decide +kernel : ∀ n ∈ [1, 0], runsTest (xferState n) opCeXfer = true) n hn), ?_⟩
  rcases List.mem_cons.1 hn with rfl | hn
  · exact xlated (by decide +kernel)
  · rcases List.mem_cons.1 hn with rfl | hn
    · exact xlated (by decide +kernel)
    · cases hn

/-- Operations in flight at engine 1: a put with a local post from core 1, a get from core 0. -/
def put1 : Xfer := ⟨3, 0, .core 1 0x7FFFC0, true, true, 0, 63, 0x4000, 1, [], 0⟩
def get1 : Xfer := ⟨4, 0, .core 0 0x6040, false, false, 2, 5, 0x4000, 1, [(4, wsPa 0 0x4000 / 4096)], 0⟩
def flying : State := let s := jobs base; { s with ce1 := { s.ce1 with xfers := [put1, get1] } }

theorem test_met_TransfersIssue_done :
    (flying.ce 1).xfer 3 = some put1 ∧ put1.origin = .core 1 0x7FFFC0 ∧ 0x7FFFC0 % 64 = 0 ∧ 0x7FFFC0 + 64 = wsSize ∧
    flying.coreOn 1 = true ∧ put1.lpen = true ∧ flying.dieState (dieOf put1.lpcore) ≠ .parked ∧ (flying.core put1.lpcore).tcOf put1.lpctr ≠ 0xFFFF := by
  decide +kernel

/-- A message of a kind at virtual channel v, in the inbox of engine 1. -/
def msg (kind job tag low : Nat) (data : List Byte) : InMsg := ⟨some 33, 0, 9, mkHdr kind false false true false job tag low ++ data⟩
def inbox (m : InMsg) : State := { flying with ce1 := { flying.ce1 with inbox := [m] } }
def taken (m : InMsg) : State := consume (((inbox m).modCe 1 fun x => { x with inbox := [] })) m

theorem msgNext_of {m : InMsg} {sel : Nat → Bool}
    (h : (inbox m).agg.safe = false ∧ inboxHead ((inbox m).ce 1) sel = some (m, [])) : msgNext (inbox m) 1 sel m (taken m) :=
  ⟨by decide, h.1, [], h.2, rfl⟩

/-- PUT, GETREQ, GETRSP, ACK, NOROUTE and reserved messages, those of a job that no context has among them. -/
theorem test_met_PutsAndGets_messages :
    (let m := msg 1 0x63 77 (0x4000 * 2 ^ 40) [5]
     msgNext (inbox m) 1 (· == 1) m (taken m) ∧ ((taken m).ce 1).ctxOf (hJob m.body) = some 0 ∧
     ∃ s2 xl, xlate (taken m) 0 [] (upFrom (hLow m.body 87 40) (hData m.body).length) = (s2, .ok xl) ∧
       hData m.body = [5] ∧ (writeStop s2 ((List.range (hData m.body).length).zipWith
         (fun i b => (viaXl xl (hLow m.body 87 40 + i), b)) (hData m.body))).2 = none) ∧
    (let m := msg 1 0x64 77 (0x4000 * 2 ^ 40) [5]
     msgNext (inbox m) 1 (· == 1) m (taken m) ∧ ((taken m).ce 1).ctxOf (hJob m.body) = none) ∧
    (let m := msg 2 0x64 77 (0x4000 * 2 ^ 40 + 1) []
     msgNext (inbox m) 1 (· == 2) m (taken m) ∧ ((taken m).ce 1).ctxOf (hJob m.body) = none) ∧
    (let m := msg 2 0x63 77 (0x4000 * 2 ^ 40 + 1) []
     msgNext (inbox m) 1 (· == 2) m (taken m) ∧ ((taken m).ce 1).ctxOf (hJob m.body) = some 0 ∧ hLow m.body 23 0 = 1 ∧
     ∃ s2 xl, xlate (taken m) 0 (upFrom (hLow m.body 87 40) 1) [] = (s2, .ok xl) ∧
       (readCheck s2 ((upFrom (hLow m.body 87 40) 1).map (viaXl xl))).2 = none) ∧
    (let m := msg 3 0x63 4 (0x31 * 2 ^ 32) []
     msgNext (inbox m) 1 (· == 3) m (taken m) ∧ ((taken m).ce 1).xfer (hTag m.body) = some get1 ∧ get1.tag = hTag m.body ∧
     get1.put = false ∧ 0x10 ≤ hLow m.body 39 32) ∧
    (let m := msg 3 0x63 4 0 [5]
     msgNext (inbox m) 1 (· == 3) m (taken m) ∧ ((taken m).ce 1).xfer (hTag m.body) = some get1 ∧ hLow m.body 39 32 = 0 ∧
     hLow m.body 87 64 + (hData m.body).length ≤ get1.len ∧ get1.len ≤ get1.landed + (hData m.body).length ∧
     (writeStop (taken m) ((List.range (hData m.body).length).zipWith
       (fun i b => (viaXl get1.xl (get1.lva + hLow m.body 87 64 + i), b)) (hData m.body))).2 = none) ∧
    (let m := msg 4 0x63 3 (0x31 * 2 ^ 32) []
     msgNext (inbox m) 1 (· == 4) m (taken m) ∧ ((taken m).ce 1).xfer (hTag m.body) = some put1 ∧ put1.put = true) ∧
    (let m := msg 5 0x63 3 0 []
     msgNext (inbox m) 1 (· == 5) m (taken m) ∧ ((taken m).ce 1).xfer (hTag m.body) = some put1 ∧ put1.tag = hTag m.body) := by
  refine ⟨⟨msgNext_of ?_, ?_, xlated ?_⟩, ⟨msgNext_of ?_, ?_⟩, ⟨msgNext_of ?_, ?_⟩, ⟨msgNext_of ?_, ?_, ?_, xlated ?_⟩,
    ⟨msgNext_of ?_, ?_⟩, ⟨msgNext_of ?_, ?_⟩, ⟨msgNext_of ?_, ?_⟩, ⟨msgNext_of ?_, ?_⟩⟩ <;> decide +kernel

theorem test_met_PutsAndGets_rest :
    (∀ kind ∈ [0, 6, 7, 13, 31], let m := msg kind 0x63 3 0 []
      msgNext (inbox m) 1 (fun k => k == 0 || k == 6 || k == 7 || decide (13 ≤ k)) m (taken m)) ∧
    (∀ post ∈ [false, true], let tp : TargetPut := ⟨5, 9, 77, 0x63, Code.ok, true, post, 0, 63⟩
      let s := { flying with ce1 := { flying.ce1 with tputs := [tp] } }
      s.agg.safe = false ∧ (s.ce 1).tputs.find? (fun p => p.id == 5 && p.last) = some tp ∧ tp.status = Code.ok ∧
      (tp.post = true → s.hasCore tp.pcore = true)) ∧
    flying.agg.safe = false ∧ (flying.ce 1).xfer 3 = some put1 := by
  refine ⟨fun kind hk => msgNext_of ?_, ?_⟩
  · exact (by decide +kernel : ∀ kind ∈ [0, 6, 7, 13, 31], (inbox (msg kind 0x63 3 0 [])).agg.safe = false ∧
      inboxHead ((inbox (msg kind 0x63 3 0 [])).ce 1) (fun k => k == 0 || k == 6 || k == 7 || decide (13 ≤ k)) =
        some (msg kind 0x63 3 0 [], [])) kind hk
  · decide +kernel
/-- An instance of tag 3 with SRC and DST translated. -/
def inst1 : Inst := { Inst.new 3 with xl := [(4, wsPa 0 0x4000 / 4096), (5, wsPa 0 0x5000 / 4096)] }

/-- One trigger; none is free for a second one. SLOW and DETACH may have come before. -/
def startState (dt : List HeldDetach) (sl : List HeldSlow) (ab : List HeldAbort) : State :=
  let s := planState (some plan1) none [⟨3, 1⟩]
  { s with ce1 := { s.ce1 with detaches := dt, slows := sl, held := ab } }
/-- Engine 1 as the start leaves it. -/
def startedCe (s : State) : Ce :=
  let x := s.ce 1
  let i := Inst.new 3
  let slow (a : HeldSlow) : Bool := a.job == x.job plan1.ctx && a.collid == plan1.collid && a.inst == i.inst
  let x' := { x with
    waiting := put [] 255 [] x.waiting, dead := put [] 255 ((look [] 255 x.dead).filter fun n => n != i.inst) x.dead
    ended := put [] 255 ((look [] 255 x.ended).filter fun n => n != i.inst) x.ended
    held := x.held.filter fun a => !(a.job == x.job plan1.ctx && a.collid == plan1.collid && a.inst == i.inst)
    slows := x.slows.filter fun a => !slow a
    detaches := x.detaches.filter fun a => !(a.job == x.job plan1.ctx && a.collid == plan1.collid && a.inst == i.inst) }
  x'.setInst 255 (some { i with slowAt := (x.slows.find? slow).map HeldSlow.at' })
/-- What the start asks. -/
def startAsks (s : State) : Prop :=
  let x := s.ce 1
  s.agg.safe = false ∧ x.plan 255 = some plan1 ∧ look [] 255 x.waiting = [⟨3, 1⟩] ∧ plan1.trign = 1 ∧ x.inst 255 = none ∧
  x.running.length < 16

theorem test_met_InstancesRun_start :
    ∀ d ∈ [[], [HeldDetach.mk 0x63 5 3]],
      let s := startState d [⟨0x63, 5, 3, 9⟩] [⟨0x63, 5, 4, Code.aborted⟩]
      let x := s.ce 1
      (startAsks s ∧ x.held.find? (fun a => a.job == x.job 0 && a.collid == plan1.collid && a.inst == (Inst.new 3).inst) = none ∧
        plan1.entries = [] ∧
        x.detaches.any (fun a => a.job == x.job 0 && a.collid == plan1.collid && a.inst == (Inst.new 3).inst) = decide (d ≠ [])) ∧
      xlTest (xlate (s.setCe 1 (startedCe s)) plan1.ctx plan1.instReads plan1.instWrites) (fun _ _ => true) = true := by
  simp only [startAsks]; decide +kernel

theorem test_met_InstancesRun_held :
    let s := startState [] [] [⟨0x63, 5, 3, Code.detached⟩]
    let x := s.ce 1
    startAsks s ∧ x.held.find? (fun a => a.job == x.job 0 && a.collid == plan1.collid && a.inst == (Inst.new 3).inst) =
      some ⟨0x63, 5, 3, Code.detached⟩ := by
  simp only [startAsks]; decide +kernel

theorem test_met_InstancesRun_step :
    (let s := planState (some plan1) (some inst1) []
     let p := plan1
     let i := inst1
     let x := p.step 0
     let q := i.at 0
     let c := x.chunk + q / p.chunkB
     let o := q % p.chunkB
     let n := min msgData (p.chunkB - o)
     let src := (upFrom (p.srcAt c o) n).map (viaXl i.xl)
     let l := (List.range n).map fun j => (viaXl i.xl (p.dstAt c o + j), s.byte (viaXl i.xl (p.srcAt c o + j)))
     instRuns s 1 255 p i ∧ i.mayStep p 1 0 = true ∧ x.isData = true ∧ x.opc = 1 ∧ x.akind = 0 ∧ p.parity = .none ∧ x.toDst = true ∧
     x.toSend = false ∧ x.toBuf = false ∧ 0 < n ∧ i.dstBusy p 0 c = false ∧ i.slots = [] ∧ (readCheck s src).2 = none ∧
     (writeStop (readCheck s src).1 l).2 = none) ∧
    (let i := { inst1 with prog := [(0, 64)] }
     let s := planState (some plan1) (some i) []
     instRuns s 1 255 plan1 i ∧ i.allDone plan1 = true ∧ i.aborted = none ∧ (finishParity s plan1 i i.slots).2 = none) ∧
    (let i := { inst1 with aborted := some Code.timeout }
     instRuns (planState (some plan1) (some i) []) 1 255 plan1 i ∧ i.aborted = some Code.timeout) := by
  simp only [instRuns]; decide +kernel

/-- A plan that may detach, with a receiver on link 33 and a time limit; its step has sent nothing yet. -/
def plan2 : Plan :=
  planOf 0 (w64s ([3 * 2 ^ 60 + 5 * 2 ^ 53 + 1 * 2 ^ 51 + 2 * 2 ^ 32 + 1 * 2 ^ 16, 5 * 2 ^ 48 + 1 * 2 ^ 40 + 64, 0x4000, 0x5000, 1, 1,
    9 * 2 ^ 32 + 5] ++ List.replicate 9 0) ++ w64s [7] ++ w64s [1 * 2 ^ 60 + 2 ^ 55, 1, 2 * 2 ^ 60 + 2 ^ 55 + 33 * 2 ^ 48, 1]) .none
/-- Engine 1 runs (or waits to run) plan 255, with message m at the front of its inbox and 128 bytes held on link 33. -/
def msgState (p : Plan) (i : Option Inst) (m : List InMsg) (early : List InMsg) : State :=
  let s := planState (some p) i []
  { s with ce1 := { s.ce1 with inbox := m, early := if early ≠ [] then [(33, early)] else [] }, tbtime := 0x123456 }
def imsg (kind low : Nat) (data : List Byte) : InMsg := ⟨some 33, 6, 9, mkHdr kind false false false false 0x63 5 low ++ data⟩

theorem test_met_InstanceMessages_held :
    ∀ kind ∈ [8, 9], let m := imsg kind 3 (if kind = 8 then List.replicate 64 7 else [])
      let s := msgState plan1 none [m] []
      let x := s.ce 1
      s.agg.safe = false ∧ x.planOf (hJob m.body) (hTag m.body) = some 255 ∧ m.link = some 33 ∧
      inboxHead x (· == kind) = some (m, []) ∧ (look [] 255 x.dead).contains (hLow m.body 15 0) = false ∧ instOf x m = none ∧
      ((x.heldOn 33).map fun g => g.body.length).sum + m.body.length ≤ 65536 ∧ hSlow m.body = false := by
  decide +kernel

theorem test_met_InstanceMessages_noted :
    (∀ kind ∈ [10, 11, 12], let m := imsg kind (0x31 * 2 ^ 24 + 3) []
      let s := msgState plan1 (some inst1) [m] []
      let x := s.ce 1
      s.agg.safe = false ∧ x.planOf (hJob m.body) (hTag m.body) = some 255 ∧ m.link = some 33 ∧
      inboxHead x (· == kind) = some (m, []) ∧ instOf x m = some (255, plan1, inst1) ∧ inst1.aborted = none ∧
      dataLinks plan1 inst1 1 = []) := by
  decide +kernel

/-- A flit of the instance that waits for its link. -/
def waitingFlit : TxFlit :=
  { dst := 8, src := 7, vl := 6, som := true, eom := true, mid := 1, hops := 0, plen := 240, payload := List.replicate 240 0
    own := some (1, 255), kind := 8, job := 0, tag := 0, chunk := 0, frees := none }

theorem test_met_InstanceMessages_timers :
    (let i := { inst1 with xl := [(4, 0x100)] }
     let s := (msgState plan2 (some i) [] []).setStack 0 { Stack.reset with tlevel := 2 }
     instRuns s 1 255 plan2 i ∧ i.aborted = none ∧ instSlow s plan2 i = true) ∧
    (let s := msgState plan2 (some inst1) [] []
     let s := s.setLink 33 { s.link 33 with out := List.replicate 274 waitingFlit }
     instRuns s 1 255 plan2 inst1 ∧ plan2.mayDetach = true ∧ inst1.cut.has 33 = false ∧
     65536 < skidUsed s 1 255 33 + min msgData plan2.chunkB ∧ inst1.suspended s.tbtime = false ∧ plan2.tmo ≠ 0) := by
  simp only [instRuns]; decide +kernel

/-- A descriptor of four data and two check pieces of one byte: pieces 1 and 5 are wanted, the others are there. -/
def decode1 : List Byte :=
  w64s ([3 * 2 ^ 60 + 4 * 2 ^ 55 + 2 * 2 ^ 53, 34 * 2 ^ 32 + 29] ++ ((List.range 18).map fun j => if j < 6 then 0x4000 + 64 * j else 0) ++
    [16, 5 * 2 ^ 32]) ++ List.replicate 80 0

theorem test_met_Evohild_queue :
    let s := pk (pokes base [(wsPa 0 0x2000, decode1)]) opEvDecode [0x2000]
    let p := pktOf s
    let r := readVa (aft s) p.ctx (fld (p.w 1) 47 0) 256
    let reads := (dcPresent decode1).flatMap fun j => pageStarts (dcPva decode1 j) (dcLen decode1)
    let writes := (dcWant decode1).flatMap fun j => pageStarts (dcPva decode1 j) (dcLen decode1)
    pktRuns s 33 opEvDecode 4 p (aft s) ∧ (r.2 = .inl decode1 ∧ dcVerify decode1 = false ∧ dcCheck decode1 [] = none) ∧
    ∃ t2 xl, xlate r.1 p.ctx reads writes = (t2, .ok xl) ∧
      let x : Decode := ⟨4, 0, decode1, [], xl⟩
      let s := { t2 with decodes := [x] }
      let q := readCheck { s with decodes := [] } (dcReach x ((dcPresent decode1).take (dcK decode1)))
      q.2 = none ∧ (writeStop q.1 (dcWrites s x)).2 = none :=
  ⟨runs33 (by decide +kernel), by decide +kernel, xlated (by decide +kernel)⟩

/-- Two ranges that agree in their first byte and differ in their second. -/
theorem test_met_Evohild_check :
    ∀ n ∈ [1, 2], let s := pk (pokes base [(wsPa 0 0x2000, [7, 8]), (wsPa 0 0x3000, [7, 9])]) opEvCheck [0x2000, 0x3000, n]
      let p := pktOf s
      pktRuns s 33 opEvCheck 4 p (aft s) ∧ 0 < fld (p.w 3) 12 0 ∧ fld (p.w 3) 12 0 = n ∧
      xlTest (xlate (aft s) p.ctx (upFrom 0x2000 n ++ upFrom 0x3000 n) []) (fun t1 xl =>
        let r := readCheck t1 ((upFrom 0x2000 n ++ upFrom 0x3000 n).map (viaXl xl))
        decide (r.2 = none) && decide (r.1.byte (viaXl xl 0x2000) = r.1.byte (viaXl xl 0x3000)) &&
        decide (r.1.byte (viaXl xl 0x2001) ≠ r.1.byte (viaXl xl 0x3001))) = true :=
  runs_cases (by decide +kernel)
/-! ### Ingest and sample streams -/

/-- A batch of one request: header at 0x2000, recipe at 0x3000, output descriptor at 0x3100, output at 0x4000, status at
0x3200; the source has n bytes. -/
def hdr1 : List Byte := w64s [1 * 2 ^ 53 + 1 * 2 ^ 51 + 1 * 2 ^ 40, 0x3000, 0x3100, 0x1000, 0x3200, 0, 0, 0]
def recipe1 : List Byte := w64s ([2 * 2 ^ 16 + 2] ++ List.replicate 15 0)
def out1 : List Byte :=
  w64s [2 ^ 60 + 2 * 2 ^ 57 + 3 * 2 ^ 55 + 0x4000, 0xE4000000, 3 * 2 ^ 41 + 3, 4, 2 * 2 ^ 41 + 2, 12, 2 * 2 ^ 41 + 2, 24, 1 * 2 ^ 41 + 1, 48,
    0, 0, 0, 0, 0, 0]
def req1 (n : Nat) : List Byte := w64s [2 * 2 ^ 56 + 0x5000, n * 2 ^ 32, 1 * 2 ^ 48 + 1 * 2 ^ 40, 0, 0, 0, 0x99, 0]
def ingState (n : Nat) : State :=
  pokes base [(wsPa 0 0x2000, hdr1 ++ req1 n), (wsPa 0 0x3000, recipe1), (wsPa 0 0x3100, out1), (wsPa 0 0x5000, [1, 2, 3])]

/-- A batch as it stands in its cluster's queue. -/
def batch1 (n : Nat) : Batch :=
  ⟨7, some 4, none, 0, hdr1, recipe1, out1, [req1 n], [0x3200], [(3, wsPa 0 0x3000 / 4096)], false, false, 0, 0, []⟩
def queued (s : State) (b : Batch) : State :=
  { s with ingest := { s.ingest with q0 := [b], dp0 := { s.ingest.dp0 with lock := true, base := 0x100 } } }

/-- A batch is read and meets a test. -/
def readTest (r : State × BatchRead) (B : State → List Byte → List Byte → List (List Byte) → Table Nat → Bool) : Bool :=
  match r with | (s, .ok a b c d) => B s a b c d | _ => false
theorem was_read {r : State × BatchRead} {P : State → List Byte → List Byte → List (List Byte) → Table Nat → Prop}
    [∀ s a b c d, Decidable (P s a b c d)] (h : readTest r (fun s a b c d => decide (P s a b c d)) = true) :
    ∃ s a b c d, r = (s, .ok a b c d) ∧ P s a b c d := by
  match r, h with
  | (s, .ok a b c d), h => exact ⟨s, a, b, c, d, rfl, of_decide_eq_true h⟩

/-- The cluster's queue empty, and full. -/
theorem test_met_IngestBatches_submit :
    let s := pk (ingState 3) opIngestBatch [0x2000]
    let f : State := { s with ingest := { s.ingest with q0 := List.replicate 16 (batch1 3) } }
    (pktRuns s 33 opIngestBatch 4 (pktOf s) (aft s) ∧ (aft s).variant.ingest = true ∧
      (readVa (aft s) (pktOf s).ctx (fld ((pktOf s).w 1) 47 0) 64).2 = .inl hdr1 ∧
      ∃ t2 rc od reqs xl, readBatch (readVa (aft s) 0 0x2000 64).1 (pktOf s).ctx hdr1 [0x2000 + 64 + 64 * 0] [bhStatva hdr1 + 16 * 0] =
        (t2, .ok rc od reqs xl) ∧ batchCheck t2.variant hdr1 rc od reqs = none ∧
        (t2.ingest.queue (clusterFor t2.ingest hdr1)).length < 16) ∧
    (pktRuns f 33 opIngestBatch 4 (pktOf f) (aft f) ∧
      ∃ t2 rc od reqs xl, readBatch (readVa (aft f) 0 0x2000 64).1 (pktOf f).ctx hdr1 [0x2000 + 64 + 64 * 0] [bhStatva hdr1 + 16 * 0] =
        (t2, .ok rc od reqs xl) ∧ batchCheck t2.variant hdr1 rc od reqs = none ∧
        16 ≤ (t2.ingest.queue (clusterFor t2.ingest hdr1)).length) ∧
    bhNreq hdr1 = 1 :=
  ⟨⟨runs33 (by decide +kernel), by decide +kernel, by decide +kernel, was_read (by decide +kernel)⟩,
    ⟨runs33 (by decide +kernel), was_read (by decide +kernel)⟩, by decide⟩

theorem test_met_IngestBatches_abort :
    let s := (pk (ingState 3) opIngestAbort [33 * 2 ^ 32 + 0]).setPkt 2 (some ⟨33, 0, [], .unit, false, false⟩)
    pktRuns s 33 opIngestAbort 4 (pktOf s) (aft s) ∧ (aft s).variant.ingest = true ∧
    holdsSq (aft s) (pktOf s).ctx (fld ((pktOf s).w 1) 43 32) = true ∧
    (findPkt (aft s) (fld ((pktOf s).w 1) 43 32) (fld ((pktOf s).w 1) 15 0)).isSome = true := by
  refine ⟨runs33 ?_, ?_⟩ <;> decide +kernel

theorem test_met_IngestBatches_run :
    (∀ lock ∈ [true, false], let s := { queued (ingState 3) (batch1 3) with ingest :=
        { (queued (ingState 3) (batch1 3)).ingest with dp0 := { (ingState 3).ingest.dp0 with lock := lock, base := 0x100 } } }
      headBatch s 0 = some (batch1 3) ∧ s.agg.safe = false ∧ (batch1 3).asked = false ∧ (dtempOf s 4).tlevel < 2 ∧
      (s.ingest.dpb 0).lock = lock) ∧
    (let b := { batch1 3 with asked := true, granted := true }
     let s := queued (ingState 3) b
     headBatch s 0 = some b ∧ s.agg.safe = false ∧ b.granted = true ∧ 31 / 32 = 0 ∧ look none 31 s.ingest.segs = none) := by
  decide +kernel

/-- A started batch whose segment at decoder 31 ends: a request with no source bytes, and one with three. -/
def running (n : Nat) : State :=
  let b := { batch1 n with asked := true, granted := true, next := 1 }
  let s := queued (ingState n) b
  { s with ingest := { s.ingest with segs := [(31, some ⟨7, 0⟩)] } }

theorem test_met_IngestBatches_end :
    (let b := { batch1 0 with asked := true, granted := true, next := 1 }
     let s := running 0
     let l := (pairs (b.stat.getD 0 0) (statRecord (req1 0) ⟨Code.okEmpty, 0, 0, 0, 2, false, false, 0⟩ 31)).map fun p => (viaXl b.xl p.1, p.2)
     look none 31 s.ingest.segs = some ⟨7, 0⟩ ∧ findBatch s 7 = some (0, b) ∧ s.agg.safe = false ∧ 0 < b.next ∧
     rqLive (req1 0) = false ∧ (writeStop s l).2 = none) ∧
    (∀ code ∈ [Code.ok, Code.badParam].map (·.toNat),
      let b := { batch1 3 with asked := true, granted := true, next := 1, done := [(0, some (BitVec.ofNat 8 code))] }
      let s := queued (ingState 3) b
      findBatch s 7 = some (0, b) ∧ b.granted = true ∧ s.agg.safe = false ∧ b.reqs.length = 1 ∧
      (look none 0 b.done).isSome = true) := by
  decide +kernel

/-- A transport stream without packets: no picture data, DRES 10, and the slot is filled. -/
def reqTs : List Byte := w64s [1 * 2 ^ 60 + 2 * 2 ^ 56 + 0x5000, 3 * 2 ^ 32, 1 * 2 ^ 48 + 1 * 2 ^ 40, 0, 0, 0, 0x99, 0]

theorem test_met_IngestBatches_live :
    let b : Batch := { batch1 3 with reqs := [reqTs], asked := true, granted := true, next := 1 }
    let s := queued (ingState 3) b
    let pas := upFrom (wsPa 0 0x5000) 3
    rqLive reqTs = true ∧ (readSource s 0 reqTs).2 = .ok [] [1, 2, 3] pas none ∧
    (let s1 := (readSource s 0 reqTs).1
     let pl := segPlan reqTs b.recipe [] [1, 2, 3] (dpbShare s1 31).2.2
     let r := runSegment (readCheck s1 (pas.take pl.read)).1 b reqTs 31 pl
     (writeStop r.1 ((pairs (b.stat.getD 0 0) (statRecord reqTs r.2 31)).map fun p => (viaXl b.xl p.1, p.2))).2 = none) := by
  decide +kernel

/-! ### Sample streams -/

/-- An entry of the stream table: template at 0x6000, manifest at 0x6800 of three records, position 1. -/
def ent : StEntry := ⟨.idle, 0, false, false, 0x6800, 2, 3, 0x1234, 0, 1, 0x6000, 5, 5, 0, 0, []⟩
/-- A template: batches of one request, four slots, four batches outstanding. -/
def tmpl1 : List Byte := hdr1 ++ w64s [4 * 2 ^ 32 + 2 * 2 ^ 24, 0x7000, 0, 0, 0, 0, 0, 0]
/-- The table is locked and holds l; what the entry names stands in memory, an image of it at 0x2440 and one with a
generator at 0x2400. -/
def stb (l : Table StEntry) : State :=
  let s := pokes (ingState 3) [(wsPa 0 0x6000, tmpl1), (wsPa 0 0x6800, req1 3 ++ req1 3 ++ req1 3),
    (wsPa 0 0x2400, { ent with seqGen := true }.image), (wsPa 0 0x2440, ent.image)]
  { s with ingest := { s.ingest with sttLock := true, sttBase := 0x4000, streams := l, stq := [(0, 5)] } }
/-- A stream command of index i on entry 2 in a state st. -/
def stCmd (i : Nat) (st : StState) (va : Nat) : State :=
  pk (stb [(0, { ent with st := .done, ctx := 1 }), (2, { ent with st := st })]) (opSt i) [2, va]
/-- The state after the entry was read. -/
def st1 (s : State) : State := (readCheck (aft s) (upFrom (entryPa (aft s) 2) 64)).1
/-- What the commands on an entry have in common. -/
def stReady (s : State) (st : StState) : Bool :=
  (aft s).variant.ingest && (aft s).ingest.sttLock && decide (fld ((pktOf s).w 1) 17 0 = 2) &&
    decide (((aft s).stEntry 2).st ≠ .free) && decide (((aft s).stEntry 2).ctx = (pktOf s).ctx) &&
    decide ((readCheck (aft s) (upFrom (entryPa (aft s) 2) 64)).2 = none) && decide (((st1 s).stEntry 2).st = st)

theorem test_met_SampleStreams_open :
    let s := stCmd 0 .idle 0x2440
    let t := aft s
    pktRuns s 33 (opSt 0) 4 (pktOf s) t ∧ t.variant.ingest = true ∧ t.ingest.sttLock = true ∧
    (readVa t 0 (fld ((pktOf s).w 2) 47 0) 64).2 = .inl ent.image ∧ stImageOk ent.image = true ∧
    (let t1 := (readVa t 0 0x2440 64).1
     sttUsed t1 0 < sttLimit t1 0 ∧ (t1.stEntry 1).st = .free ∧ (t1.stEntry 0).st ≠ .free) := by
  refine ⟨runs33 ?_, ?_⟩ <;> decide +kernel

theorem test_met_SampleStreams_start :
    let s := stCmd 1 .idle 0
    let t2 := (readVa (st1 s) 0 0x6000 128).1
    pktRuns s 33 (opSt 1) 4 (pktOf s) (aft s) ∧
    (stReady s .idle = true ∧ ((st1 s).stEntry 2).tmplva = 0x6000 ∧ (readVa (st1 s) 0 0x6000 128).2 = .inl tmpl1 ∧
      tmOk tmpl1 = true) ∧
    ∃ t3 rc od l xl, readBatch t2 0 (tmpl1.take 64) [] [] = (t3, .ok rc od l xl) ∧
      batchCheck t3.variant (tmpl1.take 64) rc od [] = none :=
  ⟨runs33 (by decide +kernel), ⟨by decide +kernel, was_read (by decide +kernel)⟩⟩

theorem test_met_SampleStreams_stop_resync_close :
    ∀ x ∈ [((2, .run) : Nat × StState), (2, .drain), (5, .idle), (5, .mismatch), (6, .idle), (6, .done), (6, .error), (6, .mismatch)],
      pktRuns (stCmd x.1 x.2 0) 33 (opSt x.1) 4 (pktOf (stCmd x.1 x.2 0)) (aft (stCmd x.1 x.2 0)) ∧
        stReady (stCmd x.1 x.2 0) x.2 = true := by
  refine fun x hx => ⟨runs33 ?_, ?_⟩ <;> revert x <;> decide +kernel

theorem test_met_SampleStreams_save :
    ∀ st ∈ [StState.idle, .done, .error],
      let s := stCmd 3 st 0x2080
      pktRuns s 33 (opSt 3) 4 (pktOf s) (aft s) ∧ stReady s st = true ∧
      (writeSpace (st1 s) 0 false 0x2080 ((st1 s).stEntry 2).image).2 = .ok [] := by
  refine fun x hx => ⟨runs33 ?_, ?_⟩ <;> revert x <;> decide +kernel

theorem test_met_SampleStreams_restore :
    (∀ st ∈ [StState.idle, .done, .error, .mismatch],
      let s := stCmd 4 st 0x2440
      pktRuns s 33 (opSt 4) 4 (pktOf s) (aft s) ∧ stReady s st = true ∧
      (readVa (st1 s) 0 0x2440 64).2 = .inl ent.image ∧ stImageOk ent.image = true ∧
      (readVa (st1 s) 0 0x2440 64).1.stEntry 2 = (st1 s).stEntry 2 ∧ (((st1 s).stEntry 2).ofImage ent.image).seqGen = false) ∧
    (let s := stCmd 4 .idle 0x2400
     let y := ((st1 s).stEntry 2).ofImage { ent with seqGen := true }.image
     pktRuns s 33 (opSt 4) 4 (pktOf s) (aft s) ∧ stReady s .idle = true ∧
     (readVa (st1 s) 0 0x2400 64).2 = .inl { ent with seqGen := true }.image ∧ stImageOk { ent with seqGen := true }.image = true ∧
     (readVa (st1 s) 0 0x2400 64).1.stEntry 2 = (st1 s).stEntry 2 ∧ y.seqGen = true ∧
     y.seqCtr - (y.seqBase + BitVec.ofNat 64 y.pos) ≠ 0) := by
  refine ⟨fun x hx => ⟨runs33 ?_, ?_⟩, runs33 ?_, ?_⟩ <;> try revert x
  all_goals decide +kernel

/-- A running or draining entry 2 at a position, with outstanding batches and stop packets. -/
def stRun (st : StState) (pos outb : Nat) (stops : List Nat) : State :=
  stb [(2, ({ ent with st := st, outb := outb, stops := stops } : StEntry).setPos pos)]

theorem test_met_SampleStreams_drained :
    ∀ stops ∈ [[], [4]], let e := (stRun .drain 1 0 stops).stEntry 2
      e.st = .drain ∧ e.outb = 0 ∧ e.stops = stops := by
  decide +kernel

/-- What a service of entry 2 starts with. -/
def served (s : State) : State :=
  (readCheck { s with ingest := { s.ingest with sttPtr := 3 } } (upFrom (entryPa s 2) 64)).1

theorem test_met_SampleStreams_serve :
    (∀ pos ∈ [1, 5, 6], let s := stRun .run pos 0 []
      nextRun s.ingest = some 2 ∧ (({ s with ingest := { s.ingest with sttPtr := 3 } } : State).stEntry 2).st = .run ∧
      (readCheck { s with ingest := { s.ingest with sttPtr := 3 } } (upFrom (entryPa s 2) 64)).2 = none ∧
      ((served s).stEntry 2).st = .run ∧ (served s).agg.safe = false ∧
      (pos = 6 → ((served s).stEntry 2).last ≤ ((served s).stEntry 2).pos)) ∧
    (let s1 := served (stRun .run 1 0 [])
     let e := s1.stEntry 2
     let s2 := (readVa s1 0 0x6000 128).1
     let s3 := (readVa s2 0 (tmRelva tmpl1) 8).1
     let k := min (bhNreq tmpl1) (e.last - e.pos)
     let qs := upFrom e.pos k
     let stat := qs.map fun q => bhStatva (tmpl1.take 64) + 16 * (q % tmNslot tmpl1)
     (e.pos < e.last ∧ e.ctx = 0 ∧ e.tmplva = 0x6000 ∧ sttHeld s1 0 = false ∧ (readVa s1 0 0x6000 128).2 = .inl tmpl1 ∧
     tmOk tmpl1 = true ∧ e.outb < tmBmax tmpl1 ∧ (readVa s2 0 (tmRelva tmpl1) 8).2 = .inl (List.replicate 8 0) ∧
     e.pos + k ≤ tmNslot tmpl1 + fieldAt (List.replicate 8 0) 0 8 ∧ e.seqGen = false) ∧
     ∃ s4 rc od recs xl, readBatch s3 0 (tmpl1.take 64) (qs.map fun q => e.manva + 64 * recordOf e q) stat = (s4, .ok rc od recs xl) ∧
       batchCheck s4.variant (tmpl1.take 64) rc od ((List.range k).map fun j => requestAt e tmpl1 (recs.getD j []) (e.pos + j)) = none ∧
       queueFull s4 (clusterFor s4.ingest (tmpl1.take 64)) = false) :=
  ⟨by decide +kernel, ⟨by decide +kernel, was_read (by decide +kernel)⟩⟩

/-! ### HBM and the LPDDR port -/

/-- An open stack. -/
def opened : Stack := { Stack.reset with state := .opened, repairAuto := true, rtPer := 1 }
/-- The part with stack 1 as given. -/
def hbmSt (x : Stack) : State := { (one Core.reset).setStack 1 x with mem := [(hbmPa 1 64, 7)] }

/-- What stands before the clauses about a sector of stack 1. -/
def hbmAsks (s : State) (off : Nat) : Prop := s.powered = true ∧ s.hasStack 1 = true ∧ off % 32 = 0 ∧ off < (s.stack 1).size
/-- A request of source 3. -/
def wait3 (off : Nat) : HbmWait := ⟨.ctx 3, .read off⟩

/-- Closed stacks; a request of the same source in the fabric, and one of another. -/
theorem test_met_HbmRequests_fabric :
    (∀ st ∈ [StackState.closedThermal, .closedFault],
      let s := hbmSt { opened with state := st }
      hbmAsks s 64 ∧ (s.stack 1).gate.isSome = true) ∧
    (let s := hbmSt { opened with fabric := [wait3 0] }
     hbmAsks s 64 ∧ (s.stack 1).gate = none ∧ (∃ v ∈ (s.stack 1).fabric, v.src = .ctx 3) ∧ ∀ v ∈ (s.stack 1).fabric, v.src ≠ .firmware) := by
  simp only [hbmAsks]; decide +kernel

/-- The first, a middle and the last sector; queues of 255 and 256; the window spent and all but spent. -/
theorem test_met_HbmRequests_read :
    ∀ off ∈ [0, 64, opened.size - 32],
      (∀ n ∈ [255, 256],
        let s := hbmSt { opened with training := some (opened.home off), pcs := [(opened.home off,
          { Pc.reset with queue := List.replicate n (wait3 64) })] }
        let x := s.stack 1
        hbmAsks s off ∧ x.gate = none ∧ x.fabric = [] ∧ x.training = some (x.home off) ∧ (x.pc (x.home off)).queue.length = n) ∧
      (let s := hbmSt { opened with window := ⟨0, [], opened.cap⟩ }
       let x := s.stack 1
       hbmAsks s off ∧ x.gate = none ∧ x.fabric = [] ∧ x.training ≠ some (x.home off) ∧ x.cap ≤ x.window.total) ∧
      (let s := hbmSt { opened with window := ⟨0, [], opened.cap - 1⟩ }
       let x := s.stack 1
       hbmAsks s off ∧ x.gate = none ∧ x.fabric = [] ∧ x.training ≠ some (x.home off) ∧ x.window.total < x.cap ∧ x.waiting = [] ∧
       (x.isPoisoned (off / 32) || x.isLost (off / 32) || x.uncorr.has (off / 32)) = false ∧ x.isPoisoned (off / 32) = false ∧
       x.soft.has (off / 32) = false) ∧
      (let s := hbmSt { opened with poison := [(off / 32, true)] }
       let x := s.stack 1
       hbmAsks s off ∧ x.gate = none ∧ x.fabric = [] ∧ x.training ≠ some (x.home off) ∧ x.window.total < x.cap ∧ x.waiting = [] ∧
       x.isPoisoned (off / 32) = true) := by
  simp only [hbmAsks]; decide +kernel

/-- A part write at the end of a clean sector, and a whole sector over a poisoned one. -/
theorem test_met_HbmRequests_write :
    (let s := hbmSt opened
     let x := s.stack 1
     hbmAsks s 64 ∧ x.gate = none ∧ x.fabric = [] ∧ x.training ≠ some (x.home 64) ∧ x.window.total < x.cap ∧ x.waiting = [] ∧
     0 < 7 ∧ 25 + 7 = 32 ∧ (x.isPoisoned 2 || x.isLost 2 || x.uncorr.has 2) = false ∧ x.soft.has 2 = false) ∧
    (let s := hbmSt { opened with poison := [(2, true)] }
     let x := s.stack 1
     hbmAsks s 64 ∧ x.gate = none ∧ x.fabric = [] ∧ x.training = none ∧ x.window.total < x.cap ∧ x.waiting = [] ∧
     x.isPoisoned 2 = true) := by
  simp only [hbmAsks]; decide +kernel

/-- A window with nothing and with one request that waits. -/
theorem test_met_HbmRequests_window :
    ∀ l ∈ [[], [wait3 64]], let s := hbmSt { opened with window := ⟨0, [], opened.cap⟩, waiting := l }
      s.hasStack 1 = true ∧ (s.stack 1).waiting = l ∧ (s.stack 1).training ≠ some ((s.stack 1).home 64) := by
  decide +kernel

theorem test_met_HbmRequests_scrub :
    ∀ bad ∈ [false, true], ∀ sec ∈ [0, opened.size / 32 - 1],
      let s := hbmSt { opened with scrubPtr := sec, uncorr := if bad then [(sec, true)] else [] }
      let x := s.stack 1
      s.hasStack 1 = true ∧ x.scrubPtr = sec ∧ x.state = .opened ∧ x.closing = false ∧ x.scrubH ≠ 0 ∧
      x.training ≠ some (x.home (sec * 32)) ∧ x.window.total < x.cap ∧ x.isPoisoned sec = false ∧ x.isLost sec = false ∧
      x.uncorr.has sec = bad := by
  decide +kernel

/-- Each level 0 to 3 and closed by fault, closing and closed by heat, failed readouts 1 and 2. -/
theorem test_met_HbmTemperature_readout :
    (∀ l ∈ [0, 1, 2, 3], ∀ st ∈ [StackState.opened, .closedFault],
      let s := hbmSt { opened with tlevel := l, state := st, readFails := 1 }
      let x := s.stack 1
      s.powered = true ∧ s.hasStack 1 = true ∧ x.closing = false ∧ x.state ≠ .closedThermal ∧ x.tlevel = l ∧ x.readFails ≠ 2 ∧
      (∃ n ∈ [254, 255], x.crit.toNat ≤ n) ∧ 0 < x.crit.toNat) ∧
    (let s := hbmSt { opened with closing := true, readFails := 2 }
     s.powered = true ∧ s.hasStack 1 = true ∧ (s.stack 1).closing = true ∧ (s.stack 1).readFails = 2 ∧ (s.stack 1).waiting = [] ∧
     (s.stack 1).pcs = []) := by
  decide +kernel

/-- A closed stack below and at the bound for opening; an open and a faulty one. -/
theorem test_met_HbmTemperature_open :
    (∀ c ∈ [(0x50 : Byte), 0x60], let s := hbmSt { opened with state := .closedThermal, temp := c }
      let x := s.stack 1
      s.powered = true ∧ s.hasStack 1 = true ∧ s.agg.safe = false ∧ x.state = .closedThermal ∧
      (x.temp.toNat + x.hyst.toNat < x.hot.toNat ↔ c = 0x50)) ∧
    (∀ st ∈ [StackState.opened, .closedFault], let s := hbmSt { opened with state := st }
      s.powered = true ∧ s.hasStack 1 = true ∧ s.agg.safe = false ∧ (s.stack 1).state = st ∧ (s.stack 1).closing = false) := by
  decide +kernel

/-- A stack that is down, new and booted, with and without a failed readout, cool and critical. -/
theorem test_met_HbmTemperature_down :
    ∀ b ∈ [true, false], ∀ f ∈ [true, false], ∀ n ∈ [(0 : Byte), 0xFF],
      let s := hbmSt { opened with state := .down, booted := b, tfail := f, temp := n }
      let x := s.stack 1
      s.powered = true ∧ s.hasStack 1 = true ∧ s.agg.safe = false ∧ x.state = .down ∧ x.booted = b ∧ x.tfail = f ∧ x.tlevel ≤ 3 ∧
      (x.crit.toNat ≤ x.temp.toNat ↔ n = 0xFF) := by
  decide +kernel

theorem test_met_HbmTemperature_limits :
    (∀ b ∈ [true, false], let s := hbmSt { opened with thLock := b }
      s.powered = true ∧ s.hasStack 1 = true ∧ (s.stack 1).thLock = b) ∧
    (let v : W64 := 0x030201
     fld v.toNat 7 0 < fld v.toNat 15 8 ∧ fld v.toNat 15 8 < fld v.toNat 23 16) ∧
    (let v : W64 := 0x030202
     fld v.toNat 15 8 ≤ fld v.toNat 7 0) := by
  decide +kernel

theorem test_met_HbmRepairs_train :
    (∀ p ∈ [0, 63], ∀ trig ∈ [RetrainTrigger.periodic, .temperature, .errors],
      let s := hbmSt { opened with pcs := [(p, { Pc.reset with due := true })] }
      let x := s.stack 1
      s.hasStack 1 = true ∧ x.state = .opened ∧ (x.pc p).state = .active ∧ ((x.pc p).due = true ∨ retrainDue s 1 p trig = true) ∧
      x.training = none ∧ ∀ j, j < p → (x.pc j).due = false) := by
  decide +kernel

theorem test_met_HbmRepairs_attempt :
    ∀ n ∈ [0, 2, 3], ∀ sp ∈ [true, false],
      let s := hbmSt { opened with training := some 3, spare := sp, pcs := [(3, { Pc.reset with state := .retrain, fails := n })] }
      let x := s.stack 1
      s.hasStack 1 = true ∧ x.training = some 3 ∧ (x.pc 3).queue = [] ∧ x.fabric = [] ∧ (x.pc 3).fails = n ∧ x.spare = sp ∧ x.repPc = none ∧
      x.repairAuto = true := by
  decide +kernel

theorem test_met_HbmRepairs_start :
    ∀ v ∈ [0x8003, 0xC003], ∀ y ∈ [{ opened with spare := true }, { Stack.reset with state := .down, spareEn := true }],
      let s := hbmSt y
      let x := s.stack 1
      s.powered = true ∧ s.hasStack 1 = true ∧ (BitVec.ofNat 64 v).getLsbD 15 = true ∧ fld (BitVec.ofNat 64 v).toNat 5 0 = 3 ∧ x.repPc = none ∧
      (x.spare = true ∨ (x.state = .down ∧ x.spareEn = true)) ∧ x.fabric = [] ∧ (x.pc 3).queue = [] ∧ (x.pc 3).lost = false ∧ ((hbmSt { opened with repPc := some 3 }).stack 1).repPc ≠ none := by
  decide +kernel

theorem test_met_HbmRepairs_copy :
    ∀ c ∈ [0, spareFirst - 1],
      let s := hbmSt { opened with spare := true, repPc := some 3, repairing := true, copied := c, pcs := [(3, { Pc.reset with state := .copying })] }
      let x := s.stack 1
      x.repPc = some 3 ∧ s.hasStack 1 = true ∧ x.repairing = true ∧ x.state = .opened ∧ x.closing = false ∧ x.copied = c ∧
      x.window.total + 8 ≤ x.cap := by
  decide +kernel

theorem test_met_HbmRepairs_port :
    let s : State := { hbmSt opened with tbtime := 0x1000000, lpp := { (hbmSt opened).lpp with ready := true, size := 2 } }
    s.powered = true ∧ 0x18000000000 + s.lpp.bytes - 64 + 64 ≤ 0x18000000000 + s.lpp.bytes ∧ 0 < 64 ∧ s.lpp.ready = true ∧ 1000000 ≤ (s.tbtime - s.lpp.lastReq).toNat := by
  decide +kernel

/-! ### Links and the timebase -/

def crcd (f : Flit) : Flit := { f with crc := flitCrc f }
/-- A message of one flit with a header, its DATA flit of sequence number seq, and a CTRL flit. -/
def body1 : List Byte := mkHdr 1 false false true true 0x63 77 0 ++ List.replicate 100 7
def dataFl (seq ack plen : Nat) : Flit := crcd ⟨1, 3, true, true, 3, seq, ack, 2, 5, plen, 7, 9, padTo 240 body1, 0⟩
def ctlFl (bs : List Byte) : Flit := crcd ⟨2, 7, false, false, 0, 0, 4095, 0, 0, bs.length, 0, 0, padTo 240 bs, 0⟩
/-- A flit to send on a virtual lane. -/
def tx1 (vl : Nat) : TxFlit :=
  { dst := 8, src := 7, vl, som := true, eom := true, mid := 1, hops := 3, plen := 16, payload := List.replicate 16 1, own := none,
    kind := 1, job := 0, tag := 0, chunk := 0, frees := if vl = 2 then some (6, 1) else none }
/-- An active link that expects 10, has sent 20 and 21, and has a flit to send. -/
def act1 : Link :=
  { Link.reset with
    st := .active, enable := true, rxSeq := 10, peerDev := 8, peerLink := 2, txSeq := 22, replay := [⟨20, tx1 0⟩, ⟨21, tx1 1⟩],
    limit := [(0, 50), (1, 50)], sent := [(0, 49)], out := [tx1 0, tx1 1] }
/-- Device 7 with link 5 as given. -/
def net5 (x : Link) : State :=
  let s := (one Core.reset).setLink 5 x
  { s with net := { s.net with devId := 7, tbMaster := false, tbSrc := 5 } }

/-- The link as a good flit finds it, with n flits of lane 3 in its buffer. -/
def met5 (n : Nat) : Link := (countFec (net5 { act1 with held := [(3, n)] }) 5 false).link 5

/-- Flits in their place with a place and without one in the buffer, older ones, later ones. -/
theorem test_met_LinkFlits_data :
    (∀ seq ∈ [10, 11, 2000, 9, 10 + 4096 - 1024], let f := dataFl seq 20 116
      flitGood f false = true ∧ f.ftype = 1 ∧
      (let back := ((met5 159).rxSeq + 4096 - f.seq % 4096) % 4096
       (seq = 10 ∧ back = 0) ∨ (seq ∈ [9, 10 + 4096 - 1024] ∧ back ≤ 1024 ∧ back ≠ 0) ∨ (seq ∈ [11, 2000] ∧ 1024 < back))) ∧
    (met5 159).st = .active ∧ (net5 act1).agg.safe = false ∧ (met5 159).room 3 = true ∧ (met5 160).room 3 = false := by
  decide +kernel

/-- A message of one flit for this part, and a damaged flit. -/
theorem test_met_LinkFlits_message :
    let f := dataFl 10 20 116
    f.seq % 4096 = (met5 0).rxSeq ∧ f.som = true ∧ f.eom = true ∧ f.vl = 3 ∧ look .none f.vl (met5 0).arriving = .none ∧
    f.dst = (net5 act1).net.devId.toNat ∧ oneLink (hKind (f.payload.take f.plen)) = false ∧ f.ftype = 1 ∧
    flitGood { f with crc := 5 } false = false ∧ flitGood f true = false := by
  decide +kernel

theorem test_met_LinkFlits_idle :
    let f := crcd { dataFl 10 20 116 with ftype := 0 }
    flitGood f false = true ∧ f.ftype = 0 ∧ (met5 0).replay = [⟨20, tx1 0⟩, ⟨21, tx1 1⟩] ∧ f.ack = 20 := by
  decide +kernel

theorem test_met_LinkFlits_nak :
    ∀ seq ∈ [20, 21, 22], let f := ctlFl [1, BitVec.ofNat 8 seq, 0]
      let y := (met5 0).takeHeader f
      flitGood f false = true ∧ f.ftype = 2 ∧ ctrlKind f = 1 ∧ flitField f 13 2 % 4096 = seq ∧ y.lastReplay = none ∧
      ((seq = 22 ∧ ∀ r ∈ y.replay, r.seq ≠ 22) ∨ ∃ r ∈ y.replay, r.seq = seq) := by
  decide +kernel

/-- PARAM, RECOVER and two kinds that are not listed, on links in each state. -/
theorem test_met_LinkFlits_control :
    (∀ k ∈ [0, 4, 5, 6], let f := ctlFl ([BitVec.ofNat 8 k, 8, 0, 2] ++ List.replicate 8 5)
      flitGood f false = true ∧ f.ftype = 2 ∧ ctrlKind f = k) ∧
    ∀ st ∈ [LinkState.training, .active, .recovery], ((countFec (net5 { act1 with st := st }) 5 false).link 5).st = st := by
  decide +kernel

theorem test_met_LinkFlits_replay :
    (∀ l ∈ [none, some (20, 7)], let x := (net5 { act1 with lastReplay := l }).link 5
      x.st = .active ∧ x.replay = [⟨20, tx1 0⟩, ⟨21, tx1 1⟩] ∧ x.lastReplay = l) ∧
    (let x := (net5 { act1 with resend := some 21 }).link 5
     x.st = .active ∧ x.resend = some 21 ∧ x.replay.dropWhile (fun r => r.seq != 21) = [⟨21, tx1 1⟩]) := by
  decide +kernel

/-- A flit of this part's own, one that is forwarded from link 6, and none; links that exchange PARAM. -/
theorem test_met_LinkFlits_send :
    (∀ v ∈ [0, 2], let s := net5 { act1 with out := [tx1 v], limit := [(v, 50)] }
      (s.link 5).st = .active ∧ (s.link 5).resend = none ∧ nextFlit s 5 = some (tx1 v) ∧
      (tx1 v).frees = if v = 2 then some (6, 1) else none) ∧
    (let s := net5 { act1 with out := [] }
     (s.link 5).resend = none ∧ nextFlit s 5 = none ∧ (s.link 5).st = .active) ∧
    ∀ st ∈ [LinkState.training, .recovery], exchanges (net5 { act1 with st := st }) 5 = true := by
  decide +kernel

theorem test_met_LinkStates_admin :
    (let s := net5 { Link.reset with st := .off, cls := 1 }
     s.powered = true ∧ s.agg.safe = false ∧ (s.link 5).st = .off ∧ (s.link 5).cls ≠ 3 ∧ (dtempOf s (4 + ceOf 5)).tlevel < 2) ∧
    (∀ st ∈ [LinkState.training, .active, .recovery], ((net5 { act1 with st := st }).link 5).st ≠ .off ∧
      ((net5 { act1 with st := st }).link 5).st ≠ .failed) ∧
    (∀ v ∈ [(0xff, 8), (0x1ff, 9), (0, 0)], popCount 32 ((BitVec.ofNat 64 v.1).setWidth 32 : W32).toNat = v.2) := by
  decide +kernel

theorem test_met_LinkStates_training :
    (let s := net5 { act1 with st := .training, replay := [], out := [] }
     let g : State := { s with power := { s.power with grants := [(103, 8)] } }
     (g.link 5).st = .training ∧ (g.link 5).replay = [] ∧ (g.link 5).out = [] ∧ bringUpGranted g 5 = true) ∧
    (∀ p ∈ [(⟨8, 2, []⟩ : PeerParam), ⟨9, 2, []⟩, ⟨8, 3, []⟩], ∀ st ∈ [LinkState.training, .recovery],
      let s := net5 { act1 with st := st, param := some p }
      let g : State := { s with power := { s.power with grants := [(103, 8)] } }
      (g.link 5).st = st ∧ (g.link 5).param = some p ∧ g.net.devId ≠ 0xFFFF ∧ bringUpGranted g 5 = true ∧
      (p = ⟨8, 2, []⟩ ↔ p.dev = (g.link 5).peerDev ∧ p.link = (g.link 5).peerLink)) := by
  decide +kernel

/-- A follower, and a valid reply over a delay of 1000 and an offset above and below 0. -/
theorem test_met_TimeExchange :
    ((net5 act1).agg.safe = false ∧ (net5 act1).net.tbMaster = false ∧ ((net5 act1).link (net5 act1).net.tbSrc).st = .active) ∧
    (let f := ctlFl ([2] ++ leBytes 8 0x123456)
     f.ftype = 2 ∧ flitGood f false = true ∧ ctrlKind f = 2) ∧
    (∀ x ∈ [(3000000, true), (5000, false)],
      let s : State := { net5 act1 with tbtime := 1000000 }
      let f := ctlFl ([3] ++ leBytes 8 999000 ++ leBytes 8 x.1 ++ leBytes 8 (x.1 + 10) ++ [1])
      let t1 : Int := flitField f 13 8
      let t2 : Int := flitField f 21 8
      let d : Int := s.tbtime.toNat - t1 - (flitField f 29 8 - t2)
      f.ftype = 2 ∧ flitGood f false = true ∧ ctrlKind f = 3 ∧ s.net.tbMaster = false ∧ s.net.tbSrc = 5 ∧ flitByte f 37 % 2 = 1 ∧
      d % 2 = 0 ∧ s.net.tbSync = false ∧ (0 < t2 - t1 - d / 2 ↔ x.2 = true)) := by
  decide +kernel

/-! ### Security -/

/-- The part with LPDDR in two ranks whose second GiB is the first GiB of context 0. -/
def secBase : State :=
  let s := base
  let s := s.setCtx 0 { s.ctx 0 with xc := [(0, 0x200001), (1, 0x1804000000F)] }
  { s with lpp := { s.lpp with ready := true, size := 2 } }

/-- What the translations of context 0 rest on. -/
def secMaps (s : State) : Bool :=
  decide ((s.ctx 0).root = some 0x100000) && decide ((s.ctx 0).xc = [(0, 0x200001), (1, 0x1804000000F)]) &&
    decide (s.lpp.bytes = 0x80000000) && decide (s.lpp.bad = []) && !meetsProtected s 0x18040000000 0x40000000 &&
    [0x100000, 0x200000].all fun t => tableHome t && !meetsProtected s t 4096 && populated s t

theorem sec_bad {s : State} (h : secMaps s = true) : s.lpp.bad = [] := by
  unfold secMaps at h
  simp only [Bool.and_eq_true, decide_eq_true_eq] at h
  exact h.1.1.2

theorem sec_translate {s : State} (h : secMaps s = true) (va : Nat) (r w : Bool) (hv : va < 0x40000000) :
    Machine.translate s 0 va r w = (s, .ok (0x18040000000 + va)) := by
  unfold secMaps at h
  simp only [Bool.and_eq_true, decide_eq_true_eq, Bool.not_eq_true', List.all_cons, List.all_nil] at h
  obtain ⟨⟨⟨⟨⟨root, cache⟩, bytes⟩, -⟩, free⟩, ⟨⟨home0, free0⟩, pop0⟩, ⟨⟨home1, free1⟩, pop1⟩, -⟩ := h
  have k0 : xcKey va 0 = 0 := by unfold xcKey levelShift; omega
  have k1 : xcKey va 1 = 1 := by unfold xcKey levelShift; omega
  have e0 : readEntry s 0 va 0 0x100000 = (s, .inl 0x200001) := by
    unfold readEntry; rw [cache, k0]; rfl
  have e1 : readEntry s 0 va 1 0x200000 = (s, .inl 0x1804000000F) := by
    unfold readEntry; rw [cache, k1]; rfl
  have page : va % 0x40000000 = va := by omega
  have size : 2 ^ levelShift 1 = 0x40000000 := rfl
  have there : inLpp (0x18040000000 + va) := ⟨by omega, by omega⟩
  have pop : populated s (0x18040000000 + va) = true := by
    unfold populated
    rw [region_lpp there, bytes]
    simp
    omega
  have leaf : leafCheck s 0x1804000000F va 1 r w = .ok (0x18040000000 + va) := by
    have hf : fld (0x1804000000F : W64).toNat 47 12 * 4096 = 0x18040000000 := by decide
    have b1 : bitOf (0x1804000000F : W64).toNat 1 = true := by decide
    have b2 : bitOf (0x1804000000F : W64).toNat 2 = true := by decide
    unfold leafCheck
    simp only [hf, size, page, region_lpp there, free, pop, b1, b2]
    simp
  have v0 : entryBad 0x200001 0 = false := by decide
  have v1 : entryBad 0x1804000000F 1 = false := by decide
  have t0 : bitOf (0x200001 : W64).toNat 3 = false := by decide
  have t1 : bitOf (0x1804000000F : W64).toNat 3 = true := by decide
  have next : fld (0x200001 : W64).toNat 47 12 * 4096 = 0x200000 := by decide
  unfold Machine.translate
  rw [if_neg (by omega), root]
  simp only [walkFrom, home0, free0, pop0, e0, v0, t0, next, home1, free1, pop1, e1, v1, t1, leaf, Bool.not_true,
    Bool.false_eq_true, if_false, if_true]

/-- Reads and writes of context 0 below 1 GiB are translated, and neither meets an error. -/
theorem sec_xlate {s : State} (h : secMaps s = true) {reads writes : List Nat} (hr : ∀ a ∈ reads, a < 0x40000000)
    (hw : ∀ a ∈ writes, a < 0x40000000) :
    ∃ xl, xlate s 0 reads writes = (s, .ok xl) ∧ ∀ a, a ∈ reads ∨ a ∈ writes → viaXl xl a = 0x18040000000 + a :=
  xlate_flat (by decide) (by decide) (fun va r w hv => sec_translate h va r w hv) hr hw

theorem below {lo n m : Nat} (h : lo + n ≤ m) : ∀ a ∈ upFrom lo n, a < m := by
  intro a ha
  unfold upFrom at ha
  simp only [List.mem_map, List.mem_range] at ha
  omega

theorem sec_read {t : State} {xl : Table Nat} {va n : Nat} (h : ∀ a ∈ upFrom va n, viaXl xl a = 0x18040000000 + a)
    (hv : va + n ≤ 0x40000000) (ht : t.lpp.bad = []) : (readCheck t ((upFrom va n).map (viaXl xl))).2 = none := by
  refine readCheck_lpp t (fun a ha => ?_) ht
  obtain ⟨b, hb, rfl⟩ := List.mem_map.1 ha
  rw [h b hb]
  exact ⟨by omega, by have := below hv b hb; omega⟩

theorem sec_write {t : State} {xl : Table Nat} {va n : Nat} {bs : List Byte} (h : ∀ a ∈ upFrom va n, viaXl xl a = 0x18040000000 + a)
    (hv : va + n ≤ 0x40000000) (hn : bs.length ≤ n) (ht : t.lpp.bad = []) :
    (writeStop t ((pairs va bs).map fun x => (viaXl xl x.1, x.2))).2 = none := by
  refine writeStop_lpp t (fun p hp => ?_) ht
  obtain ⟨⟨a, b⟩, hb, rfl⟩ := List.mem_map.1 hp
  have ha : a ∈ upFrom va n := by
    unfold pairs at hb
    rw [List.zipWith_eq_zipWith_take_min] at hb
    rw [← List.map_uncurry_zip_eq_zipWith] at hb
    obtain ⟨⟨i, c⟩, hi, he⟩ := List.mem_map.1 hb
    have := (List.of_mem_zip hi).1
    simp only [Function.uncurry, Prod.mk.injEq] at he
    have hm := List.mem_range.1 (List.mem_of_mem_take this)
    unfold upFrom
    exact List.mem_map.2 ⟨i, List.mem_range.2 (by omega), he.1⟩
  simp only
  rw [h a ha]
  exact ⟨by omega, by have := below hv a ha; omega⟩

theorem sec_read_eq {t : State} {xl : Table Nat} {va n : Nat} (h : ∀ a ∈ upFrom va n, viaXl xl a = 0x18040000000 + a)
    (hv : va + n ≤ 0x40000000) (ht : t.lpp.bad = []) :
    readCheck t ((upFrom va n).map (viaXl xl)) = ((readCheck t ((upFrom va n).map (viaXl xl))).1, none) :=
  Prod.ext rfl (sec_read h hv ht)

theorem padTo_length (n : Nat) (l : List Byte) : (padTo n l).length = n := by
  unfold padTo
  simp
  omega

/-- Bytes read through the translations are LPDDR's. -/
theorem sec_bytes {s t : State} {xl : Table Nat} {va n : Nat} (h : ∀ a ∈ upFrom va n, viaXl xl a = 0x18040000000 + a)
    (hm : t.mem = s.mem) : vaBytes t xl va n = lookRange 0 (0x18040000000 + va) n s.mem := by
  unfold vaBytes lookRange State.byte
  rw [hm, List.map_congr_left (fun a ha => by rw [h a ha])]
  unfold upFrom
  simp only [List.map_map]
  refine List.map_congr_left fun i _ => ?_
  simp only [Function.comp]
  rw [Nat.add_assoc]

theorem sec_read_state {t : State} {xl : Table Nat} {va n : Nat} (h : ∀ a ∈ upFrom va n, viaXl xl a = 0x18040000000 + a)
    (hv : va + n ≤ 0x40000000) (ht : t.lpp.bad = []) :
    (readCheck t ((upFrom va n).map (viaXl xl))).1.mem = t.mem ∧ (readCheck t ((upFrom va n).map (viaXl xl))).1.sec = t.sec := by
  have there : ∀ a ∈ (upFrom va n).map (viaXl xl), inLpp a := fun a ha => by
    obtain ⟨b, hb, rfl⟩ := List.mem_map.1 ha
    rw [h b hb]
    exact ⟨by omega, by have := below hv b hb; omega⟩
  have hs := readCheck_lpp_state t there ht
  have hm := congrArg State.mem hs
  have hc := congrArg State.sec hs
  exact ⟨hm, hc⟩

/-- A small state with a packet for the security unit, its security state as given. -/
def secPk (x : Sec → Sec) (o : Op) (w : List Nat) : State :=
  let s := pk secBase o w
  { s with sec := x s.sec }

/-- Reports of a part that is not PROVISIONED, and of one that is: packets that run, with their fields. -/
def attested (i : Nat) : State := secPk (fun x => { x with idState := i }) opAttest [0x8000, 0x4000]

theorem attested_runs : ∀ i ∈ [0, 1, 2, 3], runsTest (attested i) opAttest = true ∧ secMaps (aft (attested i)) = true ∧
    (aft (attested i)).sec.idState = i := by decide +kernel

theorem attested_fields : ∀ i ∈ [0, 1, 2, 3], let p := pktOf (attested i)
    p.ctx = 0 ∧ fld (p.w 1) 63 48 = 0 ∧ fld (p.w 2) 63 48 = 0 ∧ fld (p.w 1) 47 0 = 0x8000 ∧ fld (p.w 2) 47 0 = 0x4000 := by
  decide +kernel

theorem test_met_SecurityCommands_attest (i : Nat) (hi : i ∈ [0, 1, 2, 3]) :
    let s := attested i
    let p := pktOf s
    pktRuns s 33 opAttest 4 p (aft s) ∧ fld (p.w 1) 63 48 = 0 ∧ fld (p.w 2) 63 48 = 0 ∧ (aft s).sec.idState = i ∧
    ∃ xl, xlate (aft s) p.ctx (upFrom (fld (p.w 2) 47 0) 48) (upFrom (fld (p.w 1) 47 0) 17376) = (aft s, .ok xl) ∧
      (readCheck (aft s) ((upFrom (fld (p.w 2) 47 0) 48).map (viaXl xl))).2 = none ∧
      ∀ t2 d, t2.lpp.bad = [] → (writeStop t2 ((pairs (fld (p.w 1) 47 0) (reportBody t2 p.ctx d ++
        (padTo 384 (Config.rsaSign t2.sec.rsaPriv (padTo 48 (Config.sha384 (reportBody t2 p.ctx d))) (freeNat t2).1) ++
         padTo 16224 (Config.slhSign t2.sec.slhSk (padTo 48 (Config.sha384 (reportBody t2 p.ctx d)))
           (freeNat (freeNat t2).2).1)))).map fun x => (viaXl xl x.1, x.2))).2 = none := by
  intro s p
  obtain ⟨run, maps, id'⟩ := attested_runs i hi
  obtain ⟨c, z1, z2, v1, v2⟩ := attested_fields i hi
  obtain ⟨xl, x1, x2⟩ := sec_xlate (reads := upFrom 0x4000 48) (writes := upFrom 0x8000 17376) maps (below (by decide)) (below (by decide))
  refine ⟨runs33 run, z1, z2, id', xl, ?_, ?_, fun t2 d ht => ?_⟩
  · rw [c, v1, v2]; exact x1
  · rw [v2]; exact sec_read (fun b hb => x2 b (.inl hb)) (by decide) (sec_bad maps)
  · rw [v1]
    refine sec_write (n := 17376) (fun b hb => x2 b (.inr hb)) (by decide) ?_ ht
    unfold reportBody
    simp only [List.length_append, padTo_length]
    decide

/-- A LOAD of a blob whose fields are as they must be, on a part that has no PUF. -/
def loading : State := pk { secBase with mem := [(0x18040008000, 1)] } opKeyPush [0x8000]

theorem loading_runs : runsTest loading opKeyPush = true ∧ secMaps (aft loading) = true ∧ (aft loading).sec.idState = 0 ∧
    (aft loading).sec.puf = none ∧ (aft loading).mem = [(0x18040008000, 1)] := by decide +kernel

theorem loading_fields : let p := pktOf loading
    p.ctx = 0 ∧ fld (p.w 1) 51 48 = 0 ∧ fld (p.w 1) 63 52 = 0 ∧ fld (p.w 2) 63 48 = 0 ∧ fld (p.w 1) 47 0 = 0x8000 := by
  decide +kernel

theorem loading_blob : let bs := lookRange (0 : Byte) (0x18040000000 + 0x8000) 4096 [(0x18040008000, 1)]
    fieldAt bs 0 4 = 1 ∧ zeroAt bs 4 4 = true ∧ zeroAt bs 2452 1644 = true := by decide +kernel

/-- It fails. -/
theorem test_met_SecurityCommands_load :
    let p := pktOf loading
    let t := aft loading
    pktRuns loading 33 opKeyPush 4 p t ∧ fld (p.w 1) 51 48 = 0 ∧ fld (p.w 1) 63 52 = 0 ∧ fld (p.w 2) 63 48 = 0 ∧ t.sec.idState = 0 ∧
    ∃ t2 xl bs, xlate t p.ctx (upFrom (fld (p.w 1) 47 0) 4096) [] = (t, .ok xl) ∧
      readCheck t ((upFrom (fld (p.w 1) 47 0) 4096).map (viaXl xl)) = (t2, none) ∧ bs = vaBytes t2 xl (fld (p.w 1) 47 0) 4096 ∧
      fieldAt bs 0 4 = 1 ∧ zeroAt bs 4 4 = true ∧ zeroAt bs 2452 1644 = true ∧ loadIdentity t2.sec bs = none := by
  intro p t
  obtain ⟨run, maps, id', puf, mem⟩ := loading_runs
  obtain ⟨c, z1, z2, z3, v⟩ := loading_fields
  obtain ⟨xl, x1, x2⟩ := sec_xlate (reads := upFrom 0x8000 4096) (writes := []) maps (below (by decide)) (fun _ h => nomatch h)
  have hx : ∀ a ∈ upFrom 0x8000 4096, viaXl xl a = 0x18040000000 + a := fun b hb => x2 b (.inl hb)
  obtain ⟨hm, hc⟩ := sec_read_state (t := t) hx (by decide) (sec_bad maps)
  have blob := sec_bytes hx hm
  rw [mem] at blob
  obtain ⟨f1, f2, f3⟩ := loading_blob
  have none' : loadIdentity (readCheck t ((upFrom 0x8000 4096).map (viaXl xl))).1.sec
      (lookRange (0 : Byte) (0x18040000000 + 0x8000) 4096 [(0x18040008000, 1)]) = none := by
    unfold loadIdentity
    rw [hc, puf]
  refine ⟨runs33 run, z1, z2, z3, id', (readCheck t ((upFrom 0x8000 4096).map (viaXl xl))).1, xl, _, ?_, ?_, rfl, ?_⟩
  · rw [c, v]; exact x1
  · rw [v]; exact sec_read_eq hx (by decide) (sec_bad maps)
  · rw [v, blob]; exact ⟨f1, f2, f3, none'⟩

/-- A challenge asked for, in each state of the identity that allows it. -/
def asked (i : Nat) : State := secPk (fun x => { x with idState := i }) opDebugUnlock [0x8000]

theorem asked_runs : ∀ i ∈ [1, 2], runsTest (asked i) opDebugUnlock = true ∧ secMaps (aft (asked i)) = true ∧
    (aft (asked i)).sec.tlevel < 2 ∧ (aft (asked i)).sec.idState = i := by decide +kernel

theorem asked_fields : ∀ i ∈ [1, 2], let p := pktOf (asked i)
    p.ctx = 0 ∧ fld (p.w 1) 51 48 = 0 ∧ fld (p.w 1) 47 0 = 0x8000 := by decide +kernel

/-- The 16 bytes of a challenge land at 0x8000. -/
theorem asked_lands {t : State} (h : secMaps t = true) :
    ∃ xl, xlate t 0 [] (upFrom 0x8000 16) = (t, .ok xl) ∧
      (writeStop (freeBytes t 16).2 ((pairs 0x8000 (freeBytes t 16).1).map fun x => (viaXl xl x.1, x.2))).2 = none := by
  obtain ⟨xl, x1, x2⟩ := sec_xlate (reads := []) (writes := upFrom 0x8000 16) h (fun _ h => nomatch h) (below (by decide))
  exact ⟨xl, x1, sec_write (n := 16) (fun b hb => x2 b (.inr hb)) (by decide)
    (by unfold freeBytes upFrom; simp only [List.length_map, List.length_range]; exact Nat.le_refl 16) (sec_bad h)⟩

theorem test_met_SecurityCommands_challenge (i : Nat) (hi : i ∈ [1, 2]) :
    let p := pktOf (asked i)
    let t := aft (asked i)
    pktRuns (asked i) 33 opDebugUnlock 4 p t ∧ fld (p.w 1) 51 48 = 0 ∧ t.sec.tlevel < 2 ∧ t.sec.idState = i ∧
    ∃ xl, xlate t p.ctx [] (upFrom (fld (p.w 1) 47 0) 16) = (t, .ok xl) ∧
      (writeStop (freeBytes t 16).2 ((pairs (fld (p.w 1) 47 0) (freeBytes t 16).1).map fun x => (viaXl xl x.1, x.2))).2 =
        none := by
  obtain ⟨run, maps, lv, id'⟩ := asked_runs i hi
  obtain ⟨c, z, v⟩ := asked_fields i hi
  refine ⟨runs33 run, z, lv, id', ?_⟩
  rw [c, v]
  exact asked_lands maps

/-- A token of zero bytes, the first and the fifteenth to fail. -/
def tokened (n : Nat) : State := secPk (fun x => { x with fails := n }) opDebugUnlock [2 ^ 48 + 0x8000]

theorem tokened_runs : ∀ n ∈ [0, 14], runsTest (tokened n) opDebugUnlock = true ∧ secMaps (aft (tokened n)) = true ∧
    (aft (tokened n)).sec.tlevel < 2 ∧ satInc 8 (aft (tokened n)).sec.fails ≠ 16 ∧ (aft (tokened n)).mem = [] := by decide +kernel

theorem tokened_fields : ∀ n ∈ [0, 14], let p := pktOf (tokened n)
    p.ctx = 0 ∧ fld (p.w 1) 51 48 = 1 ∧ fld (p.w 1) 47 0 = 0x8000 := by decide +kernel

theorem tokened_version : fieldAt (lookRange (0 : Byte) (0x18040000000 + 0x8000) 17120 []) 0 4 = 0 := by decide +kernel

theorem test_met_SecurityCommands_token (n : Nat) (hn : n ∈ [0, 14]) :
    let s := tokened n
    let p := pktOf s
    pktRuns s 33 opDebugUnlock 4 p (aft s) ∧ fld (p.w 1) 51 48 = 1 ∧ (aft s).sec.tlevel < 2 ∧
    ∃ t2 xl bs, xlate (aft s) p.ctx (upFrom (fld (p.w 1) 47 0) 17120) [] = (aft s, .ok xl) ∧
      readCheck (aft s) ((upFrom (fld (p.w 1) 47 0) 17120).map (viaXl xl)) = (t2, none) ∧
      bs = vaBytes t2 xl (fld (p.w 1) 47 0) 17120 ∧ tokenLevel t2.sec bs = none ∧ satInc 8 t2.sec.fails ≠ 16 := by
  intro s p
  obtain ⟨run, maps, lv, few, mem⟩ := tokened_runs n hn
  obtain ⟨c, z, v⟩ := tokened_fields n hn
  obtain ⟨xl, x1, x2⟩ := sec_xlate (reads := upFrom 0x8000 17120) (writes := []) maps (below (by decide)) (fun _ h => nomatch h)
  have hx : ∀ a ∈ upFrom 0x8000 17120, viaXl xl a = 0x18040000000 + a := fun b hb => x2 b (.inl hb)
  obtain ⟨hm, hc⟩ := sec_read_state (t := aft s) hx (by decide) (sec_bad maps)
  have blob := sec_bytes hx hm
  rw [mem] at blob
  refine ⟨runs33 run, z, lv, (readCheck (aft s) ((upFrom 0x8000 17120).map (viaXl xl))).1, xl, _, ?_, ?_, rfl, ?_, ?_⟩
  · rw [c, v]; exact x1
  · rw [v]; exact sec_read_eq hx (by decide) (sec_bad maps)
  · rw [v, blob]
    unfold tokenLevel
    simp only [tokened_version]
    simp
  · rw [hc]; exact few

/-- The part is on: every sensor has its bit. -/
theorem test_met_SecurityCommands_tamper : (one Core.reset).pkg ≠ .off := by decide

/-! ### Power, boot and self-tests -/

/-- Die 1 is parked. -/
def parked1 (s : State) : State := { s with power := { s.power with die := [(1, .parked)] } }

theorem test_met_PowerCommands_set :
    (∀ u ∈ [(0x910, true), (6000, true), (6001, false), (10, false)], let s := pk base opLedgerSet [0, u.1]
      let p := pktOf s
      pktRuns s 33 opLedgerSet 4 p (aft s) ∧ fld (p.w 1) 3 0 = 0 ∧
      (((aft s).power.base ≤ fld (p.w 2) 12 0 ∧ fld (p.w 2) 12 0 ≤ 6000) ↔ u.2 = true)) ∧
    (∀ u ∈ [0, 6000], let s := pk base opLedgerSet [0x101, u]
      let p := pktOf s
      pktRuns s 33 opLedgerSet 4 p (aft s) ∧ fld (p.w 1) 3 0 = 1 ∧ fld (p.w 2) 12 0 = u ∧ (aft s).hasDie (fld (p.w 1) 9 8) = true) ∧
    (∀ x ∈ [(2, base, DieState.run), (3, parked1 base, .parked)], let s := pk x.2.1 opLedgerSet [0x100 + x.1]
      let p := pktOf s
      pktRuns s 33 opLedgerSet 4 p (aft s) ∧ fld (p.w 1) 3 0 = x.1 ∧ fld (p.w 1) 9 8 = 1 ∧ (aft s).hasDie 1 = true ∧
      (aft s).parksOf 1 = [] ∧ (aft s).dieState 1 = x.2.2 ∧ ∀ c ∈ dieCores 1, ((aft s).core c).launches = []) := by
  refine ⟨fun x hx => ⟨runs33 ?_, ?_⟩, fun x hx => ⟨runs33 ?_, ?_⟩, fun x hx => ⟨runs33 ?_, ?_⟩⟩ <;> revert x
  all_goals decide +kernel

/-- A reading at each edge of the thresholds, of 8 sensors. -/
theorem test_met_PowerCommands_events :
    (∀ b ∈ [true, false], let s : State := { base with power := { base.power with parks := [(1, [⟨4, b⟩])] } }
      s.parksOf 1 = [⟨4, b⟩] ∧ ∀ c ∈ dieCores 1, (s.core c).prog = none) ∧
    (∀ n ∈ [-5, 0, 0x5a, 0x5f, 0x64, 0x68], let s : State := { base with boot := { base.boot with phase := 5 } }
      let rs : List (Option Int) := List.replicate 7 (some (-5)) ++ [some n]
      diePresent s 1 = true ∧ rs.length = sensorsOf 1 ∧ s.boot.phase = 5 ∧ (∀ r ∈ rs, r.isSome) ∧ (dtempOf s 1).tlevel = 0 ∧
      (∀ e ∈ (dtempOf s 1).fails, e.2 = 0) ∧ (hottest rs).getD 0 < s.power.crit.toNat) ∧
    (∀ b ∈ [true, false], let s : State := { base with power := { base.power with thLock := b } }
      s.powered = true ∧ s.power.thLock = b) ∧
    (∀ x ∈ [(0x030201, true), (0x020201, false), (0x030202, false)], let v : W64 := BitVec.ofNat 64 x.1
      decide (fld v.toNat 7 0 < fld v.toNat 15 8 ∧ fld v.toNat 15 8 < fld v.toNat 23 16) = x.2) ∧
    (let s : State := { base with power := { base.power with clkSys := true, clkL0 := true, clkL1 := true, clkP0 := true, clkP1 := true } }
     ∀ dom ∈ [ClockDomain.arith 3, .fabric, .hbm 7, .phy 0, .link 0, .link 31, .pcie 1, .ingest 1, .casori, .lpp, .security, .debug,
       .timebase], domainRuns s dom = true) ∧
    base.pkg ≠ .off := by
  decide +kernel

/-- The part starts up in a phase. -/
def booting (n : Nat) : State :=
  { base with boot := { base.boot with phase := n, loadAddr := 0x5000, loadLen := 300 }, pkg := .boot, hmem0 := [(0x5003, 9)] }
/-- The same with an open mailbox. -/
def boxed (n : Nat) : State :=
  ((booting n).setPort 0 { Port.reset with up := true }).setCtx 0 { Ctx.reset with en := true, cfg := ⟨true, 37, []⟩ }

theorem test_met_BootSequence_start :
    (base.pkg ≠ .off ∧ base.boot.phase ≠ 7 ∧ wfTable 0 base.mem = true) ∧
    (∀ d ∈ [true, false], let s0 := booting 0
      let s : State := { s0 with boot := { s0.boot with romDone := d } }
      s.pkg = .boot ∧ s.boot.phase = 0 ∧ s.straps.dbgscan = false ∧ s.boot.romDone = d ∧ s.straps.lpden < 5) ∧
    (∀ e ∈ [(false, false), (true, false), (true, true)], let env : RomEnv := ⟨e.1, e.2, some ⟨true, 30, []⟩, none⟩
      env.romOk = e.1 ∧ env.lockOk = e.2 ∧ env.link0 = some ⟨true, 30, []⟩) := by
  decide +kernel

theorem test_met_BootSequence_mailbox :
    (∀ n ∈ [1, 6, 2, 3], let s := boxed n
      mailboxOpen s 0 = true ∧ s.boot.phase = n ∧ s.boot.owner = 0 ∧ mbServed s 0 9 = false ∧ mbServed s 0 4 = false) ∧
    (∀ n ∈ [2, 3, 4], (booting n).boot.phase = n) ∧ (boxed 4).host.p0.up = true := by
  decide +kernel

/-- An image whose length and header pass; whether it verifies is the part's. -/
theorem test_met_BootSequence_verify :
    let s := pokes { booting 3 with boot := { (booting 3).boot with loadLen := 20480 + 64 } }
      [(0x18000000000, leBytes 4 1 ++ leBytes 4 1 ++ leBytes 4 77 ++ leBytes 4 64 ++ List.replicate 48 0)]
    let o := s.bytes 0x18000000000 (max s.boot.loadLen 20480)
    s.boot.phase = 3 ∧ imageLenOk s.boot o = true ∧ headerOk 1 o = true ∧ (objVerify o = none ∨ ∃ i, objVerify o = some i) := by
  intro s o
  have h : s.boot.phase = 3 ∧ imageLenOk s.boot o = true ∧ headerOk 1 o = true := by decide +kernel
  refine ⟨h.1, h.2.1, h.2.2, ?_⟩
  cases objVerify o with
  | none => exact .inl rfl
  | some i => exact .inr ⟨i, rfl⟩

/-- Core 0's array 1 with a self-test in a state for each half, and core 0 under test. -/
def testing (m : Mxa) (t : SelfTest) : State :=
  let k := busy.setMxa 1 m
  { one k with agg := { Agg.reset with tst := [(0, true)], tests := [(testKey 0 1 0, t), (testKey 0 1 1, t)] } }

theorem test_met_SelfTests :
    (∀ h ∈ [0, 1], let s := testing split ⟨true, false, 5, false⟩
      hasTest s 0 1 h = true ∧ (testOf s 0 1 h).due = true ∧ (((s.core 0).mxa 1).half h).head = none ∧ s.powered = true ∧
      testDue { s with agg := { s.agg with stper := 1 }, tbtime := 10000000000 } (testOf s 0 1 h) = true) ∧
    (let s := testing { Mxa.reset with west := { Mxa.reset.west with queue := [acmd [(1, 60)] []] } } ⟨true, false, 5, false⟩
     hasTest s 0 1 0 = true ∧ (testOf s 0 1 0).due = true ∧ (((s.core 0).mxa 1).half 0).head ≠ none) ∧
    (let s := testing Mxa.reset ⟨true, false, 5, false⟩
     s.agg.tst.has 0 = true ∧ s.pkg ≠ .off ∧ s.agg.safe = false ∧ ({ s with agg := { s.agg with safe := true } } : State).pkg ≠ .off) := by
  decide +kernel

/-! ### Ports, counters, check values, registers, management -/

/-- Port 0 is up with its PF, context 0, which waits for a page and caches two. -/
def portUp : State :=
  let s := base.setPort 0 { Port.reset with up := true }
  s.setCtx 0 { s.ctx 0 with en := true, cfg := ⟨true, 37, []⟩, ats := true, atc := [(3, 9), (5, 10)], pageReqs := [(7, some .asked)] }
/-- The same with VFs 1 to 4, context 3 among them. -/
def vfsOn : State :=
  (portUp.setPort 0 { Port.reset with up := true, vfEn := true, numVf := 4 }).setCtx 3 { Ctx.reset with en := true }

theorem test_met_PortEvents :
    (∀ a ∈ [(2 ^ 37 - 8, true), (2 ^ 37 - 7, false)], inBar2 portUp 0 a.1 8 = a.2) ∧ inBar2 portUp 0 0x2000 3 = true ∧
    (hostServed portUp 0 = true ∧ inBar2 portUp 0 0x2000 4 = true ∧ (readSpace portUp 0 false 0x2000 4).2 = .ok [0, 0, 0, 0] ∧
     (writeSpace portUp 0 false 0x2000 [1, 2, 3]).2 = .ok [] ∧ look none 7 (portUp.ctx 0).pageReqs = some .asked) ∧
    (let s := portUp.setCtx 0 { portUp.ctx 0 with root := none, xc := [] }
     hostServed s 0 = true ∧ inBar2 s 0 0x2000 4 = true ∧ (readSpace s 0 false 0x2000 4).2 = .err Code.xlate 0x2000) ∧
    (∀ n ∈ [0, 1], let s : State := { vfsOn with host := { vfsOn.host with stPort := n } }
      (s.port 0).up = true ∧ (s.port 0).vfEn = true ∧ (s.host.stPort = 0 ↔ n = 0)) ∧
    (let s : State := { base with power := { base.power with clkP0 := true, clkP1 := true } }
     ∀ p ∈ [0, 1], (s.port p).up = false ∧ s.clocked (.pcie p) = true ∧ s.power.clkP0 = true ∧ s.power.clkP1 = true) ∧
    ((portUp.port 0).up = true ∧ (portUp.port 0).vfEn = false) ∧
    (functionOn vfsOn 3 = true ∧ 3 % 16 ≠ 0) := by
  decide +kernel

/-- Counters 0 and 9 count; group 0 is context 0's, group 2 context 3's; dumps go to LPDDR. -/
def tly1 : Tly :=
  { Tly.reset with
    sel := [(0, 0x8000000000000001), (9, 0x8000000000000012)], cnt := [(0, 5), (9, 6)], groups := [(0, some 0), (2, some 3)],
    bw := some 0, dEn := true, dva := 0x18000100000 }
def tallied (y : Tly) : State :=
  let s := portUp
  { s with tly := y, lpp := { s.lpp with ready := true, ranks := true, size := 4 } }

theorem test_met_TallyCounters_grant :
    ∀ x ∈ [(0x100, 0, none), (0x8000, 7, none), (0x480, 2, some 0)],
      let s0 := pk base opTlyGrant [x.1]
      let s : State := { s0 with tly := { s0.tly with groups := [(2, x.2.2)] } }
      let p := pktOf s
      pktRuns s 33 opTlyGrant 4 p (aft s) ∧ functionEnabled (aft s) (fld (p.w 1) 4 0) = true ∧ fld (p.w 1) 18 8 = 2 ^ x.2.1 ∧
      (bitOf (p.w 1) 7 = x.2.2.isSome) ∧ (aft s).tly.groupOf x.2.1 = x.2.2 := by
  refine fun x hx => ⟨runs33 ?_, ?_⟩ <;> revert x <;> decide +kernel

theorem test_met_TallyCounters_select :
    (let s := tallied { tly1 with sel := [] }
     ∀ ag ∈ [Agent.firmware 0, .ctxPage 0],
       agentLive s ag = true ∧ (s.tly.sel.any fun p => timed p.2) = false ∧ tlyMay ag (s.tly.groupOf (1 / 8)) = true ∧
       selectionOk s ag 1 (BitVec.ofNat 64 (2 ^ 63 + 2 ^ 62)) = true ∧ selectionOk s ag 0 (BitVec.ofNat 64 (2 ^ 63 + 2 ^ 62)) = false ∧
       maySnap s ag = true ∧ tlyMay ag s.tly.bw = true) ∧
    (let s := tallied tly1
     fld (0 : W64).toNat 19 0 = 0 ∧ (∀ n ∈ [1, 1000000], 1 ≤ fld (BitVec.ofNat 64 (2 ^ 60 + n)).toNat 19 0 ∧
       fld (BitVec.ofNat 64 (2 ^ 60 + n)).toNat 19 0 ≤ 1000000 ∧ bwSource s (BitVec.ofNat 64 (2 ^ 60 + n)).toNat = true) ∧
     1000000 < fld (BitVec.ofNat 64 1000001).toNat 19 0) ∧
    (∀ b ∈ [true, false], let x := (tallied (tly1.setMon 15 ⟨0x9000000000000005, 1, 2, 3, 4, b⟩)).tly.mon 15
      x.cfg.getLsbD 63 = true ∧ x.whole = b ∧ fld x.cfg.toNat 62 60 = 1) := by
  decide +kernel

theorem test_met_TallyCounters_dump :
    (let s := tallied { tly1 with writing := some ⟨0x18000100040, [1, 2, 3]⟩ }
     s.tly.dEn = true ∧ s.tly.writing = some ⟨0x18000100040, [1, 2, 3]⟩ ∧ (latch s).tly.writing ≠ none ∧
     (writeCheck s (pairs 0x18000100040 [1, 2, 3])).2 = none) := by
  decide +kernel

theorem test_met_TallyCounters_latch :
    let s := tallied { tly1 with sel := [] }
    let t := latch s
    let pa := t.tly.dva + t.tly.seq.toNat % t.tly.ring * 1024
    (s.tly.dEn = true ∧ t.tly.writing = none ∧ t.tly.dump = none ∧ ∀ a ∈ upFrom pa 1024, populated t a = true) ∧
    (writeStop t (pairs (pa + 32) (dumpBody t.tly))).2 = none := by
  refine ⟨by decide +kernel, ?_⟩
  refine writeStop_lpp _ (fun p hp => ?_) (by decide +kernel)
  have h : ∀ n, (pairs 0x18000100020 (dumpBody (latch (tallied { tly1 with sel := [] })).tly)).length ≤ n → n < 4096 →
      inLpp p.1 := by
    intro n hn hm
    have ha : ∀ (lo : Nat) (bs : List Byte), p ∈ pairs lo bs → lo ≤ p.1 ∧ p.1 < lo + bs.length := by
      intro lo bs h
      unfold pairs at h
      obtain ⟨i, hi, he⟩ := List.mem_iff_getElem.1 h
      simp only [List.length_zipWith, List.length_range, Nat.min_self] at hi
      rw [List.getElem_zipWith, List.getElem_range] at he
      rw [← he]
      exact ⟨by simp, by simp; omega⟩
    have hb := ha _ _ hp
    have hl : (pairs 0x18000100020 (dumpBody (latch (tallied { tly1 with sel := [] })).tly)).length =
        (dumpBody (latch (tallied { tly1 with sel := [] })).tly).length := by
      unfold pairs
      simp
    have hp0 : (latch (tallied { tly1 with sel := [] })).tly.dva + (latch (tallied { tly1 with sel := [] })).tly.seq.toNat %
        (latch (tallied { tly1 with sel := [] })).tly.ring * 1024 = 0x18000100000 := by decide +kernel
    rw [hp0] at hb
    exact ⟨by omega, by omega⟩
  exact h 2000 (by decide +kernel) (by decide)

/-- Channel 1, of port 0, copies 20 bytes from 0x2000 to 0x3000. -/
def chan1 (c : Nat) : CvChan := { CvChan.reset with src := 0x2000, dst := 0x3000, len := 20, ctl := BitVec.ofNat 64 c }
def cvSt (x : CvChan) : State :=
  (pokes portUp [(wsPa 0 0x2000, List.replicate 20 7), (wsPa 0 0x2014, leBytes 4 5)]).setCv 1 x

theorem test_met_CheckValues_go :
    (∀ c ∈ [(3 * 2 ^ 32, true), (2 ^ 38 + 2 ^ 39, true), (0, false), (2 ^ 32, false), (2 * 2 ^ 32 + 1, false)],
      let v := BitVec.ofNat 64 (2 ^ 63 + c.1)
      let x := (cvSt (chan1 0)).cv 1
      let y : CvChan := { x with ctl := v &&& 0x00FFF0CF00000001 }
      agentLive (cvSt (chan1 0)) (.firmware 0) = true ∧ cvMay (.firmware 0) 1 = true ∧
      v.getLsbD 63 = true ∧ v.getLsbD 62 = false ∧ v.getLsbD 61 = false ∧ x.run = none ∧ y.len ≠ 0 ∧ y.overlap = false ∧
      ((y.mode = 3 ∨ (y.sspace = true ∧ y.hostDst = true)) ↔ c.2 = true)) ∧
    (let x := (cvSt { chan1 0 with len := 0 }).cv 1
     x.run = none ∧ ({ x with ctl := 0x8000000000000000 &&& 0x00FFF0CF00000001 } : CvChan).len = 0) ∧
    (let x := (cvSt { chan1 0 with dst := 0x2010 }).cv 1
     x.run = none ∧ ({ x with ctl := 0x8000000000000000 &&& 0x00FFF0CF00000001 } : CvChan).overlap = true) ∧
    (∀ c ∈ [0, 2 ^ 32], let s := cvSt (chan1 0)
      let y : CvChan := { s.cv 1 with ctl := BitVec.ofNat 64 (2 ^ 63 + c) &&& 0x00FFF0CF00000001 }
      ∃ s1 xl, xlate (s.setCv 1 y) 0 (if y.sspace then [] else upFrom y.src.toNat y.reads) (if y.hostDst then [] else upFrom y.dst.toNat y.writes) =
        (s1, .ok xl) ∧ y.len = 20) := by
  refine ⟨by decide +kernel, by decide +kernel, by decide +kernel, ?_⟩
  have h : ∀ c ∈ [0, 2 ^ 32], let s := cvSt (chan1 0)
      let y : CvChan := { s.cv 1 with ctl := BitVec.ofNat 64 (2 ^ 63 + c) &&& 0x00FFF0CF00000001 }
      xlTest (xlate (s.setCv 1 y) 0 (if y.sspace then [] else upFrom y.src.toNat y.reads) (if y.hostDst then [] else upFrom y.dst.toNat y.writes))
        (fun _ _ => decide (y.len = 20)) = true := by decide +kernel
  exact fun c hc => xlated (h c hc)

theorem test_met_CheckValues_run :
    (let s := cvSt { chan1 0 with run := some [] }
     (s.cv 1).run ≠ none ∧ agentLive s (.firmware 0) = true) ∧
    (∀ c ∈ [(0, 0), (3 * 2 ^ 32, 3), (3 * 2 ^ 32 + 2 ^ 34, 3)], let v := BitVec.ofNat 64 (2 ^ 62 + c.1)
      v.getLsbD 62 = true ∧ v.getLsbD 63 = false ∧ v.getLsbD 61 = false ∧
      ({ (cvSt (chan1 0)).cv 1 with ctl := v &&& 0x00FFF0CF00000001 } : CvChan).mode = c.2) ∧
    (let x := (cvSt { chan1 (3 * 2 ^ 32) with acc := some 5 }).cv 1
     x.acc = some 5 ∧ x.mode = 3) ∧
    (∀ m ∈ [0, 1, 2], let xl : Table Nat := [(2, wsPa 0 0x2000 / 4096), (3, wsPa 0 0x3000 / 4096)]
      let s := cvSt { chan1 (m * 2 ^ 32) with run := some xl }
      let x := s.cv 1
      let src := (upFrom x.src.toNat x.reads).map (viaXl xl)
      let r := readCheck s src
      x.run = some xl ∧ x.sspace = false ∧ r.2 = none ∧ x.mode = m ∧ x.dspace = false ∧
      (writeStop r.1 ((pairs x.dst.toNat (x.output (src.map s.byte))).map fun p => (viaXl xl p.1, p.2))).2 = none) := by
  decide +kernel

theorem test_met_RegisterWrites :
    (∀ ag ∈ [Agent.firmware 0, .bar4 0, .ctxPage 0], agentLive portUp ag = true) ∧
    ¬ ((2 = 4 ∨ 2 = 8) ∧ 0x1200010 % 2 = 0) ∧ ((8 = 4 ∨ 8 = 8) ∧ 0x1200010 % 8 = 0) ∧
    (blockAbsent { portUp with power := { portUp.power with die := [(0, .parked)] } } (blockOf (0x840000 / 8 * 8)) = false) ∧
    (∀ b ∈ [true, false], ({ portUp with agg := { portUp.agg with sfLock := b } } : State).agg.sfLock = b) ∧
    (portUp.ctx 0).aen = false ∧ agentLive { portUp with sec := { portUp.sec with debug := 1 } } .debugPort = true := by
  decide +kernel

/-- Core 0's part with every stack, no lock set, and an open mailbox; the same with the locks set. -/
def writable (lock : Bool) : State :=
  let s := portUp.setStack 7 { Stack.reset with prLock := lock }
  let s := s.setStack 0 { Stack.reset with prLock := lock }
  { s with net := { s.net with tbLock := lock } }

theorem test_met_RegisterWriteCompletes :
    (∀ b ∈ [true, false], agentLive (writable b) (.firmware 1) = true ∧ (writable b).net.tbLock = b ∧
      ∀ k ∈ [0, 7], (writable b).hasStack k = true ∧ ((writable b).stack k).prLock = b) ∧
    mailboxOpen { portUp with boot := { portUp.boot with phase := 1 } } 0 = true ∧
    (let s := portUp.setPort 1 { Port.reset with up := true }
     let s := s.setCtx 16 { Ctx.reset with en := true, cfg := ⟨true, 37, []⟩ }
     mailboxOpen { s with boot := { s.boot with phase := 5 } } 1 = true) ∧
    (∀ k ∈ [0, 3], agentLive (cvSt (chan1 0)) (.firmware 0) = true ∧ cvMay (.firmware 0) k = true ∧
      ((cvSt (chan1 0)).cv k).busy = false) ∧
    agentLive portUp (.bar4 0) = true ∧ cvMay (.bar4 0) 1 = true ∧
    agentLive { portUp with mgmt := { portUp.mgmt with halted := [(97, true)] } } (.firmware 1) = false := by
  decide +kernel

/-- Reads of a wrong width, of an assigned register, an unassigned offset and an absent unit, through each agent. -/
theorem test_met_RegisterReads :
    (¬((2 = 4 ∨ 2 = 8) ∧ 0x1200010 % 2 = 0) ∧ ¬((8 = 4 ∨ 8 = 8) ∧ 0x1200014 % 8 = 0)) ∧
    (∀ ag ∈ [Agent.firmware 0, .bar4 0], readsTly ag 0x1200010 = false ∧ (agentRead portUp ag 0x1200010).isSome = true ∧
      readsTly ag 0x120FFF8 = false ∧ agentRead portUp ag 0x120FFF8 = none) ∧
    (let s : State := { portUp with variant := .s }
     blockAbsent s (blockOf 0x6F0000) = true ∧ blockAbsent s (blockOf 0x1200010) = false) ∧
    (0xF00000 % 8 = 0 ∧ 0xFFFFF8 < 0x1000000) ∧
    hostServed portUp 0 = true ∧ 0xFFFC < 0x10000 ∧ 0xFFFC % 4 = 0 := by
  decide +kernel

/-- An absent unit, an unassigned offset, an assigned one, and the units BAR4 may not write. -/
theorem test_met_RegisterWrites_units :
    (blockAbsent { portUp with variant := .s } (blockOf (0x6F0000 / 8 * 8)) = true) ∧
    (blockAbsent portUp (blockOf 0x1200010) = false ∧ (blockRead portUp (blockOf 0x1200010)).isSome = true) ∧
    (blockAbsent portUp (blockOf 0x120FFF8) = false ∧ (blockRead portUp (blockOf 0x120FFF8)).isSome = false) := by
  decide +kernel

theorem test_met_ManagementPorts :
    base.pkg ≠ .off ∧
    (∀ b ∈ [true, false], ({ base with straps := { base.straps with dbgscan := b } } : State).straps.dbgscan = b) ∧
    (let s : State := { portUp with sec := { portUp.sec with debug := 1 } }
     1 ≤ s.sec.debug ∧ s.sec.debug < 2 ∧ ∃ x, blockOf 0x1200010 = .agg x ∧ (aggRead s.agg x).isSome = true) ∧
    (let s : State := { portUp with sec := { portUp.sec with debug := 2 } }
     2 ≤ s.sec.debug ∧ s.hasCore 95 = true ∧ (∀ b ∈ upFrom (wsPa 0 0) 8, populated s b = true) ∧
     (let d : State := { s with mgmt := { s.mgmt with instr := .dbgacc, dr := 0, driven := false } }
      (readCheck d (upFrom (wsPa 0 0) 8)).2 = none ∧ (writeCheck d (pairs (wsPa 0 0) [1, 2, 3])).2 = none)) := by
  refine ⟨by decide +kernel, by decide +kernel, ⟨by decide +kernel, by decide +kernel, _, rfl, by decide +kernel⟩, by decide +kernel⟩

/-! ### The whole block -/

/-- An empty queue in OFF, and with the timebase stopped, running and one tick before it has caught up. -/
theorem test_met_StepRunsFrontCommand_idle :
    base.pending = [] ∧ ({ base with pkg := .off } : State).powered = false ∧ base.powered = true ∧
    base.clocked .timebase = true ∧ base.net.tbStop = 0 ∧ base.net.tbSlew = 0 ∧
    (let s : State := { base with power := { base.power with stopped := [.timebase] } }
     s.clocked .timebase = false) ∧
    (let s : State := { base with net := { base.net with tbStop := 1, tbHold := false } }
     s.powered = true ∧ s.clocked .timebase = true ∧ s.net.tbStop = 1 ∧ s.net.tbHold = false) := by
  decide +kernel

/-- Every memory of a state with bytes in it is canonical, and its front command answers a next state. -/
theorem test_met_StepKeepsMemories :
    let s : State := { portUp with mem := [(5, 1), (0x10000000000, 2)], pending := [.hbmRefresh 0 0 0] }
    s.memoriesOk ∧ step s = .next { s with pending := [] } :=
  ⟨⟨by decide +kernel, by decide +kernel, by decide +kernel⟩, rfl⟩

/-! ### Ill-formed terms -/

/-- Cores are 0 to 95, streams 0 to 2, arrays, halves and queues 0 and 1. -/
theorem test_wf_core :
    [Instr.add 95 2, .ldst 95 1 1, .gateDecide 95, .selfTestDue 95 1 1, .sfuTableScrub 95 1 1 31 127, .dbWrite 95 15 0].all Instr.wf = true ∧
    [Instr.add 96 0, .add 0 3, .vadd 96 0 none, .vadd 0 3 none, .ldst 96 0 0, .ldst 0 2 0, .ldst 0 0 2, .gateDecide 96, .colmaskApply 0 2,
      .rampIntervalEnd 0 0 2 ⟨true, true⟩, .selfTestDue 96 0 0, .selfTestDue 0 2 0, .selfTestDue 0 0 2, .sfuTableScrub 0 2 0 0 0,
      .sfuTableScrub 0 0 2 0 0, .sfuTableScrub 0 0 0 32 0, .sfuTableScrub 0 0 0 0 128, .dbWrite 96 0 0, .dbWrite 0 16 0,
      .coreTestComplete 96 true, .veRateWindowEnd 0 2 0].any Instr.wf = false := by
  decide

/-- Requesters: Casori pairs and ports 0 and 1, contexts 0 to 31; widths 1, 2, 4, 8; offsets below 2^32. -/
theorem test_wf_agent :
    [Instr.csrWrite (.firmware 1) 0xFFFFFFFF 8 0, .csrWrite (.ctxPage 31) 0 1 0, .tlySnap (.bar4 1), .cvFeed .debugPort 3 0x37 1 0,
      .ledgerGrant (.core 95), .ledgerGrant (.ingest 1), .ledgerGrant (.link 63)].all Instr.wf = true ∧
    [Instr.csrWrite (.firmware 2) 0 8 0, .csrWrite (.bar4 2) 0 8 0, .csrWrite (.ctxPage 32) 0 8 0, .csrWrite .debugPort 0x100000000 8 0,
      .csrWrite .debugPort 0 3 0, .tlyselWrite (.firmware 0) 64 0, .bwcfgWrite (.firmware 0) 16 0, .bwWindowEnd 16,
      .cvGo (.firmware 0) 4 0, .cvFeed .debugPort 0 0x2F 1 0, .cvFeed .debugPort 0 0x38 1 0, .cvFeed .debugPort 0 0x30 3 0,
      .cvComplete 4 none, .ledgerGrant (.core 96), .ledgerGrant (.ingest 2), .ledgerGrant (.link 64)].any Instr.wf = false := by
  decide

/-- Queues 0 to 4095, contexts, ports, streams of the table, decode cores. -/
theorem test_wf_host :
    [Instr.nop 4095, .sqTailDoorbell 31 4095 0, .statusReplyWrite 4095, .portLinkDown 1, .vfEnableSet 1 ⟨15, ⟨true, 37, []⟩⟩, .streamDrained 262143,
      .segmentStart 1 63, .flrVf 31].all Instr.wf = true ∧
    [Instr.nop 4096, .launch 4096, .unlistedPacketOpcode 4096, .sqTailDoorbell 32 0 0, .sqTailDoorbell 0 4096 0, .cqHeadDoorbell 0 4096 0,
      .statusReplyWrite 4096, .adminQueueEnable 32 0, .bar2Read 32 0 1, .bar2Write 0 (2 ^ 48) [], .atsInvalidation 32 0 0,
      .pageRequestTimeout 32 0, .portLinkDown 2, .hotReset 2, .flrVf 32, .pcieLinkUp ⟨2, ⟨true, 37, []⟩⟩, .pcieLinkUp ⟨0, ⟨true, 29, []⟩⟩,
      .pcieLinkUp ⟨0, ⟨true, 38, []⟩⟩, .vfEnableSet 0 ⟨0, ⟨true, 37, []⟩⟩, .vfEnableSet 0 ⟨16, ⟨true, 37, []⟩⟩,
      .streamDrained 262144, .batchStart 2, .segmentStart 2 0, .segmentStart 0 64, .segmentComplete 64, .mbPush 2,
      .mbcmdDiscarded 0 16].any Instr.wf = false := by
  decide

/-- Stacks 0 to 7, pseudo-channels 0 to 63, sectors, dies, links and bonds. -/
theorem test_wf_units :
    [Instr.hbmSectorRead 7 0x13FFFFFFE0 ⟨.ctx 31, .clean⟩, .hbmSectorWrite 0 0 .firmware [1] 31, .retrainStart 7 63 .periodic, .dieParkComplete 3,
      .dieTempSample 3 (List.replicate 8 none), .dieTempSample 5 (List.replicate 4 none), .linkEnable 63, .bondWrite 31 0,
      .pllLockLoss (.link 31), .pllLockLoss (.arith 3)].all Instr.wf = true ∧
    [Instr.hbmSectorRead 8 0 ⟨.firmware, .clean⟩, .hbmSectorRead 0 16 ⟨.firmware, .clean⟩,
      .hbmSectorRead 0 0x1400000000 ⟨.firmware, .clean⟩, .hbmSectorRead 0 0 ⟨.ctx 32, .clean⟩, .hbmSectorWrite 0 0 .firmware [] 0, .hbmSectorWrite 0 0 .firmware [1, 2] 31, .hbmShareWindow 8,
      .hbmRefresh 0 64 0, .retrainStart 8 0 .periodic, .retrainStart 0 64 .periodic, .dieParkComplete 4,
      .dieTempSample 6 (List.replicate 4 none), .dieTempSample 0 (List.replicate 4 none), .smbDieTemp 6, .smbStackTemp 8, .linkEnable 64,
      .bondWrite 32 0, .pllLockLoss (.link 32), .pllLockLoss (.pcie 2), .pllLockLoss (.hbm 8), .pllLockLoss (.phy 8),
      .pllLockLoss (.ingest 2), .pllLockLoss (.arith 4), .casoriWatchdogExpiry 2].any Instr.wf = false := by
  decide

/-- Flits, collectives, straps, debug accesses. -/
theorem test_wf_fields :
    (let f := dataFl 10 20 116
     let g (h : Flit) : Bool := (Instr.dataFlit 63 h false).wf
     g f = true ∧ (Instr.dataFlit 64 f false).wf = false ∧
     [g { f with ftype := 16 }, g { f with vl := 8 }, g { f with hops := 128 }, g { f with seq := 4096 }, g { f with ack := 4096 },
      g { f with crvl := 8 }, g { f with crcnt := 4096 }, g { f with plen := 256 }, g { f with dst := 65536 }, g { f with src := 65536 },
      g { f with payload := [] }].any id = false) ∧
    [Instr.put 1, .instanceStart 1 255, .straggleTimeout 1 255 63, .coldReset ⟨true, 7, 3, true⟩, .dbgacc (.haltCore 95),
      .dbgacc (.readMem (2 ^ 48 - 1) 1)].all Instr.wf = true ∧
    [Instr.put 2, .instanceStart 2 0, .instanceStart 0 256, .straggleTimeout 0 0 64, .xferTimeout 0 65536, .coldReset ⟨true, 8, 0, true⟩,
      .coldReset ⟨true, 0, 4, true⟩, .dbgacc (.haltCore 96), .dbgacc (.haltCasori 2), .dbgacc (.readMem (2 ^ 48) 1),
      .dbgacc (.writeMem (2 ^ 48 - 1) [1, 2]), .dbgacc (.readCsr 0x100000000)].any Instr.wf = false := by
  decide +kernel

end Sys2Proof.Tests
end

section
/-! PROOFS. Accesses of agents to CSR space: fields under a write, the block that an offset names, the record that a
refused access leaves, what a write or a read reaches, and the registers of the statements (R7, R10, R11, R27, R447,
R475). -/

namespace Sys2Proof.Machine

/-! ### Fields under a write that reaches every bit, or one half -/

theorem neg_one_eq_allOnes : (-1 : W64) = BitVec.allOnes 64 := rfl

/-- A write of all 64 bits replaces every RW bit. -/
theorem wrField_whole (old v : W64) : wrField old v (-1) (-1) = v := by
  rw [neg_one_eq_allOnes]
  simp only [wrField, BitVec.and_allOnes, BitVec.not_allOnes, BitVec.and_zero, BitVec.zero_or]

theorem merged_whole (old v : W64) : merged old v (-1) = v := wrField_whole old v

theorem rwNat_whole (old lo w : Nat) (v : W64) : rwNat old lo w v (-1) = fld v.toNat (lo + w - 1) lo := by
  rw [rwNat, wrField_whole]

theorem rwBit_whole (old : Bool) (v : W64) {i : Nat} (hi : i < 64) : rwBit old i v (-1) = v.getLsbD i := by
  rw [rwBit, neg_one_eq_allOnes, BitVec.getLsbD_allOnes, if_pos (decide_eq_true hi)]

theorem w1s_whole (old : Bool) (v : W64) (i : Nat) : w1s old v (-1) i = (old || v.getLsbD i) := by
  rw [w1s, neg_one_eq_allOnes, BitVec.and_allOnes]

/-- A write of the low half keeps the upper half (R10). -/
theorem merged_low (old v : W64) :
    merged old (v &&& 0xFFFFFFFF) 0xFFFFFFFF = (old &&& 0xFFFFFFFF00000000) ||| (v &&& 0xFFFFFFFF) := by
  have hm : ~~~((-1 : W64) &&& 0xFFFFFFFF) = 0xFFFFFFFF00000000 := rfl
  rw [merged, wrField, hm, neg_one_eq_allOnes, BitVec.and_allOnes, BitVec.and_assoc, BitVec.and_self]

/-- A write of the upper half keeps the low half (R10). -/
theorem merged_high (old v : W64) :
    merged old (v <<< 32) 0xFFFFFFFF00000000 = (old &&& (0xFFFFFFFF : W64)) ||| (v <<< 32) := by
  have hm : ~~~((-1 : W64) &&& 0xFFFFFFFF00000000) = 0xFFFFFFFF := rfl
  have hv : v <<< 32 &&& (0xFFFFFFFF00000000 : W64) = v <<< 32 := by
    rw [show (0xFFFFFFFF00000000 : W64) = BitVec.allOnes 64 <<< 32 from rfl, ← BitVec.shiftLeft_and_distrib,
      BitVec.and_allOnes]
  rw [merged, wrField, hm, neg_one_eq_allOnes, BitVec.and_allOnes, hv]

/-! ### The block that an offset names (R21, R27) -/

theorem blockOf_mailbox {off n o : Nat} (hn : n < 256) (ho : o < 0x100) (h : off = 0x10000 + n * 0x100 + o) :
    blockOf off = .mailbox n o := by
  simp (disch := omega) only [blockOf, if_neg, if_pos]
  congr <;> omega

theorem blockOf_stack {off k o : Nat} (hk : k < 8) (ho : o < 0x10000) (h : off = 0x800000 + k * 0x10000 + o) :
    blockOf off = .stack k o := by
  simp (disch := omega) only [blockOf, if_neg, if_pos]
  congr <;> omega

theorem blockOf_link {off l o : Nat} (hl : l < 64) (ho : o < 0x1000) (h : off = 0xA00000 + l * 0x1000 + o) :
    blockOf off = .link l o := by
  simp (disch := omega) only [blockOf, if_neg, if_pos]
  congr <;> omega

theorem blockOf_ce {off e o : Nat} (he : e < 2) (ho : o < 0x10000) (h : off = 0xB00000 + e * 0x10000 + o) :
    blockOf off = .ce e o := by
  simp (disch := omega) only [blockOf, if_neg, if_pos]
  congr <;> omega

theorem blockOf_power {off o : Nat} (ho : o < 0x100000) (h : off = 0xE00000 + o) : blockOf off = .power o := by
  simp (disch := omega) only [blockOf, if_neg, if_pos]
  congr
  omega

theorem blockOf_sec {off : Nat} (hlo : 0xF00000 ≤ off) (hhi : off < 0x1000000) : blockOf off = .sec (off % 0x100000) := by
  simp (disch := omega) only [blockOf, if_neg, if_pos]

theorem blockOf_cvu {off k o : Nat} (hk : k < 4) (ho : o < 0x100) (h : off = 0x1100000 + k * 0x100 + o) :
    blockOf off = .cvu k o := by
  simp (disch := omega) only [blockOf, if_neg, if_pos]
  congr <;> omega

/-! ### The record of an event (R527) -/

/-- s' is s with one more record: nothing but the aggregator and the host's interface changed. -/
def recorded (s s' : State) : Prop := { s' with agg := s.agg, host := s.host } = s ∧ s'.agg.wrptr = s.agg.wrptr + 1

theorem raiseMsix_ite_eq (s : State) (c : Bool) (ctx vec : Nat) :
    ∃ h, (if c then raiseMsix s ctx vec else s) = { s with host := h } := by
  cases c with
  | false => exact ⟨s.host, rfl⟩
  | true => exact ⟨_, rfl⟩

/-- Raising the aggregator's vector changes nothing but the host's interface. -/
theorem aggInterrupt_eq (s : State) (sev : Nat) : ∃ h, aggInterrupt s sev = { s with host := h } := by
  unfold aggInterrupt
  split
  · dsimp only
    obtain ⟨h, hh⟩ := raiseMsix_ite_eq s (s.host.p0.up && s.clocked (.pcie 0)) 0 s.agg.vec
    rw [hh]
    exact raiseMsix_ite_eq _ _ _ _
  · exact ⟨s.host, rfl⟩

theorem recorded_record (s : State) (e : Event) : recorded s (record s e) := by
  unfold record
  obtain ⟨h, hh⟩ := aggInterrupt_eq _ e.sev
  rw [hh]
  exact ⟨rfl, rfl⟩

theorem recorded_agentEvent (s : State) (ag : Agent) (off kind width : Nat) (write : Bool) :
    recorded s (agentEvent s ag off kind width write) := recorded_record s _

theorem recorded_refuseWrite (s : State) (ag : Agent) (off width : Nat) : recorded s (refuseWrite s ag off width) :=
  recorded_agentEvent s ag off 2 width true

/-! ### The format of an access (R10) -/

theorem formatOk_iff (off width : Nat) : formatOk off width = true ↔ (width = 4 ∨ width = 8) ∧ off % width = 0 := by
  simp [formatOk]

theorem formatOk_eq_false_iff (off width : Nat) :
    formatOk off width = false ↔ ¬((width = 4 ∨ width = 8) ∧ off % width = 0) := by
  rw [← formatOk_iff, Bool.not_eq_true]

theorem formatOk_whole {off : Nat} (h : off % 8 = 0) : formatOk off 8 = true := (formatOk_iff off 8).2 ⟨.inr rfl, h⟩

theorem formatOk_half {off : Nat} (h : off % 4 = 0) : formatOk off 4 = true := (formatOk_iff off 4).2 ⟨.inl rfl, h⟩

theorem placed_low {off : Nat} (h : off % 8 = 0) (v : W64) : placed off 4 v = (v &&& 0xFFFFFFFF, 0xFFFFFFFF) := by
  simp [placed, h]

theorem placed_high {off : Nat} (h : off % 8 = 4) (v : W64) : placed off 4 v = (v <<< 32, 0xFFFFFFFF00000000) := by
  simp [placed, h]

/-! ### The agent's write -/

section
variable {s t : State} {ag : Agent} {off width : Nat} {v m : W64}

theorem writeReaches_of_live (h : agentLive s ag = true) : writeReaches s ag off = true := by
  unfold writeReaches
  rw [h, Bool.true_or]

/-- A PF reaches its mailbox before READY (R497). -/
theorem writeReaches_of_mailbox {p n o : Nat} (hb : blockOf off = .mailbox n o) (ho : mailboxOpen s p = true) :
    writeReaches s (.bar4 p) off = true := by
  simp only [writeReaches, hb, ho, Bool.or_true]

theorem completes_csrWrite {P : State → State → Prop} (hr : writeReaches s ag off = true)
    (hP : P s (csrWrite s ag off width v)) : completes (.csrWrite ag off width v) s P := by
  refine ⟨_, rfl, ?_⟩
  rwa [if_pos hr]

theorem becomes_csrWrite (hr : writeReaches s ag off = true) (ht : csrWrite s ag off width v = t) :
    becomes (.csrWrite ag off width v) s t := completes_csrWrite hr ht

/-- A write that does not reach the part has no effect. -/
theorem becomes_csrWrite_unreached (hr : writeReaches s ag off = false) : becomes (.csrWrite ag off width v) s s := by
  refine ⟨_, rfl, ?_⟩
  rw [hr]
  rfl

theorem csrWrite_badFormat (hf : formatOk off width = false) :
    csrWrite s ag off width v = agentEvent s ag (eventOff ag off) 0 width true := by
  rw [csrWrite, hf]
  rfl

theorem csrWrite_firmware {p : Nat} (hf : formatOk off width = true) :
    csrWrite s (.firmware p) off width v =
      firmwareWrite s (.firmware p) off width (placed off width v).1 (placed off width v).2 := by
  rw [csrWrite, hf]
  rfl

theorem csrWrite_bar4 {p : Nat} (hf : formatOk off width = true) :
    csrWrite s (.bar4 p) off width v =
      bar4Write s (.bar4 p) p off width (placed off width v).1 (placed off width v).2 := by
  rw [csrWrite, hf]
  rfl

theorem csrWrite_ctxPage {n : Nat} (hf : formatOk off width = true) :
    csrWrite s (.ctxPage n) off width v =
      pageWrite s (.ctxPage n) n off width (placed off width v).1 (placed off width v).2 := by
  rw [csrWrite, hf]
  rfl

theorem csrWrite_debugPort (hf : formatOk off width = true) :
    csrWrite s .debugPort off width v = refuseWrite s .debugPort off width := by
  rw [csrWrite, hf]
  rfl

/-! ### Where the write goes (R7, R27, R447, R475, R500) -/

theorem firmwareWrite_absent (ha : blockAbsent s (blockOf (off / 8 * 8)) = true) :
    firmwareWrite s ag off width v m = s := by
  simp only [firmwareWrite, ha, if_true]

theorem firmwareWrite_unassigned (ha : blockAbsent s (blockOf (off / 8 * 8)) = false)
    (hr : blockRead s (blockOf (off / 8 * 8)) = none) :
    firmwareWrite s ag off width v m = agentEvent s ag off 1 width true := by
  simp [firmwareWrite, ha, hr]

theorem firmwareWrite_assigned (ha : blockAbsent s (blockOf (off / 8 * 8)) = false)
    (hr : blockRead s (blockOf (off / 8 * 8)) ≠ none) :
    firmwareWrite s ag off width v m = blockWrite s ag width v m (blockOf (off / 8 * 8)) := by
  simp [firmwareWrite, ha, hr]

theorem bar4Write_mailbox {p n o : Nat} (hb : blockOf (off / 8 * 8) = .mailbox n o)
    (hr : blockRead s (.mailbox n o) ≠ none) :
    bar4Write s ag p off width v m = if n = p then mbWrite s n o v m else s := by
  simp [bar4Write, hb, hr]

theorem bar4Write_cvu {p k o : Nat} (hb : blockOf (off / 8 * 8) = .cvu k o) (hr : blockRead s (.cvu k o) ≠ none) :
    bar4Write s ag p off width v m = cvWriteReg s ag k o width v m := by
  simp [bar4Write, hb, Option.isSome_iff_ne_none, hr]

/-- Outside the mailbox and the check-value units BAR4 writes nothing. -/
theorem bar4Write_elsewhere {p : Nat} (hm : ∀ n o, blockOf (off / 8 * 8) ≠ .mailbox n o)
    (hc : ∀ k o, blockOf (off / 8 * 8) ≠ .cvu k o) : bar4Write s ag p off width v m = refuseWrite s ag off width := by
  unfold bar4Write
  split
  · exact absurd ‹_› (hm _ _)
  · exact absurd ‹_› (hc _ _)
  · rfl

theorem pageWrite_asqBase {n : Nat} (ha : (s.ctx n).aen = false) :
    pageWrite s ag n 0x108 8 v (-1) = s.setCtx n { s.ctx n with asqBase := v } := by
  simp only [pageWrite, ha, merged_whole]
  rfl

theorem pageWrite_acqBase {n : Nat} (ha : (s.ctx n).aen = false) :
    pageWrite s ag n 0x110 8 v (-1) = s.setCtx n { s.ctx n with acqBase := v } := by
  simp only [pageWrite, ha, merged_whole]
  rfl

/-- Firmware's write of an assigned register of a present unit is the unit's write of that register. -/
theorem becomes_firmwareRegister {p : Nat} {b : Block} (hl : agentLive s (.firmware p) = true)
    (hf : formatOk off width = true) (hb : blockOf (off / 8 * 8) = b) (ha : blockAbsent s b = false)
    (hr : blockRead s b ≠ none)
    (ht : blockWrite s (.firmware p) width (placed off width v).1 (placed off width v).2 b = t) :
    becomes (.csrWrite (.firmware p) off width v) s t := by
  subst hb
  exact becomes_csrWrite (writeReaches_of_live hl) ((csrWrite_firmware hf).trans ((firmwareWrite_assigned ha hr).trans ht))

end

/-! ### Registers under a lock: what a write of the whole register leaves -/

/-- While its LOCK is 0 HPRIO takes every field (R347). -/
theorem hprioWrite_unlocked {x : Stack} (h : x.prLock = false) (v : W64) :
    hprioWrite x v (-1) =
      { x with ctxPrio := BitVec.ofNat 32 (fld v.toNat 37 6), bound := BitVec.ofNat 6 (fld v.toNat 5 0)
               prLock := v.getLsbD 63 } := by
  simp only [hprioWrite, rwNat_whole, w1s_whole, h, Bool.false_or]
  rfl

/-- Once its LOCK is 1 HPRIO takes CTXPRIO alone (R347). -/
theorem hprioWrite_locked {x : Stack} (h : x.prLock = true) (v : W64) :
    hprioWrite x v (-1) = { x with ctxPrio := BitVec.ofNat 32 (fld v.toNat 37 6) } := by
  simp only [hprioWrite, rwNat_whole, w1s_whole, h, Bool.true_or]
  rw [← h]
  rfl

theorem tbWrite_unlocked {n : Net} (h : n.tbLock = false) (v : W64) :
    tbWrite n 0x08 v (-1) = { n with tbMaster := v.getLsbD 7, tbSrc := fld v.toNat 5 0, tbLock := v.getLsbD 63 } := by
  simp only [tbWrite, rwNat_whole, rwBit_whole _ v (show 7 < 64 by decide), w1s_whole, h, Bool.false_or]
  rfl

theorem tbWrite_locked {n : Net} (h : n.tbLock = true) (v m : W64) : tbWrite n 0x08 v m = n := by
  simp only [tbWrite, w1s, h, Bool.true_or, if_true]
  rw [← h]

theorem aggWrite_safecfg_unlocked {a : Agg} (h : a.sfLock = false) (v : W64) :
    aggWrite a 0x010 v (-1) = { a with stper := BitVec.ofNat 16 (fld v.toNat 15 0), sfLock := v.getLsbD 63 } := by
  simp only [aggWrite, rwNat_whole, w1s_whole, h, Bool.false_or]
  rfl

theorem aggWrite_safecfg_locked {a : Agg} (h : a.sfLock = true) (v m : W64) : aggWrite a 0x010 v m = a := by
  simp only [aggWrite, w1s, h, Bool.true_or, if_true]
  rw [← h]

/-! ### The contexts' limits of the ledger (R489) -/

theorem powerRead_lgctx (s : State) {n : Nat} (hn : n < 32) : powerRead s (0x100 + 8 * n) = some (lgctxWord s n) := by
  unfold powerRead
  split
  case h_6 =>
    rw [if_neg (by omega), if_neg (by omega), if_pos (by omega), show (0x100 + 8 * n - 0x100) / 8 = n by omega]
  all_goals omega

/-- LGCTXn takes the context's limit, and the head of the requests is decided anew. -/
theorem powerWrite_lgctx (s : State) {n : Nat} (hn : n < 32) (v : W64) :
    powerWrite s (0x100 + 8 * n) v (-1) = decideHead
      { s with power := { s.power with ctxLim := put 0x1770 n (fld v.toNat 12 0) s.power.ctxLim } } := by
  unfold powerWrite
  split
  case h_3 =>
    simp only [rwNat_whole]
    rw [if_neg (by omega), if_pos (by omega), show (0x100 + 8 * n - 0x100) / 8 = n by omega]
  all_goals omega

/-! ### Firmware's registers -/

section
variable {s : State} {p : Nat} (hl : agentLive s (.firmware p) = true) (v : W64)
include hl

theorem becomes_write_hprio {k : Nat} (hk : k < 8) (hs : s.hasStack k = true) :
    becomes (.csrWrite (.firmware p) (0x800020 + k * 0x10000) 8 v) s
      (s.setStack k (hprioWrite (s.stack k) v (-1))) :=
  becomes_firmwareRegister hl (formatOk_whole (by omega)) (blockOf_stack (o := 0x20) hk (by decide) (by omega))
    (by rw [blockAbsent, hs]; rfl) (Option.some_ne_none _) rfl

theorem becomes_write_hecc {k : Nat} (hk : k < 8) (hs : s.hasStack k = true) :
    becomes (.csrWrite (.firmware p) (0x800028 + k * 0x10000) 8 v) s (s.setStack k
      { s.stack k with ccnt := BitVec.ofNat 32 (fld v.toNat 63 32), ucnt := BitVec.ofNat 16 (fld v.toNat 31 16) }) := by
  refine becomes_firmwareRegister hl (formatOk_whole (by omega)) (blockOf_stack (o := 0x28) hk (by decide) (by omega))
    (by rw [blockAbsent, hs]; rfl) (Option.some_ne_none _) ?_
  simp only [blockWrite, stackWrite, placed, if_true, rwNat_whole]

/-- A write of FECC replaces the bits that it covers (R10, R376). -/
theorem becomes_write_fecc {l off width : Nat} (hlk : l < 64) (hf : formatOk off width = true)
    (ho : off / 8 * 8 = 0xA00010 + l * 0x1000) :
    becomes (.csrWrite (.firmware p) off width v) s (s.setLink l
      { s.link l with fecc := merged (s.link l).fecc (placed off width v).1 (placed off width v).2 }) :=
  becomes_firmwareRegister hl hf (blockOf_link (o := 0x10) hlk (by decide) (by omega)) rfl (Option.some_ne_none _) rfl

theorem becomes_write_fecc_whole {l : Nat} (hlk : l < 64) :
    becomes (.csrWrite (.firmware p) (0xA00010 + l * 0x1000) 8 v) s (s.setLink l { s.link l with fecc := v }) := by
  have h := becomes_write_fecc hl v hlk (formatOk_whole (off := 0xA00010 + l * 0x1000) (by omega)) (by omega)
  rwa [show placed _ 8 v = (v, -1) from rfl, merged_whole] at h

theorem becomes_write_fecc_low {l : Nat} (hlk : l < 64) :
    becomes (.csrWrite (.firmware p) (0xA00010 + l * 0x1000) 4 v) s (s.setLink l
      { s.link l with fecc := ((s.link l).fecc &&& 0xFFFFFFFF00000000) ||| (v &&& 0xFFFFFFFF) }) := by
  have h := becomes_write_fecc hl v hlk (formatOk_half (off := 0xA00010 + l * 0x1000) (by omega)) (by omega)
  rwa [placed_low (by omega), merged_low] at h

theorem becomes_write_fecc_high {l : Nat} (hlk : l < 64) :
    becomes (.csrWrite (.firmware p) (0xA00014 + l * 0x1000) 4 v) s (s.setLink l
      { s.link l with fecc := ((s.link l).fecc &&& (0xFFFFFFFF : W64)) ||| (v <<< 32) }) := by
  have h := becomes_write_fecc hl v hlk (formatOk_half (off := 0xA00014 + l * 0x1000) (by omega)) (by omega)
  rwa [placed_high (by omega), merged_high] at h

theorem becomes_write_evBytes {e : Nat} (he : e < 2) :
    becomes (.csrWrite (.firmware p) (0xB00028 + e * 0x10000) 8 v) s (s.setCe e { s.ce e with evBytes := v }) := by
  refine becomes_firmwareRegister hl (formatOk_whole (by omega)) (blockOf_ce (o := 0x28) he (by decide) (by omega))
    rfl (Option.some_ne_none _) ?_
  simp only [blockWrite, State.modCe, ceWrite, placed, if_true, merged_whole]

theorem becomes_write_lgctx {n : Nat} (hn : n < 32) :
    becomes (.csrWrite (.firmware p) (0xE00100 + 8 * n) 8 v) s (decideHead
      { s with power := { s.power with ctxLim := put 0x1770 n (fld v.toNat 12 0) s.power.ctxLim } }) := by
  refine becomes_firmwareRegister hl (formatOk_whole (by omega)) (blockOf_power (o := 0x100 + 8 * n) (by omega) (by omega))
    rfl ?_ ?_
  · rw [blockRead, powerRead_lgctx s hn]
    exact Option.some_ne_none _
  · exact powerWrite_lgctx s hn v

theorem becomes_write_tbcfg :
    becomes (.csrWrite (.firmware p) 0x1300008 8 v) s { s with net := tbWrite s.net 0x08 v (-1) } :=
  becomes_firmwareRegister hl rfl rfl rfl (Option.some_ne_none _) rfl

/-- TBTIME is read-only (R379). -/
theorem becomes_write_tbtime : becomes (.csrWrite (.firmware p) 0x1300000 8 v) s s :=
  becomes_firmwareRegister hl rfl rfl rfl (Option.some_ne_none _) rfl

theorem becomes_write_safecfg :
    becomes (.csrWrite (.firmware p) 0x1200010 8 v) s { s with agg := aggWrite s.agg 0x010 v (-1) } :=
  becomes_firmwareRegister hl rfl rfl rfl (Option.some_ne_none _) rfl

end

/-! ### The mailbox and the check-value channels (R500, R546) -/

theorem mb_assigned {n : Nat} (hn : n < 2) {s : State} {o : Nat} (ho : o = 0x08 ∨ o = 0x10) :
    blockRead s (.mailbox n o) ≠ none := by
  rw [blockRead, if_pos hn]
  rcases ho with rfl | rfl <;> exact Option.some_ne_none _

/-- Of a PF's write to a set of the mailbox its own set takes the value, and the other discards it (R500). -/
theorem becomes_write_mailbox {s t : State} {p n o off : Nat} {v : W64} (ho : mailboxOpen s p = true) (hn : n < 2)
    (hreg : o = 0x08 ∨ o = 0x10) (hoff : off = 0x10000 + n * 0x100 + o)
    (ht : (if n = p then mbWrite s n o v (-1) else s) = t) : becomes (.csrWrite (.bar4 p) off 8 v) s t := by
  have hb : blockOf off = .mailbox n o := blockOf_mailbox (by omega) (by omega) hoff
  have hb' : blockOf (off / 8 * 8) = .mailbox n o := blockOf_mailbox (by omega) (by omega) (by omega)
  refine becomes_csrWrite (writeReaches_of_mailbox hb ho) ?_
  rw [csrWrite_bar4 (formatOk_whole (by omega)), bar4Write_mailbox hb' (mb_assigned hn hreg)]
  exact ht

theorem mbWrite_addr (s : State) (n : Nat) (v : W64) :
    mbWrite s n 0x08 v (-1) = { s with boot := s.boot.setMb n { s.boot.mb n with addr := v } } := by
  simp only [mbWrite, merged_whole]
  rfl

theorem mbWrite_len (s : State) (n : Nat) (v : W64) :
    mbWrite s n 0x10 v (-1) = { s with boot := s.boot.setMb n { s.boot.mb n with len := fld v.toNat 25 0 } } := by
  simp only [mbWrite, rwNat_whole]
  rfl

/-- CVSRC of a channel that runs no operation takes the value of an agent that may write the channel. -/
theorem cvWriteReg_src {s : State} {ag : Agent} {k : Nat} (hm : cvMay ag k = true) (hb : (s.cv k).busy = false) (v : W64) :
    cvWriteReg s ag k 0x08 8 v (-1) = s.setCv k { s.cv k with src := v } := by
  simp only [cvWriteReg, hm, hb, merged_whole]
  rfl

/-- Firmware, and the PF of a channel's port, write CVSRC of a channel that runs no operation. -/
theorem becomes_write_cvsrc {s : State} {ag : Agent} {k : Nat} (hl : agentLive s ag = true) (hk : k < 4)
    (hm : cvMay ag k = true) (hb : (s.cv k).busy = false) (v : W64) :
    becomes (.csrWrite ag (0x1100008 + 0x100 * k) 8 v) s (s.setCv k { s.cv k with src := v }) := by
  have hf : formatOk (0x1100008 + 0x100 * k) 8 = true := formatOk_whole (by omega)
  have hblk : blockOf ((0x1100008 + 0x100 * k) / 8 * 8) = .cvu k 0x08 := blockOf_cvu hk (by decide) (by omega)
  have hr : blockRead s (.cvu k 0x08) ≠ none := by
    rw [blockRead, if_pos hk]
    exact Option.some_ne_none _
  have hw := cvWriteReg_src hm hb v
  cases ag with
  | firmware p => exact becomes_firmwareRegister hl hf hblk rfl hr hw
  | bar4 p =>
    exact becomes_csrWrite (writeReaches_of_live hl) ((csrWrite_bar4 hf).trans ((bar4Write_cvu hblk hr).trans hw))
  | ctxPage n => exact absurd hm Bool.false_ne_true
  | debugPort => exact absurd hm Bool.false_ne_true

/-! ### The agent's read (R10, R27, R447, R461, R475) -/

section
variable {s : State} {ag : Agent} {off width : Nat}

theorem csrRead_badFormat (hf : formatOk off width = false) :
    csrRead s ag off width = (agentEvent s ag (eventOff ag off) 0 width false, -1) := by
  rw [csrRead, hf]
  rfl

/-- A read of an assigned register answers the bytes reached and leaves nothing behind, outside the TLY. -/
theorem csrRead_assigned {v : W64} (hf : formatOk off width = true) (ht : readsTly ag (off / 8 * 8) = false)
    (hr : agentRead s ag (off / 8 * 8) = some v) : csrRead s ag off width = (s, readPart off width v) := by
  simp only [csrRead, hf, ht, Bool.not_true, Bool.false_eq_true, if_false, hr]

theorem csrRead_unassigned (hf : formatOk off width = true) (ht : readsTly ag (off / 8 * 8) = false)
    (hr : agentRead s ag (off / 8 * 8) = none) :
    csrRead s ag off width = (agentEvent s ag (eventOff ag off) 1 width false, 0) := by
  simp only [csrRead, hf, ht, Bool.not_true, Bool.false_eq_true, if_false, hr]

theorem readPart_whole (off : Nat) (v : W64) : readPart off 8 v = v := rfl

theorem readPart_low (h : off % 8 = 0) (v : W64) : readPart off 4 v = v &&& 0xFFFFFFFF := by
  simp [readPart, h]

theorem readPart_high (h : off % 8 = 4) (v : W64) : readPart off 4 v = v >>> 32 := by
  simp [readPart, h]

theorem agentRead_firmware (s : State) (p off : Nat) :
    agentRead s (.firmware p) off = if blockAbsent s (blockOf off) then some 0 else blockRead s (blockOf off) := rfl

/-- Through BAR4 the security block reads zero. -/
theorem agentRead_bar4_sec {p o : Nat} (hb : blockOf off = .sec o) : agentRead s (.bar4 p) off = some 0 := by
  simp only [agentRead, hb]

theorem readsTly_bar4_sec {p o : Nat} (hb : blockOf off = .sec o) : readsTly (.bar4 p) off = false := by
  simp only [readsTly, hb]

/-- A doorbell reads zero. -/
theorem barRead_doorbell {n : Nat} (hs : hostServed s n = true) (ho : off < pageBase) (hf : formatOk off width = true) :
    barRead s n false off width = (s, some 0) := by
  simp [barRead, hs, hf, Nat.not_le.2 ho]

theorem barRead_page {n : Nat} (hs : hostServed s n = true) (ho : pageBase ≤ off) :
    barRead s n false off width =
      ((csrRead s (.ctxPage n) (off - pageBase) width).1, some (csrRead s (.ctxPage n) (off - pageBase) width).2) := by
  simp [barRead, hs, ho]

end

end Sys2Proof.Machine
end

section
/-! PROOFS. The statements about reads and writes of registers. -/

open Sys2Proof Sys2Proof.Machine

/-- Settles O53: each access is one case of the agent's write; the refused ones leave one record. -/
theorem registerWrites : Obligations.RegisterWrites := by
  unfold Obligations.RegisterWrites
  intro s ag off width v reached good b noted hl
  have hreach : writeReaches s ag off = true := writeReaches_of_live hl
  have hgood : good → formatOk off width = true := (formatOk_iff off width).2
  refine ⟨fun hbad => ?_, ?_, ?_, ?_, ?_⟩
  · refine completes_csrWrite hreach ?_
    rw [csrWrite_badFormat ((formatOk_eq_false_iff off width).2 hbad)]
    exact recorded_agentEvent ..
  · rintro pair rfl hg
    refine ⟨fun ha => ?_, fun ha hr => completes_csrWrite hreach ?_,
      fun ha hr => becomes_firmwareRegister hl (hgood hg) rfl ha hr rfl, ?_, ?_⟩
    · exact becomes_csrWrite hreach ((csrWrite_firmware (hgood hg)).trans (firmwareWrite_absent ha))
    · rw [csrWrite_firmware (hgood hg), firmwareWrite_unassigned ha hr]
      exact recorded_agentEvent ..
    · rintro rfl rfl hlock
      rw [← aggWrite_safecfg_unlocked hlock v]
      exact becomes_write_safecfg hl v
    · rintro rfl rfl hlock
      have h := becomes_write_safecfg hl v
      rwa [aggWrite_safecfg_locked hlock] at h
  · rintro n rfl rfl haen
    constructor
    · rintro rfl
      exact becomes_csrWrite hreach ((csrWrite_ctxPage rfl).trans (pageWrite_asqBase haen))
    · rintro rfl
      exact becomes_csrWrite hreach ((csrWrite_ctxPage rfl).trans (pageWrite_acqBase haen))
  · rintro n j o rfl hg hb
    refine completes_csrWrite hreach ?_
    have hm : ∀ i x, b ≠ .mailbox i x := by rcases hb with h | h | h | h <;> simp [h]
    have hc : ∀ i x, b ≠ .cvu i x := by rcases hb with h | h | h | h <;> simp [h]
    rw [csrWrite_bar4 (hgood hg), bar4Write_elsewhere hm hc]
    exact recorded_refuseWrite ..
  · rintro rfl hg
    refine completes_csrWrite hreach ?_
    rw [csrWrite_debugPort (hgood hg)]
    exact recorded_refuseWrite ..

/-- Settles O54: each register by the law of its unit's write. -/
theorem registerWriteCompletes : Obligations.RegisterWriteCompletes := by
  unfold Obligations.RegisterWriteCompletes
  intro s p v wr
  refine ⟨fun hl => ⟨?_, ?_, ?_, ?_, ?_, ?_, becomes_write_tbtime hl v⟩, fun hp ho => ⟨?_, ?_, ?_⟩, ?_, ?_⟩
  · intro k hk hs
    refine ⟨fun hlock => ?_, fun hlock => ?_, becomes_write_hecc hl v hk hs⟩
    · rw [← hprioWrite_unlocked hlock v]
      exact becomes_write_hprio hl v hk hs
    · rw [← hprioWrite_locked hlock v]
      exact becomes_write_hprio hl v hk hs
  · intro l hlk
    exact ⟨becomes_write_fecc_whole hl v hlk, becomes_write_fecc_low hl v hlk, becomes_write_fecc_high hl v hlk⟩
  · exact fun e he => becomes_write_evBytes hl v he
  · exact fun n hn => becomes_write_lgctx hl v hn
  · intro hlock
    rw [← tbWrite_unlocked hlock v]
    exact becomes_write_tbcfg hl v
  · intro hlock
    have h := becomes_write_tbcfg hl v
    rwa [tbWrite_locked hlock] at h
  · exact becomes_write_mailbox ho hp (.inl rfl) (by omega) ((if_pos rfl).trans (mbWrite_addr s p v))
  · exact becomes_write_mailbox ho hp (.inr rfl) (by omega) ((if_pos rfl).trans (mbWrite_len s p v))
  · exact becomes_write_mailbox (n := 1 - p) ho (by omega) (.inl rfl) (by omega) (if_neg (by omega))
  · exact fun ag k hl hk hm hb _ _ => becomes_write_cvsrc hl hk hm hb v
  · exact fun hdead off width => becomes_csrWrite_unreached (by simp [writeReaches, hdead])

/-- Settles O55: each read is one case of the agent's read. -/
theorem registerReads : Obligations.RegisterReads := by
  unfold Obligations.RegisterReads
  intro s ag off o width ho
  have hlow : o / 8 * 8 = o := by omega
  have hhigh : (o + 4) / 8 * 8 = o := by omega
  refine ⟨fun hbad => csrRead_badFormat ((formatOk_eq_false_iff off width).2 hbad),
    fun ht => ⟨fun v hr => ⟨?_, ?_, ?_⟩, fun hr => ?_⟩, ?_, ?_, fun n hs => ⟨fun hoff hw ha => ?_, ?_, ?_⟩⟩
  · rw [csrRead_assigned (formatOk_whole ho) (hlow.symm ▸ ht) (hlow.symm ▸ hr), readPart_whole]
  · rw [csrRead_assigned (formatOk_half (by omega)) (hlow.symm ▸ ht) (hlow.symm ▸ hr), readPart_low ho]
  · rw [csrRead_assigned (formatOk_half (by omega)) (hhigh.symm ▸ ht) (hhigh.symm ▸ hr), readPart_high (by omega)]
  · exact csrRead_unassigned (formatOk_whole ho) (hlow.symm ▸ ht) (hlow.symm ▸ hr)
  · rintro p rfl
    constructor
    · intro ha
      rw [agentRead_firmware, if_pos ha]
    · intro ha
      rw [agentRead_firmware, ha, if_neg Bool.false_ne_true]
  · rintro p rfl hlo hhi
    have hb : blockOf (o / 8 * 8) = .sec (o % 0x100000) := hlow.symm ▸ blockOf_sec hlo hhi
    exact csrRead_assigned (formatOk_whole ho) (readsTly_bar4_sec hb) (agentRead_bar4_sec hb)
  · exact barRead_doorbell hs hoff ((formatOk_iff off width).2 ⟨hw, ha⟩)
  · rw [barRead_page hs (by decide), csrRead_assigned rfl rfl rfl]
    rfl
  · rw [barRead_page hs (by decide), csrRead_assigned rfl rfl rfl]
    rfl

end

section
/-! SUPPORT. The canonical form of the memories under the operations that every unit shares. Memory is written by
`poke`, `writeUnit`, `scrambleAll`, `setHmem`, `clearCore`, `dropCores` and the resets, each of which puts entries in or
leaves some out; every other operation keeps the form because those that it calls do. -/

namespace Sys2Proof.Machine

variable {s : State}

/-! ### Shapes of an operation -/

/-- The answer's next state has its memories in canonical form. -/
def Res.memoriesOk : Res → Prop
  | .next s => s.memoriesOk
  | _ => True

theorem State.memoriesOk.mem (hs : s.memoriesOk) : wfTable 0 s.mem = true := hs.1

theorem State.memoriesOk.hmem0 (hs : s.memoriesOk) : wfTable 0 s.hmem0 = true := hs.2.1

theorem State.memoriesOk.hmem1 (hs : s.memoriesOk) : wfTable 0 s.hmem1 = true := hs.2.2

section
variable {m h0 h1 : Table Byte} {a b c d e f g i j k l n o p q r t u v w x y z α}

theorem memoriesOk_mk (hm : wfTable 0 m = true) (hh0 : wfTable 0 h0 = true) (hh1 : wfTable 0 h1 = true) :
    (State.mk a b c m d e h0 h1 f g i j k l n o p q r t u v w x y z α).memoriesOk :=
  ⟨hm, hh0, hh1⟩

/-- A state with the memories of another one. -/
theorem memoriesOk_with (hs : s.memoriesOk) :
    (State.mk a b c s.mem d e s.hmem0 s.hmem1 f g i j k l n o p q r t u v w x y z α).memoriesOk :=
  hs

end

section
variable {α β : Type} {c : Prop} [Decidable c]

theorem memoriesOk_ite {t : State} (hs : s.memoriesOk) (ht : t.memoriesOk) : (if c then s else t).memoriesOk := by
  split
  · exact hs
  · exact ht

theorem resMemoriesOk_ite {r q : Res} (hr : r.memoriesOk) (hq : q.memoriesOk) :
    Res.memoriesOk (if c then r else q) := by
  split
  · exact hr
  · exact hq

theorem memoriesOk_fst_ite {p q : State × α} (hp : p.1.memoriesOk) (hq : q.1.memoriesOk) :
    (if c then p else q).1.memoriesOk := by
  split
  · exact hp
  · exact hq

/-- The state that a match takes out of a pair. -/
theorem memoriesOk_fst {p : State × α} {r : α} (e : p = (s, r)) (h : p.1.memoriesOk) : s.memoriesOk := by
  rwa [e] at h

theorem memoriesOk_foldl {l : List α} {f : State → α → State} (hs : s.memoriesOk)
    (hf : ∀ t x, t.memoriesOk → (f t x).memoriesOk) : (l.foldl f s).memoriesOk := by
  induction l generalizing s with
  | nil => exact hs
  | cons x l ih => exact ih (hf s x hs)

theorem memoriesOk_foldl_fst {l : List α} {p : State × β} {f : State × β → α → State × β} (hp : p.1.memoriesOk)
    (hf : ∀ q x, q.1.memoriesOk → (f q x).1.memoriesOk) : (l.foldl f p).1.memoriesOk := by
  induction l generalizing p with
  | nil => exact hp
  | cons x l ih => exact ih (hf p x hp)

end

/-! ### Units of the state, counters and records -/

theorem memoriesOk_setCore {c k} (hs : s.memoriesOk) : (s.setCore c k).memoriesOk := hs

theorem memoriesOk_modCore {c f} (hs : s.memoriesOk) : (s.modCore c f).memoriesOk := memoriesOk_setCore hs

theorem memoriesOk_setStack {k x} (hs : s.memoriesOk) : (s.setStack k x).memoriesOk := hs

theorem memoriesOk_modStack {k f} (hs : s.memoriesOk) : (s.modStack k f).memoriesOk := memoriesOk_setStack hs

theorem memoriesOk_setCtx {n x} (hs : s.memoriesOk) : (s.setCtx n x).memoriesOk := hs

theorem memoriesOk_modCtx {n f} (hs : s.memoriesOk) : (s.modCtx n f).memoriesOk := memoriesOk_setCtx hs

theorem memoriesOk_setSq {n x} (hs : s.memoriesOk) : (s.setSq n x).memoriesOk := hs

theorem memoriesOk_setCq {n x} (hs : s.memoriesOk) : (s.setCq n x).memoriesOk := hs

theorem memoriesOk_setPkt {n x} (hs : s.memoriesOk) : (s.setPkt n x).memoriesOk := hs

theorem memoriesOk_setPort {n x} (hs : s.memoriesOk) : (s.setPort n x).memoriesOk := memoriesOk_ite hs hs

theorem memoriesOk_setLink {l x} (hs : s.memoriesOk) : (s.setLink l x).memoriesOk := hs

theorem memoriesOk_modLink {l f} (hs : s.memoriesOk) : (s.modLink l f).memoriesOk := memoriesOk_setLink hs

theorem memoriesOk_setCe {e x} (hs : s.memoriesOk) : (s.setCe e x).memoriesOk := memoriesOk_ite hs hs

theorem memoriesOk_modCe {e f} (hs : s.memoriesOk) : (s.modCe e f).memoriesOk := memoriesOk_setCe hs

theorem memoriesOk_tally {cls ev idx sub n} (hs : s.memoriesOk) : (s.tally cls ev idx sub n).memoriesOk := hs

theorem memoriesOk_bwLink {l dir n} (hs : s.memoriesOk) : (s.bwLink l dir n).memoriesOk := hs

theorem memoriesOk_tick (hs : s.memoriesOk) : s.tick.memoriesOk := hs

theorem memoriesOk_tbTick (hs : s.memoriesOk) : s.tbTick.memoriesOk :=
  memoriesOk_ite hs (memoriesOk_ite hs (memoriesOk_ite hs hs))

theorem memoriesOk_idleTick (hs : s.memoriesOk) : s.idleTick.memoriesOk := by
  unfold State.idleTick
  refine memoriesOk_ite (memoriesOk_ite (memoriesOk_tbTick hs) hs) ?_
  exact memoriesOk_tally (memoriesOk_ite (memoriesOk_tbTick hs) hs)

theorem memoriesOk_raiseMsix {ctx vec} (hs : s.memoriesOk) : (raiseMsix s ctx vec).memoriesOk := hs

theorem memoriesOk_aggInterrupt {sev} (hs : s.memoriesOk) : (aggInterrupt s sev).memoriesOk := by
  unfold aggInterrupt
  refine memoriesOk_ite ?_ hs
  refine memoriesOk_ite (memoriesOk_raiseMsix (memoriesOk_ite (memoriesOk_raiseMsix hs) hs)) ?_
  exact memoriesOk_ite (memoriesOk_raiseMsix hs) hs

theorem memoriesOk_record {e} (hs : s.memoriesOk) : (record s e).memoriesOk := memoriesOk_aggInterrupt hs

theorem memoriesOk_discardWrite {cls index off} (hs : s.memoriesOk) : (discardWrite s cls index off).memoriesOk :=
  memoriesOk_record hs

theorem memoriesOk_accessEvent {cls index sub off kind write width} (hs : s.memoriesOk) :
    (accessEvent s cls index sub off kind write width).memoriesOk :=
  memoriesOk_record hs

theorem memoriesOk_recordCorrected {cls index sub addr} (hs : s.memoriesOk) :
    (recordCorrected s cls index sub addr).memoriesOk := by
  unfold recordCorrected
  refine memoriesOk_ite (memoriesOk_with (memoriesOk_ite (memoriesOk_tally hs) hs)) ?_
  exact memoriesOk_record (memoriesOk_with (memoriesOk_ite (memoriesOk_tally hs) hs))

/-! ### Sectors and pseudo-channels of a stack -/

theorem memoriesOk_closeFault {k p} (hs : s.memoriesOk) : (closeFault s k p).memoriesOk :=
  memoriesOk_record (memoriesOk_modStack hs)

theorem memoriesOk_startRepair {k p copy} (hs : s.memoriesOk) : (startRepair s k p copy).memoriesOk :=
  memoriesOk_ite (memoriesOk_modStack hs) (memoriesOk_record (memoriesOk_modStack hs))

theorem memoriesOk_pcFailed {k p readable} (hs : s.memoriesOk) : (pcFailed s k p readable).memoriesOk := by
  unfold pcFailed
  refine memoriesOk_ite (memoriesOk_closeFault (memoriesOk_record (memoriesOk_modStack hs))) ?_
  refine memoriesOk_ite (memoriesOk_startRepair (memoriesOk_record (memoriesOk_modStack hs))) ?_
  exact memoriesOk_record (memoriesOk_modStack hs)

theorem memoriesOk_noteUncorr {k sec src} (hs : s.memoriesOk) : (noteUncorr s k sec src).memoriesOk := by
  unfold noteUncorr
  refine memoriesOk_ite (memoriesOk_pcFailed (memoriesOk_modStack (memoriesOk_record (memoriesOk_modStack hs)))) ?_
  exact memoriesOk_record (memoriesOk_modStack hs)

theorem memoriesOk_noteCorrected {k sec} (hs : s.memoriesOk) : (noteCorrected s k sec).memoriesOk :=
  memoriesOk_recordCorrected (memoriesOk_modStack hs)

theorem memoriesOk_strikeSector {k sec e} (hs : s.memoriesOk) : (strikeSector s k sec e).memoriesOk := by
  unfold strikeSector
  split
  · exact hs
  · exact memoriesOk_noteCorrected hs
  · exact memoriesOk_modStack hs
  · exact memoriesOk_modStack hs

theorem memoriesOk_readSector {k sec src} (hs : s.memoriesOk) : (readSector s k sec src).1.memoriesOk := by
  unfold readSector
  refine memoriesOk_fst_ite (memoriesOk_record hs) ?_
  exact memoriesOk_fst_ite (memoriesOk_noteUncorr hs) (memoriesOk_fst_ite (memoriesOk_noteCorrected hs) hs)

theorem memoriesOk_writeSector {k sec whole} (hs : s.memoriesOk) : (writeSector s k sec whole).1.memoriesOk := by
  unfold writeSector
  refine memoriesOk_fst_ite (memoriesOk_modStack hs) ?_
  dsimp only
  split
  · next e1 =>
    have h1 := memoriesOk_fst e1 (memoriesOk_readSector hs)
    exact memoriesOk_ite (memoriesOk_modStack h1) h1
  · next e1 => exact memoriesOk_modStack (memoriesOk_fst e1 (memoriesOk_readSector hs))

/-! ### Checked reads and writes, translation, free values -/

theorem memoriesOk_poke {pa bs} (hs : s.memoriesOk) : (s.poke pa bs).memoriesOk :=
  memoriesOk_mk (wfTable_putRange _ _ hs.mem) hs.hmem0 hs.hmem1

theorem memoriesOk_noteWsBad {pa} (hs : s.memoriesOk) : (noteWsBad s pa).memoriesOk := by
  unfold noteWsBad
  split
  · exact memoriesOk_record hs
  · exact hs

theorem memoriesOk_readWord {c i} (hs : s.memoriesOk) : (readWord s c i).1.memoriesOk :=
  memoriesOk_fst_ite (memoriesOk_noteWsBad hs) (memoriesOk_fst_ite (memoriesOk_recordCorrected hs) hs)

theorem memoriesOk_readWords {c l} (hs : s.memoriesOk) : (readWords s c l).1.memoriesOk := by
  induction l generalizing s with
  | nil => exact hs
  | cons i l ih =>
    unfold readWords
    split
    · next e => exact memoriesOk_fst e (memoriesOk_readWord hs)
    · next e => exact ih (memoriesOk_fst e (memoriesOk_readWord hs))

theorem memoriesOk_wsCheck {c off n} (hs : s.memoriesOk) : (wsCheck s c off n).1.memoriesOk :=
  memoriesOk_readWords hs

theorem memoriesOk_touchLpp (hs : s.memoriesOk) : (touchLpp s).memoriesOk := hs

theorem memoriesOk_lppFail {pa} (hs : s.memoriesOk) : (lppFail s pa).memoriesOk :=
  memoriesOk_record (memoriesOk_with (memoriesOk_touchLpp hs))

theorem memoriesOk_readUnit {u} (hs : s.memoriesOk) : (readUnit s u).1.memoriesOk := by
  unfold readUnit
  split
  · exact memoriesOk_fst_ite (memoriesOk_readWord hs) hs
  · split
    · exact hs
    · exact memoriesOk_readSector hs
  · exact memoriesOk_fst_ite (memoriesOk_lppFail hs) (memoriesOk_touchLpp hs)
  · exact hs

theorem memoriesOk_readUnits {l} (hs : s.memoriesOk) : (readUnits s l).1.memoriesOk := by
  induction l generalizing s with
  | nil => exact hs
  | cons u l ih =>
    unfold readUnits
    split
    · next e => exact memoriesOk_fst e (memoriesOk_readUnit hs)
    · next e => exact ih (memoriesOk_fst e (memoriesOk_readUnit hs))

theorem memoriesOk_readCheck {pas} (hs : s.memoriesOk) : (readCheck s pas).1.memoriesOk :=
  memoriesOk_readUnits hs

theorem memoriesOk_putAll {l} (hs : s.memoriesOk) : State.memoriesOk { s with mem := putAll 0 l s.mem } :=
  memoriesOk_mk (wfTable_putAll _ hs.mem) hs.hmem0 hs.hmem1

theorem memoriesOk_writeUnit {u l} (hs : s.memoriesOk) : (writeUnit s u l).1.memoriesOk := by
  dsimp only [writeUnit]
  split
  · refine memoriesOk_fst_ite hs (memoriesOk_fst_ite ?_ ?_)
    · exact memoriesOk_fst_ite (memoriesOk_putAll hs) (memoriesOk_noteWsBad hs)
    · exact memoriesOk_putAll (memoriesOk_ite (memoriesOk_recordCorrected hs) hs)
  · split
    · exact hs
    · split
      · next e => exact memoriesOk_putAll (memoriesOk_fst e (memoriesOk_writeSector hs))
      · next e => exact memoriesOk_fst e (memoriesOk_writeSector hs)
  · exact memoriesOk_fst_ite (memoriesOk_lppFail hs) (memoriesOk_putAll (memoriesOk_touchLpp hs))
  · exact memoriesOk_putAll hs

theorem memoriesOk_writeUnits {l us} (hs : s.memoriesOk) : (writeUnits s l us).1.memoriesOk := by
  induction us generalizing s with
  | nil => exact hs
  | cons u us ih => exact ih (memoriesOk_writeUnit hs)

theorem memoriesOk_writeCheck {l} (hs : s.memoriesOk) : (writeCheck s l).1.memoriesOk :=
  memoriesOk_writeUnits hs

theorem memoriesOk_writeBlocks {l bs} (hs : s.memoriesOk) : (writeBlocks s l bs).1.memoriesOk := by
  induction bs generalizing s with
  | nil => exact hs
  | cons b bs ih =>
    unfold writeBlocks
    split
    · next e => exact memoriesOk_fst e (memoriesOk_writeCheck hs)
    · next e => exact ih (memoriesOk_fst e (memoriesOk_writeCheck hs))

theorem memoriesOk_writeStop {l} (hs : s.memoriesOk) : (writeStop s l).1.memoriesOk := memoriesOk_writeBlocks hs

theorem memoriesOk_freeBytes {n} (hs : s.memoriesOk) : (freeBytes s n).2.memoriesOk := hs

theorem memoriesOk_freeNat (hs : s.memoriesOk) : (freeNat s).2.memoriesOk := memoriesOk_tick hs

theorem memoriesOk_scramble {pa n} (hs : s.memoriesOk) : (scramble s pa n).memoriesOk :=
  memoriesOk_poke (memoriesOk_freeBytes hs)

theorem memoriesOk_scrambleAll {pas} (hs : s.memoriesOk) : (scrambleAll s pas).memoriesOk :=
  memoriesOk_putAll (memoriesOk_freeBytes hs)

theorem memoriesOk_readEntry {n va l table} (hs : s.memoriesOk) : (readEntry s n va l table).1.memoriesOk := by
  unfold readEntry
  refine memoriesOk_fst_ite hs ?_
  dsimp only
  split
  · next e1 => exact memoriesOk_fst e1 (memoriesOk_readCheck hs)
  · next e1 =>
    have h1 := memoriesOk_fst e1 (memoriesOk_readCheck hs)
    exact memoriesOk_fst_ite (memoriesOk_modCtx h1) h1

theorem memoriesOk_walkFrom {n va r w table l} (hs : s.memoriesOk) :
    (walkFrom s n va r w table l).1.memoriesOk := by
  induction l generalizing s table with
  | nil => exact hs
  | cons k l ih =>
    unfold walkFrom
    refine memoriesOk_fst_ite hs (memoriesOk_fst_ite hs (memoriesOk_fst_ite hs ?_))
    split
    · next e => exact memoriesOk_fst e (memoriesOk_readEntry hs)
    · next e =>
      have h1 := memoriesOk_fst e (memoriesOk_readEntry hs)
      exact memoriesOk_fst_ite h1 (memoriesOk_fst_ite h1 (ih h1))

theorem memoriesOk_translate {n va r w} (hs : s.memoriesOk) : (translate s n va r w).1.memoriesOk := by
  unfold translate
  refine memoriesOk_fst_ite hs ?_
  split
  · exact hs
  · exact memoriesOk_walkFrom hs

theorem memoriesOk_translatePages {n xl l} (hs : s.memoriesOk) : (translatePages s n xl l).1.memoriesOk := by
  induction l generalizing s xl with
  | nil => exact hs
  | cons p l ih =>
    obtain ⟨k, _ | u⟩ := p
    · exact ih hs
    · unfold translatePages
      split
      · next e => exact memoriesOk_fst e (memoriesOk_translate hs)
      · next e => exact ih (memoriesOk_fst e (memoriesOk_translate hs))

theorem memoriesOk_xlate {n reads writes} (hs : s.memoriesOk) : (xlate s n reads writes).1.memoriesOk :=
  memoriesOk_translatePages hs

/-! ### Completing packets and launches -/

theorem memoriesOk_finishPkt {pid status detail} (hs : s.memoriesOk) :
    (finishPkt s pid status detail).memoriesOk := by
  unfold finishPkt
  split
  · exact hs
  · exact memoriesOk_ite hs (memoriesOk_ite (memoriesOk_setPkt hs) (memoriesOk_setPkt (memoriesOk_setCq hs)))

theorem memoriesOk_retirePkts {q} (hs : s.memoriesOk) : (s.retirePkts q).memoriesOk := hs

theorem memoriesOk_settleDeletes {n} (hs : s.memoriesOk) : (settleDeletes n s).memoriesOk := by
  induction n generalizing s with
  | zero => exact hs
  | succ n ih =>
    unfold settleDeletes
    split
    · split
      · exact ih (memoriesOk_finishPkt (memoriesOk_retirePkts (memoriesOk_setSq hs)))
      · exact hs
    · exact hs

theorem memoriesOk_completePkt {pid status detail} (hs : s.memoriesOk) :
    (completePkt s pid status detail).memoriesOk :=
  memoriesOk_settleDeletes (memoriesOk_finishPkt hs)

theorem memoriesOk_launchEnded {pid c status detail} (hs : s.memoriesOk) :
    (launchEnded s pid c status detail).memoriesOk := by
  unfold launchEnded
  split
  · split
    · have h1 {b : Prop} [Decidable b] {x l} :
          State.memoriesOk (if b then s.setPkt pid x else (writeCheck (s.setPkt pid x) l).1) :=
        memoriesOk_ite (memoriesOk_setPkt hs) (memoriesOk_writeCheck (memoriesOk_setPkt hs))
      refine memoriesOk_ite ?_ (memoriesOk_setPkt hs)
      dsimp only
      split
      · exact memoriesOk_completePkt h1
      · split
        · exact memoriesOk_completePkt h1
        · exact memoriesOk_completePkt h1
    · exact hs
  · exact hs

/-! ### The ledger -/

theorem memoriesOk_denyRequest {who} (hs : s.memoriesOk) : (denyRequest s who).memoriesOk := by
  dsimp only [denyRequest]
  split
  · exact memoriesOk_tally (memoriesOk_modCore hs)
  · exact hs

theorem memoriesOk_fitRequest {who u} (hs : s.memoriesOk) : (fitRequest s who u).memoriesOk := hs

theorem memoriesOk_decideMany {n} (hs : s.memoriesOk) : (decideMany n s).memoriesOk := by
  induction n generalizing s with
  | zero => exact hs
  | succ n ih =>
    unfold decideMany
    split
    · exact hs
    · exact memoriesOk_ite (ih (memoriesOk_fitRequest hs)) (memoriesOk_ite hs (memoriesOk_denyRequest hs))

theorem memoriesOk_decideHead (hs : s.memoriesOk) : (decideHead s).memoriesOk := memoriesOk_decideMany hs

theorem memoriesOk_sendRequest {who units} (hs : s.memoriesOk) : (sendRequest s who units).memoriesOk :=
  memoriesOk_decideHead hs

theorem memoriesOk_withdrawRequest {who} (hs : s.memoriesOk) : (withdrawRequest s who).memoriesOk :=
  memoriesOk_decideHead hs

theorem memoriesOk_releaseGrant {c} (hs : s.memoriesOk) : (releaseGrant s c).memoriesOk :=
  memoriesOk_decideHead (memoriesOk_modCore hs)

theorem memoriesOk_releaseBatchUnits {k u} (hs : s.memoriesOk) : (releaseBatchUnits s k u).memoriesOk :=
  memoriesOk_decideHead hs

theorem memoriesOk_dropGrant {who} (hs : s.memoriesOk) : (dropGrant s who).memoriesOk :=
  memoriesOk_decideHead hs

/-! ### Partial writes -/

theorem memoriesOk_partWrite {l} (hs : s.memoriesOk) : (partWrite s l).memoriesOk :=
  memoriesOk_writeStop (memoriesOk_freeNat hs)

end Sys2Proof.Machine
end

section
/-! SUPPORT. The canonical form of the memories under the operations of a core. -/

namespace Sys2Proof.Machine

variable {s : State}

/-! ### Posts, exceptions and the end of a program -/

theorem memoriesOk_post {c i} (hs : s.memoriesOk) : (post s c i).memoriesOk :=
  memoriesOk_ite hs (memoriesOk_ite (memoriesOk_record (memoriesOk_setCore hs)) (memoriesOk_setCore hs))

theorem memoriesOk_postMany {c i n} (hs : s.memoriesOk) : (postMany s c i n).memoriesOk := by
  induction n generalizing s with
  | zero => exact hs
  | succ n ih => exact ih (memoriesOk_post hs)

theorem memoriesOk_raise {c t e} (hs : s.memoriesOk) : (raise s c t e).memoriesOk := by
  dsimp only [raise]
  split
  · exact memoriesOk_setCore hs
  · exact memoriesOk_setCore hs
  · exact memoriesOk_ite (memoriesOk_setCore hs) (memoriesOk_setCore hs)
  · exact hs

theorem memoriesOk_report {c t e} (hs : s.memoriesOk) : (report s c t e).memoriesOk :=
  memoriesOk_ite (memoriesOk_raise hs) hs

theorem memoriesOk_closeProgram {c} (hs : s.memoriesOk) : (closeProgram s c).memoriesOk :=
  memoriesOk_releaseGrant (memoriesOk_modCore (memoriesOk_foldl (memoriesOk_ite (memoriesOk_withdrawRequest hs) hs)
    (fun _ _ => memoriesOk_partWrite)))

theorem memoriesOk_endProgram {c status} (hs : s.memoriesOk) : (endProgram s c status).memoriesOk := by
  dsimp only [endProgram]
  split
  · exact hs
  · exact memoriesOk_launchEnded (memoriesOk_closeProgram hs)

theorem memoriesOk_errorEnd {c t status} (hs : s.memoriesOk) : (errorEnd s c t status).memoriesOk := by
  dsimp only [errorEnd]
  split
  · exact hs
  · exact memoriesOk_endProgram (memoriesOk_record hs)

theorem memoriesOk_outsideEnd {c status} (hs : s.memoriesOk) : (outsideEnd s c status).memoriesOk := by
  unfold outsideEnd
  split
  · exact hs
  · exact memoriesOk_errorEnd (memoriesOk_freeNat hs)

theorem memoriesOk_withdrawSwap {c t} (hs : s.memoriesOk) : (withdrawSwap s c t).memoriesOk := by
  unfold withdrawSwap
  refine memoriesOk_ite ?_ hs
  dsimp only
  split
  · exact memoriesOk_withdrawRequest (memoriesOk_setCore hs)
  · exact memoriesOk_releaseGrant (memoriesOk_setCore hs)
  · exact memoriesOk_setCore hs

theorem memoriesOk_takeException {c t e xpc count} (hs : s.memoriesOk) :
    (takeException s c t e xpc count).memoriesOk := by
  unfold takeException
  refine memoriesOk_ite (memoriesOk_errorEnd (memoriesOk_modCore (memoriesOk_withdrawSwap hs))) ?_
  exact memoriesOk_modCore (memoriesOk_withdrawSwap hs)

theorem memoriesOk_exceptionInExc {c t} (hs : s.memoriesOk) : (exceptionInExc s c t).memoriesOk :=
  memoriesOk_errorEnd (memoriesOk_modCore hs)

/-! ### Issuing CC words -/

theorem memoriesOk_illegal {c t code w info} (hs : s.memoriesOk) : (illegal s c t code w info).memoriesOk :=
  memoriesOk_raise hs

theorem memoriesOk_badFetch {c t code} (hs : s.memoriesOk) : (badFetch s c t code).memoriesOk :=
  memoriesOk_raise (memoriesOk_freeNat hs)

theorem memoriesOk_ccStep {c t op} {f : Core → Stream → W64 → State} (hs : s.memoriesOk)
    (hf : ∀ k x w, (f k x w).memoriesOk) : (ccStep s c t op f).memoriesOk := by
  unfold ccStep
  split
  · exact hs
  · exact memoriesOk_badFetch hs
  · exact memoriesOk_ite (memoriesOk_ite hs (hf _ _ _)) hs

theorem memoriesOk_setRd {c t k x rd v} (hs : s.memoriesOk) : (setRd s c t k x rd v).memoriesOk :=
  memoriesOk_setCore hs

/-! ### Array queues and feeds -/

theorem memoriesOk_modMxa {c a f} (hs : s.memoriesOk) : (s.modMxa c a f).memoriesOk := memoriesOk_modCore hs

theorem memoriesOk_finish {c a q e code} (hs : s.memoriesOk) : (finish s c a q e code).memoriesOk :=
  memoriesOk_modMxa hs

theorem memoriesOk_refuse {c a q e code} (hs : s.memoriesOk) : (refuse s c a q e code).memoriesOk :=
  memoriesOk_modMxa (memoriesOk_finish hs)

theorem memoriesOk_failWaiting {c a q e} (hs : s.memoriesOk) : (failWaiting s c a q e).memoriesOk :=
  memoriesOk_ite (memoriesOk_modMxa (memoriesOk_refuse hs)) (memoriesOk_refuse hs)

theorem memoriesOk_arrStep {c a q sel} {f : State → Mxa → ArrCmd → State} (hs : s.memoriesOk)
    (hf : ∀ t m e, t.memoriesOk → (f t m e).memoriesOk) : (arrStep s c a q sel f).memoriesOk := by
  unfold arrStep
  refine memoriesOk_ite hs ?_
  dsimp only
  split
  · exact hs
  · refine memoriesOk_ite hs ?_
    refine memoriesOk_ite (memoriesOk_ite (memoriesOk_failWaiting hs) (memoriesOk_refuse hs)) ?_
    split
    · exact memoriesOk_refuse hs
    · exact hf _ _ _ hs

theorem memoriesOk_feed {c off n} (hs : s.memoriesOk) : (feed s c off n).1.memoriesOk :=
  memoriesOk_fst_ite hs (memoriesOk_wsCheck hs)

theorem memoriesOk_feedAll {c l i} (hs : s.memoriesOk) : (feedAll s c l i).1.memoriesOk := by
  induction l generalizing s i with
  | nil => exact hs
  | cons r l ih =>
    unfold feedAll
    split
    · next e => exact memoriesOk_fst e (memoriesOk_feed hs)
    · next e => exact ih (memoriesOk_fst e (memoriesOk_feed hs))

theorem memoriesOk_freeFlags {f} (hs : s.memoriesOk) : (freeFlags s f).2.memoriesOk := memoriesOk_freeNat hs

theorem memoriesOk_freeAcc {c a isInt keys} (hs : s.memoriesOk) : (freeAcc s c a isInt keys).memoriesOk :=
  memoriesOk_modMxa hs

theorem memoriesOk_freeLanes {c e keys} (hs : s.memoriesOk) : (freeLanes s c e keys).memoriesOk :=
  memoriesOk_modCore hs

/-! ### Free cells -/

theorem memoriesOk_freeCells {c a keys} (hs : s.memoriesOk) : (freeCells s c a keys).memoriesOk :=
  memoriesOk_modMxa hs

/-! ### Array commands -/

theorem memoriesOk_stopPass {c a m h e n exact} (hs : s.memoriesOk) :
    (stopPass s c a m h e n exact).memoriesOk := by
  unfold stopPass
  refine memoriesOk_ite (memoriesOk_modCore (memoriesOk_modMxa (memoriesOk_tally (memoriesOk_modMxa hs)))) ?_
  exact memoriesOk_modCore (memoriesOk_freeAcc (memoriesOk_freeFlags (memoriesOk_tally (memoriesOk_modMxa hs))))

theorem memoriesOk_stopDrain {c a m h e} (hs : s.memoriesOk) : (stopDrain s c a m h e).memoriesOk := by
  unfold stopDrain
  refine memoriesOk_ite ?_ ?_
  · refine memoriesOk_freeLanes ?_
    refine memoriesOk_ite (memoriesOk_modMxa (memoriesOk_modCore (memoriesOk_freeFlags (memoriesOk_freeNat hs)))) ?_
    exact memoriesOk_modCore (memoriesOk_freeFlags (memoriesOk_freeNat hs))
  · refine memoriesOk_scrambleAll ?_
    refine memoriesOk_ite (memoriesOk_modMxa (memoriesOk_modCore (memoriesOk_freeFlags (memoriesOk_freeNat hs)))) ?_
    exact memoriesOk_modCore (memoriesOk_freeFlags (memoriesOk_freeNat hs))

theorem memoriesOk_abortOne {c a q e} (hs : s.memoriesOk) : (abortOne s c a q e).memoriesOk := by
  unfold abortOne
  refine memoriesOk_ite hs ?_
  split
  · exact memoriesOk_ite (memoriesOk_freeCells hs) hs
  · exact memoriesOk_ite hs (memoriesOk_modMxa (memoriesOk_stopPass (memoriesOk_freeNat (memoriesOk_freeNat hs))))
  · exact memoriesOk_ite (memoriesOk_stopDrain hs) hs
  · exact hs

theorem memoriesOk_abortCmd {c a q e} (hs : s.memoriesOk) : (abortCmd s c a q e).memoriesOk :=
  memoriesOk_refuse (memoriesOk_abortOne hs)

theorem memoriesOk_abortLater {c a q} (hs : s.memoriesOk) : (abortLater s c a q).memoriesOk :=
  memoriesOk_foldl hs fun _ _ => memoriesOk_abortCmd

theorem memoriesOk_arrayFault {c a q e code col} (hs : s.memoriesOk) : (arrayFault s c a q e code col).memoriesOk :=
  memoriesOk_record (memoriesOk_modMxa (memoriesOk_abortLater (memoriesOk_modMxa (memoriesOk_refuse hs))))

theorem memoriesOk_execLdst {c a q} (hs : s.memoriesOk) : (execLdst c a q s).memoriesOk := by
  unfold execLdst
  refine memoriesOk_arrStep hs fun _ _ _ ht => ?_
  dsimp only
  split
  · exact memoriesOk_ite (memoriesOk_refuse ht) (memoriesOk_finish ht)
  · refine memoriesOk_ite ht ?_
    split
    · next e4 =>
      exact memoriesOk_arrayFault (memoriesOk_freeCells (memoriesOk_fst e4 (memoriesOk_feedAll ht)))
    · next e4 => exact memoriesOk_finish (memoriesOk_modMxa (memoriesOk_fst e4 (memoriesOk_feedAll ht)))

theorem memoriesOk_passFeed {c m h e l} (hs : s.memoriesOk) : (passFeed s c m h e l).1.memoriesOk := by
  induction l generalizing s with
  | nil => exact hs
  | cons k l ih =>
    unfold passFeed
    split
    · next e1 => exact memoriesOk_fst e1 (memoriesOk_feedAll hs)
    · next e1 =>
      have h1 := memoriesOk_fst e1 (memoriesOk_feedAll hs)
      exact memoriesOk_fst_ite h1 (ih h1)

theorem memoriesOk_passFault {c m h e residue} (hs : s.memoriesOk) :
    (passFault s c m h e residue).1.memoriesOk := by
  unfold passFault
  split
  · exact hs
  · split
    · next e1 => exact memoriesOk_fst e1 (memoriesOk_passFeed hs)
    · next e1 => exact memoriesOk_fst e1 (memoriesOk_passFeed hs)

theorem memoriesOk_passRun {c a q m h e residue} (hs : s.memoriesOk) :
    (passRun s c a q m h e residue).memoriesOk := by
  dsimp only [passRun]
  split
  · next e0 =>
    have h0 := memoriesOk_fst e0 (memoriesOk_passFault hs)
    exact memoriesOk_arrayFault (memoriesOk_stopPass (memoriesOk_freeNat h0))
  · next e0 =>
    have h0 := memoriesOk_fst e0 (memoriesOk_passFault hs)
    exact memoriesOk_finish (memoriesOk_tally (memoriesOk_modCore (memoriesOk_modMxa h0)))

theorem memoriesOk_execPass {c a q residue} (hs : s.memoriesOk) : (execPass c a q residue s).memoriesOk := by
  unfold execPass
  refine memoriesOk_arrStep hs fun _ _ _ ht => ?_
  dsimp only
  split
  · exact memoriesOk_finish ht
  · refine memoriesOk_ite ht (memoriesOk_ite (memoriesOk_finish ht) ?_)
    split
    · exact ht
    · exact memoriesOk_passRun (memoriesOk_modMxa ht)

theorem memoriesOk_drainWrite {c a m h e i vs} (hs : s.memoriesOk) : (drainWrite s c a m h e i vs).1.memoriesOk :=
  memoriesOk_fst_ite (memoriesOk_modCore hs) (memoriesOk_writeCheck hs)

theorem memoriesOk_drainRows {c a m h e l} (hs : s.memoriesOk) : (drainRows s c a m h e l).1.memoriesOk := by
  induction l generalizing s with
  | nil => exact hs
  | cons i l ih =>
    unfold drainRows
    refine memoriesOk_fst_ite hs ?_
    dsimp only
    split
    · next e1 => exact memoriesOk_fst e1 (memoriesOk_drainWrite hs)
    · next e1 =>
      have h1 := memoriesOk_fst e1 (memoriesOk_drainWrite hs)
      exact ih (memoriesOk_ite (memoriesOk_modMxa (memoriesOk_modCore h1)) (memoriesOk_modCore h1))

theorem memoriesOk_execDrain {c a q} (hs : s.memoriesOk) : (execDrain c a q s).memoriesOk := by
  unfold execDrain
  refine memoriesOk_arrStep hs fun _ _ _ ht => ?_
  dsimp only
  split
  · exact memoriesOk_finish ht
  · refine memoriesOk_ite ht (memoriesOk_ite ht ?_)
    refine memoriesOk_ite (memoriesOk_finish ht) (memoriesOk_ite (memoriesOk_arrayFault ht) ?_)
    split
    · next e7 => exact memoriesOk_arrayFault (memoriesOk_fst e7 (memoriesOk_drainRows ht))
    · next e7 => exact memoriesOk_finish (memoriesOk_fst e7 (memoriesOk_drainRows ht))

theorem memoriesOk_execZero {c a q} (hs : s.memoriesOk) : (execZero c a q s).memoriesOk := by
  unfold execZero
  refine memoriesOk_arrStep hs fun _ _ _ ht => memoriesOk_ite (memoriesOk_finish ht) ?_
  exact memoriesOk_ite (memoriesOk_finish ht) (memoriesOk_finish (memoriesOk_modMxa ht))

theorem memoriesOk_execArrayCommandComplete {c a q} (hs : s.memoriesOk) :
    (execArrayCommandComplete c a q s).memoriesOk := by
  unfold execArrayCommandComplete
  refine memoriesOk_ite hs ?_
  split
  · exact memoriesOk_ite (memoriesOk_modMxa hs) (memoriesOk_report (memoriesOk_modMxa hs))
  · exact hs

/-! ### Scalar, memory and CSR instructions -/

theorem memoriesOk_aluRR {c t op f} (hs : s.memoriesOk) : (aluRR s c t op f).memoriesOk :=
  memoriesOk_ccStep hs fun _ _ _ => memoriesOk_setRd hs

theorem memoriesOk_aluRI {c t op f} (hs : s.memoriesOk) : (aluRI s c t op f).memoriesOk :=
  memoriesOk_ccStep hs fun _ _ _ => memoriesOk_setRd hs

theorem memoriesOk_fpRRR {c t op f} (hs : s.memoriesOk) : (fpRRR s c t op f).memoriesOk :=
  memoriesOk_ccStep hs fun _ _ _ => memoriesOk_setRd hs

theorem memoriesOk_ccLoad {c t op n} (hs : s.memoriesOk) : (ccLoad s c t op n).memoriesOk := by
  unfold ccLoad
  refine memoriesOk_ccStep hs fun _ _ _ => memoriesOk_ite hs ?_
  refine memoriesOk_ite (memoriesOk_illegal hs) (memoriesOk_ite (memoriesOk_illegal hs) ?_)
  split
  · next e5 => exact memoriesOk_illegal (memoriesOk_fst e5 (memoriesOk_wsCheck hs))
  · next e5 => exact memoriesOk_setRd (memoriesOk_fst e5 (memoriesOk_wsCheck hs))

theorem memoriesOk_ccStore {c t op n} (hs : s.memoriesOk) : (ccStore s c t op n).memoriesOk := by
  unfold ccStore
  refine memoriesOk_ccStep hs fun _ _ _ => memoriesOk_ite hs ?_
  refine memoriesOk_ite (memoriesOk_illegal hs) (memoriesOk_ite (memoriesOk_illegal hs) ?_)
  split
  · next e5 => exact memoriesOk_illegal (memoriesOk_fst e5 (memoriesOk_writeCheck hs))
  · next e5 => exact memoriesOk_modCore (memoriesOk_fst e5 (memoriesOk_writeCheck hs))

theorem memoriesOk_noteUnmapped {c t off write} (hs : s.memoriesOk) : (noteUnmapped s c t off write).memoriesOk :=
  memoriesOk_record hs

theorem memoriesOk_execCsrr {c t} (hs : s.memoriesOk) : (execCsrr c t s).memoriesOk := by
  unfold execCsrr
  refine memoriesOk_ccStep hs fun _ _ _ => memoriesOk_ite (memoriesOk_illegal hs) ?_
  exact memoriesOk_ite hs (memoriesOk_setRd (memoriesOk_ite hs (memoriesOk_noteUnmapped hs)))

theorem memoriesOk_writeCecmd {c t v} (hs : s.memoriesOk) : (writeCecmd s c t v).memoriesOk :=
  memoriesOk_ite hs (memoriesOk_setCore hs)

theorem memoriesOk_csrwEffect {c t off v} (hs : s.memoriesOk) : (csrwEffect s c t off v).memoriesOk :=
  memoriesOk_ite (memoriesOk_writeCecmd hs) (memoriesOk_modCore (memoriesOk_ite hs (memoriesOk_noteUnmapped hs)))

theorem memoriesOk_execUnlistedCcOpcode {c t} (hs : s.memoriesOk) : (execUnlistedCcOpcode c t s).memoriesOk := by
  unfold execUnlistedCcOpcode
  split
  · exact hs
  · exact memoriesOk_badFetch hs
  · exact memoriesOk_ite (memoriesOk_illegal hs) hs

/-! ### The update gate -/

theorem memoriesOk_endAtGate {c} (hs : s.memoriesOk) : (endAtGate s c).memoriesOk :=
  memoriesOk_ite (memoriesOk_raise (memoriesOk_modCore hs)) (memoriesOk_modCore (memoriesOk_modCore hs))

theorem memoriesOk_execGateDecide {c} (hs : s.memoriesOk) : (execGateDecide c s).memoriesOk := by
  dsimp only [execGateDecide]
  split
  · exact hs
  · refine memoriesOk_ite (memoriesOk_ite (memoriesOk_endAtGate (memoriesOk_setCore hs)) ?_) hs
    exact memoriesOk_ite (memoriesOk_endAtGate (memoriesOk_setCore hs)) (memoriesOk_setCore hs)

end Sys2Proof.Machine
end

section
/-! SUPPORT. The canonical form of the memories under messages, puts and gets, and the control and vector words. -/

namespace Sys2Proof.Machine

variable {s : State}

/-! ### Messages and routing -/

theorem memoriesOk_queueOn {l m} (hs : s.memoriesOk) : (queueOn s l m).memoriesOk :=
  memoriesOk_with (memoriesOk_modLink hs)

theorem memoriesOk_noteMisfits {old} (hs : s.memoriesOk) : (noteMisfits old s).memoriesOk :=
  memoriesOk_foldl hs fun _ _ ht => memoriesOk_ite ht (memoriesOk_record ht)

theorem memoriesOk_countRoute {die dst hops} (hs : s.memoriesOk) : (countRoute s die dst hops).memoriesOk :=
  memoriesOk_record hs

theorem memoriesOk_deliver {e m} (hs : s.memoriesOk) : (deliver s e m).memoriesOk := memoriesOk_modCe hs

theorem memoriesOk_sendMsg {e vl dst body t} (hs : s.memoriesOk) (ht : sendMsg s e vl dst body = some t) :
    t.memoriesOk := by
  dsimp only [sendMsg] at ht
  split at ht
  · exact Option.some.inj ht ▸ memoriesOk_deliver hs
  · exact Option.some.inj ht ▸ memoriesOk_queueOn hs
  · cases ht

theorem memoriesOk_sendOrCount {e vl dst body} (hs : s.memoriesOk) : (sendOrCount s e vl dst body).memoriesOk := by
  unfold sendOrCount
  split
  · next ht => exact memoriesOk_sendMsg hs ht
  · exact memoriesOk_countRoute hs

theorem memoriesOk_sendOn {l vl body chunk own} (hs : s.memoriesOk) : (sendOn s l vl body chunk own).memoriesOk :=
  memoriesOk_queueOn hs

theorem memoriesOk_getD {o : Option State} (hs : s.memoriesOk) (ho : ∀ t, o = some t → t.memoriesOk) :
    (o.getD s).memoriesOk := by
  cases o with
  | none => exact hs
  | some t => exact ho t rfl

theorem memoriesOk_sendNoRoute {die kind job tag src dst} (hs : s.memoriesOk) :
    (sendNoRoute s die kind job tag src dst).memoriesOk := by
  unfold sendNoRoute
  split
  · exact hs
  · exact memoriesOk_getD hs fun _ ht => memoriesOk_sendMsg hs ht

theorem memoriesOk_forward {l n hops src dst vl body} (hs : s.memoriesOk) :
    (forward s l n hops src dst vl body).memoriesOk := by
  unfold forward
  refine memoriesOk_ite (memoriesOk_countRoute (memoriesOk_modLink hs)) ?_
  split
  · exact memoriesOk_queueOn hs
  · exact memoriesOk_sendNoRoute (memoriesOk_countRoute (memoriesOk_modLink hs))

theorem memoriesOk_arrived {l vl hops src dst n body} (hs : s.memoriesOk) :
    (arrived s l vl hops src dst n body).memoriesOk :=
  memoriesOk_ite (memoriesOk_deliver hs) (memoriesOk_forward hs)

theorem memoriesOk_consume {m} (hs : s.memoriesOk) : (consume s m).memoriesOk := by
  unfold consume
  split
  · exact memoriesOk_modLink hs
  · exact hs

theorem memoriesOk_accept {l f} (hs : s.memoriesOk) : (accept s l f).memoriesOk := by
  unfold accept
  refine memoriesOk_ite ?_ ?_
  · refine memoriesOk_ite (memoriesOk_arrived (memoriesOk_modLink (memoriesOk_ite hs (memoriesOk_modLink
      (memoriesOk_modLink hs))))) ?_
    exact memoriesOk_modLink (memoriesOk_ite hs (memoriesOk_modLink (memoriesOk_modLink hs)))
  · refine memoriesOk_ite (memoriesOk_modLink (memoriesOk_modLink hs)) ?_
    refine memoriesOk_ite (memoriesOk_modLink (memoriesOk_modLink (memoriesOk_modLink hs))) ?_
    exact memoriesOk_ite (memoriesOk_arrived (memoriesOk_modLink hs)) (memoriesOk_modLink hs)

/-! ### Collective engines -/

theorem memoriesOk_setFlt {e w} (hs : s.memoriesOk) : (setFlt s e w).memoriesOk := memoriesOk_modCe hs

theorem memoriesOk_ceStale {e} (hs : s.memoriesOk) : (ceStale s e).memoriesOk := memoriesOk_modCe hs

theorem memoriesOk_endXfer {origin lpen core ctr status} (hs : s.memoriesOk) :
    (endXfer s origin lpen core ctr status).memoriesOk := by
  dsimp only [endXfer]
  split
  · exact memoriesOk_completePkt (memoriesOk_ite (memoriesOk_post (memoriesOk_writeStop hs))
      (memoriesOk_writeStop hs))
  · exact memoriesOk_ite (memoriesOk_post (memoriesOk_writeStop hs)) (memoriesOk_writeStop hs)

theorem memoriesOk_xferDone {e tag status} (hs : s.memoriesOk) : (xferDone s e tag status).memoriesOk := by
  unfold xferDone
  split
  · exact hs
  · exact memoriesOk_endXfer (memoriesOk_modCe hs)

theorem memoriesOk_sendAborts {e p inst status} (hs : s.memoriesOk) : (sendAborts s e p inst status).memoriesOk :=
  memoriesOk_foldl hs fun _ _ => memoriesOk_sendOrCount

theorem memoriesOk_abortInst {e h status} (hs : s.memoriesOk) : (abortInst s e h status).memoriesOk := by
  dsimp only [abortInst]
  split
  · exact memoriesOk_ite hs (memoriesOk_sendAborts (memoriesOk_setCe hs))
  · exact hs

theorem memoriesOk_abortWhere {e status f} (hs : s.memoriesOk) : (abortWhere s e status f).memoriesOk := by
  unfold abortWhere
  refine memoriesOk_foldl hs fun _ _ ht => ?_
  split
  · exact memoriesOk_ite (memoriesOk_abortInst ht) ht
  · exact ht

theorem memoriesOk_abortStack {k} (hs : s.memoriesOk) : (abortStack s k).memoriesOk :=
  memoriesOk_abortWhere (memoriesOk_abortWhere hs)

theorem memoriesOk_abortLink {l} (hs : s.memoriesOk) : (abortLink s l).memoriesOk := memoriesOk_abortWhere hs

theorem memoriesOk_sourceLost {l} (hs : s.memoriesOk) : (sourceLost s l).memoriesOk := memoriesOk_ite hs hs

theorem memoriesOk_dropMessage {l f} (hs : s.memoriesOk) : (dropMessage s l f).memoriesOk :=
  memoriesOk_ite (memoriesOk_ite (memoriesOk_xferDone hs) hs) (memoriesOk_sendNoRoute hs)

theorem memoriesOk_freeDropped {fs} (hs : s.memoriesOk) : (freeDropped s fs).memoriesOk := by
  unfold freeDropped
  refine memoriesOk_foldl hs fun _ _ ht => ?_
  split
  · exact memoriesOk_modLink ht
  · exact ht

theorem memoriesOk_abortWaiting {fs l} (hs : s.memoriesOk) : (abortWaiting s fs l).memoriesOk :=
  memoriesOk_foldl hs fun _ _ ht => memoriesOk_ite (memoriesOk_abortInst ht) ht

theorem memoriesOk_failLink {l st reason} (hs : s.memoriesOk) : (failLink s l st reason).memoriesOk := by
  unfold failLink
  refine memoriesOk_ite ?_ ?_
  · refine memoriesOk_abortLink (memoriesOk_foldl ?_ (fun _ _ => memoriesOk_dropMessage))
    refine memoriesOk_freeDropped (memoriesOk_noteMisfits (memoriesOk_record (memoriesOk_setLink ?_)))
    refine memoriesOk_ite (memoriesOk_dropGrant (memoriesOk_withdrawRequest (memoriesOk_sourceLost hs))) ?_
    exact memoriesOk_sourceLost hs
  · refine memoriesOk_abortWaiting (memoriesOk_foldl ?_ (fun _ _ => memoriesOk_dropMessage))
    refine memoriesOk_freeDropped (memoriesOk_noteMisfits (memoriesOk_record (memoriesOk_setLink ?_)))
    refine memoriesOk_ite (memoriesOk_dropGrant (memoriesOk_withdrawRequest (memoriesOk_sourceLost hs))) ?_
    exact memoriesOk_sourceLost hs

/-! ### Puts and gets -/

theorem memoriesOk_sendAll {e vl dst l t} (hs : s.memoriesOk) (ht : sendAll s e vl dst l = some t) :
    t.memoriesOk := by
  induction l generalizing s with
  | nil => exact Option.some.inj ht ▸ hs
  | cons m l ih =>
    unfold sendAll at ht
    split at ht
    · next h1 => exact ih (memoriesOk_sendMsg hs h1) ht
    · cases ht

theorem memoriesOk_issueXfer {e ctx origin w} (hs : s.memoriesOk) : (issueXfer s e ctx origin w).memoriesOk := by
  dsimp only [issueXfer]
  split
  · exact memoriesOk_endXfer hs
  · refine memoriesOk_ite (memoriesOk_endXfer hs) ?_
    split
    · next e1 => exact memoriesOk_endXfer (memoriesOk_fst e1 (memoriesOk_xlate hs))
    · next e1 =>
      have h1 := memoriesOk_fst e1 (memoriesOk_xlate hs)
      have hr {b : Bool} {pas : List Nat} : (if b then readCheck _ pas else (_, none)).1.memoriesOk :=
        memoriesOk_fst_ite (memoriesOk_readCheck h1) h1
      split
      · next e2 => exact memoriesOk_endXfer (memoriesOk_fst e2 hr)
      · next e2 =>
        have h2 := memoriesOk_fst e2 hr
        split
        · exact h2
        · split
          · next ht => exact memoriesOk_sendAll (memoriesOk_modCe h2) ht
          · exact memoriesOk_xferDone (memoriesOk_countRoute (memoriesOk_modCe h2))

theorem memoriesOk_msgStep {e sel} {f : State → InMsg → State} (hs : s.memoriesOk)
    (hf : ∀ t m, t.memoriesOk → (f t m).memoriesOk) : (msgStep s e sel f).memoriesOk := by
  unfold msgStep
  refine memoriesOk_ite hs ?_
  split
  · exact hf _ _ (memoriesOk_consume (memoriesOk_modCe hs))
  · exact hs

theorem memoriesOk_putBytes {e m} (hs : s.memoriesOk) : (putBytes s e m).1.memoriesOk := by
  dsimp only [putBytes]
  split
  · exact hs
  · split
    · next e1 => exact memoriesOk_fst e1 (memoriesOk_xlate hs)
    · next e1 =>
      have h1 := memoriesOk_fst e1 (memoriesOk_xlate hs)
      split
      · next e2 => exact memoriesOk_fst e2 (memoriesOk_writeStop h1)
      · next e2 => exact memoriesOk_fst e2 (memoriesOk_writeStop h1)

theorem memoriesOk_execPutLandedAtTarget {e id} (hs : s.memoriesOk) :
    (execPutLandedAtTarget e id s).memoriesOk := by
  unfold execPutLandedAtTarget
  refine memoriesOk_ite hs ?_
  split
  · exact hs
  · exact memoriesOk_sendOrCount (memoriesOk_ite (memoriesOk_post (memoriesOk_modCe hs)) (memoriesOk_modCe hs))

theorem memoriesOk_execGetreq {e} (hs : s.memoriesOk) : (execGetreq e s).memoriesOk := by
  unfold execGetreq
  refine memoriesOk_msgStep hs fun _ _ ht => ?_
  dsimp only
  split
  · exact memoriesOk_sendOrCount ht
  · split
    · next e3 => exact memoriesOk_sendOrCount (memoriesOk_fst e3 (memoriesOk_xlate ht))
    · next e3 =>
      have h3 := memoriesOk_fst e3 (memoriesOk_xlate ht)
      split
      · next e4 => exact memoriesOk_sendOrCount (memoriesOk_fst e4 (memoriesOk_readCheck h3))
      · next e4 =>
        have h4 := memoriesOk_fst e4 (memoriesOk_readCheck h3)
        exact memoriesOk_foldl h4 fun _ _ => memoriesOk_sendOrCount

theorem memoriesOk_originStep {e m put} {f : State → Xfer → State} (hs : s.memoriesOk)
    (hf : ∀ t m, t.memoriesOk → (f t m).memoriesOk) : (originStep s e m put f).memoriesOk := by
  unfold originStep
  split
  · exact memoriesOk_ite (hf _ _ hs) (memoriesOk_ceStale hs)
  · exact memoriesOk_ceStale hs

theorem memoriesOk_execGetrsp {e} (hs : s.memoriesOk) : (execGetrsp e s).memoriesOk := by
  unfold execGetrsp
  refine memoriesOk_msgStep hs (fun _ _ ht => memoriesOk_originStep ht (fun _ _ ht => ?_))
  refine memoriesOk_ite (memoriesOk_xferDone ht) (memoriesOk_ite (memoriesOk_ceStale ht) ?_)
  split
  · next e6 => exact memoriesOk_xferDone (memoriesOk_fst e6 (memoriesOk_writeStop ht))
  · next e6 =>
    have h6 := memoriesOk_fst e6 (memoriesOk_writeStop ht)
    exact memoriesOk_ite (memoriesOk_xferDone h6) (memoriesOk_modCe h6)

theorem memoriesOk_execXferTimeout {e tag} (hs : s.memoriesOk) : (execXferTimeout e tag s).memoriesOk := by
  unfold execXferTimeout
  refine memoriesOk_ite hs ?_
  split
  · exact memoriesOk_xferDone (memoriesOk_modCe hs)
  · exact hs

/-! ### Branches -/

theorem memoriesOk_redirect {c t k x n} (hs : s.memoriesOk) : (redirect s c t k x n).memoriesOk :=
  memoriesOk_setCore hs

theorem memoriesOk_jump {c t k x w tg} (hs : s.memoriesOk) : (jump s c t k x w tg).memoriesOk :=
  memoriesOk_ite (memoriesOk_illegal hs) (memoriesOk_redirect hs)

theorem memoriesOk_branch {c t op f} (hs : s.memoriesOk) : (branch s c t op f).memoriesOk :=
  memoriesOk_ccStep hs fun _ _ _ => memoriesOk_ite (memoriesOk_jump hs) (memoriesOk_setCore hs)

/-! ### Taking exceptions -/

theorem memoriesOk_takePending {c t} (hs : s.memoriesOk) : (takePending s c t).memoriesOk := by
  dsimp only [takePending]
  split
  · exact hs
  · exact memoriesOk_ite (memoriesOk_exceptionInExc hs) (memoriesOk_takeException hs)

theorem memoriesOk_coreFaultEvent {c} (hs : s.memoriesOk) : (coreFaultEvent s c).memoriesOk := hs

/-! ### Vector words -/

theorem memoriesOk_vectorFault {c t e w code addr} (hs : s.memoriesOk) :
    (vectorFault s c t e w code addr).memoriesOk :=
  memoriesOk_raise (memoriesOk_modCore hs)

theorem memoriesOk_datapathMismatch {c t e w} (hs : s.memoriesOk) : (datapathMismatch s c t e w).memoriesOk :=
  memoriesOk_coreFaultEvent (memoriesOk_errorEnd (memoriesOk_record hs))

theorem memoriesOk_issue {f : VForm} {c t e n w} (hs : s.memoriesOk)
    (hf : ∀ t i, t.memoriesOk → (f.body t i).1.memoriesOk) : (VForm.issue f s c t e n w).memoriesOk := by
  unfold VForm.issue
  refine memoriesOk_ite (memoriesOk_datapathMismatch (memoriesOk_modCore hs)) (memoriesOk_tally ?_)
  split
  · next e2 => exact memoriesOk_vectorFault (memoriesOk_fst e2 (hf _ _ (memoriesOk_modCore hs)))
  · next e2 => exact memoriesOk_modCore (memoriesOk_fst e2 (hf _ _ (memoriesOk_modCore hs)))

theorem memoriesOk_enter {f : VForm} {c t n w l} (hs : s.memoriesOk)
    (hf : ∀ t i, t.memoriesOk → (f.body t i).1.memoriesOk) : (VForm.enter f s c t n w l).memoriesOk := by
  induction l generalizing s with
  | nil => exact hs
  | cons e l ih => exact ih (memoriesOk_ite (memoriesOk_issue hs hf) (memoriesOk_modCore hs))

theorem memoriesOk_vecStep {c t op mm wait regs} {body : VBody} (hs : s.memoriesOk)
    (hf : ∀ t i, t.memoriesOk → (body t i).1.memoriesOk) : (vecStep s c t op mm wait regs body).memoriesOk := by
  dsimp only [vecStep]
  split
  · exact memoriesOk_issue (memoriesOk_modCore hs) fun _ _ ht => hf _ _ ht
  · split
    · exact hs
    · exact memoriesOk_badFetch hs
    · refine memoriesOk_ite hs (memoriesOk_ite (memoriesOk_illegal hs) ?_)
      exact memoriesOk_ite hs (memoriesOk_enter (memoriesOk_modCore hs) (fun _ _ ht => hf _ _ ht))

theorem memoriesOk_vecPure {c t op mm regs sp f} (hs : s.memoriesOk) : (vecPure s c t op mm regs sp f).memoriesOk :=
  memoriesOk_vecStep hs fun _ _ ht => ht

/-! ### Vector forms -/

theorem memoriesOk_vecMove {c t op u f} (hs : s.memoriesOk) : (vecMove s c t op u f).memoriesOk :=
  memoriesOk_vecPure hs

theorem memoriesOk_vecArith {c t op mm useC types g h} (hs : s.memoriesOk) :
    (vecArith s c t op mm useC types g h).memoriesOk :=
  memoriesOk_vecPure hs

theorem memoriesOk_vecPick {c t op mm mx} (hs : s.memoriesOk) : (vecPick s c t op mm mx).memoriesOk :=
  memoriesOk_vecPure hs

theorem memoriesOk_vecSign {c t op flip} (hs : s.memoriesOk) : (vecSign s c t op flip).memoriesOk :=
  memoriesOk_vecPure hs

theorem memoriesOk_vecBits {c t op types f} (hs : s.memoriesOk) : (vecBits s c t op types f).memoriesOk :=
  memoriesOk_vecPure hs

theorem memoriesOk_vecPred {c t op f} (hs : s.memoriesOk) : (vecPred s c t op f).memoriesOk :=
  memoriesOk_vecPure hs

theorem memoriesOk_vecPermute {c t op src} (hs : s.memoriesOk) : (vecPermute s c t op src).memoriesOk :=
  memoriesOk_vecPure hs

theorem memoriesOk_unlistedStep {c t op} (hs : s.memoriesOk) : (unlistedStep s c t op).memoriesOk :=
  memoriesOk_vecStep hs fun _ _ ht => ht

theorem memoriesOk_execUnlistedVectorOpcode {c t} (hs : s.memoriesOk) :
    (execUnlistedVectorOpcode c t s).memoriesOk := by
  unfold execUnlistedVectorOpcode
  split
  · exact memoriesOk_unlistedStep hs
  · split
    · exact resMemoriesOk_ite hs (memoriesOk_unlistedStep hs)
    · exact memoriesOk_badFetch hs
    · exact hs

end Sys2Proof.Machine
end

section
/-! SUPPORT. The canonical form of the memories under collectives, host queues and host packets. -/

namespace Sys2Proof.Machine

variable {s : State}

/-! ### Steps of collective instances -/

theorem memoriesOk_setStep {e h k i n} (hs : s.memoriesOk) : (setStep s e h k i n).memoriesOk :=
  memoriesOk_modCe hs

theorem memoriesOk_sendInst {e h l p i kind nf low chunk data} (hs : s.memoriesOk) :
    (sendInst s e h l p i kind nf low chunk data).memoriesOk :=
  memoriesOk_ite hs (memoriesOk_sendOn hs)

theorem memoriesOk_refuseCe {e w code} (hs : s.memoriesOk) : (refuseCe s e w code).memoriesOk :=
  memoriesOk_record (memoriesOk_setFlt hs)

theorem memoriesOk_trigger {e h tag core} (hs : s.memoriesOk) : (trigger s e h tag core).memoriesOk := by
  dsimp only [trigger]
  split
  · exact hs
  · exact memoriesOk_ite (memoriesOk_setCe hs) (memoriesOk_ite (memoriesOk_refuseCe hs) (memoriesOk_setCe hs))

/-! ### Collective instances -/

theorem memoriesOk_startParity {p xl l} (hs : s.memoriesOk) : (startParity s p xl l).1.memoriesOk := by
  induction l generalizing s with
  | nil => exact hs
  | cons y l ih =>
    unfold startParity
    split
    · next e1 => exact memoriesOk_fst e1 (memoriesOk_readCheck hs)
    · next e1 =>
      have h1 := memoriesOk_freeBytes (n := 4 * y.k)
        (memoriesOk_freeNat (memoriesOk_fst e1 (memoriesOk_readCheck hs)))
      dsimp only
      split
      · next e2 => exact memoriesOk_fst e2 (memoriesOk_writeStop h1)
      · next e2 =>
        have h2 := memoriesOk_fst e2 (memoriesOk_writeStop h1)
        split
        · next e3 => exact memoriesOk_fst e3 (ih h2)
        · next e3 => exact memoriesOk_fst e3 (ih h2)

theorem memoriesOk_dropHeld {e job p i f} (hs : s.memoriesOk) : (dropHeld s e job p i f).memoriesOk :=
  memoriesOk_setCe hs

theorem memoriesOk_detachLink {e h l p i} (hs : s.memoriesOk) : (detachLink s e h l p i).memoriesOk :=
  memoriesOk_sendOn (memoriesOk_setLink hs)

theorem memoriesOk_takeDetach {e h p i} (hs : s.memoriesOk) : (takeDetach s e h p i).memoriesOk :=
  memoriesOk_modCe (memoriesOk_dropHeld (memoriesOk_foldl hs (fun _ _ => memoriesOk_detachLink)))

theorem memoriesOk_execInstanceStart {e h} (hs : s.memoriesOk) : (execInstanceStart e h s).memoriesOk := by
  dsimp only [execInstanceStart]
  split
  · refine memoriesOk_ite hs ?_
    split
    · exact memoriesOk_setCe hs
    · split
      · next e3 => exact memoriesOk_abortInst (memoriesOk_fst e3 (memoriesOk_xlate (memoriesOk_setCe hs)))
      · next e3 =>
        have h3 := memoriesOk_fst e3 (memoriesOk_xlate (memoriesOk_setCe hs))
        split
        · next e4 =>
          exact memoriesOk_abortInst (memoriesOk_modCe (memoriesOk_fst e4 (memoriesOk_startParity h3)))
        · next e4 =>
          have h4 := memoriesOk_fst e4 (memoriesOk_startParity h3)
          exact memoriesOk_ite (memoriesOk_takeDetach (memoriesOk_modCe h4)) (memoriesOk_modCe h4)
  · exact hs

theorem memoriesOk_operandA {e p i x c b o n} (hs : s.memoriesOk) : (operandA s e p i x c b o n).1.memoriesOk := by
  dsimp only [operandA]
  split
  · split
    · next e1 => exact memoriesOk_fst e1 (memoriesOk_readCheck hs)
    · next e1 => exact memoriesOk_fst e1 (memoriesOk_readCheck hs)
  · split
    · next e1 => exact memoriesOk_fst e1 (memoriesOk_readCheck hs)
    · next e1 => exact memoriesOk_fst e1 (memoriesOk_readCheck hs)
  · exact memoriesOk_fst_ite hs hs

theorem memoriesOk_addParity {e p i y q} (hs : s.memoriesOk) : (addParity s e p i y q).1.memoriesOk :=
  memoriesOk_modCe (memoriesOk_writeStop hs)

theorem memoriesOk_takeParity {e p i c o bs l} (hs : s.memoriesOk) :
    (takeParity s e p i c o bs l).1.memoriesOk := by
  induction l generalizing s with
  | nil => exact hs
  | cons y l ih =>
    refine memoriesOk_fst_ite ?_ (ih ?_) <;>
      exact memoriesOk_foldl_fst hs fun _ _ ht => memoriesOk_fst_ite ht (memoriesOk_addParity ht)

theorem memoriesOk_outputs {e h k p i x c b o bs nf} (hs : s.memoriesOk) :
    (outputs s e h k p i x c b o bs nf).memoriesOk := by
  have h1 {l : List (Nat × Byte)} : (if x.toDst then writeStop s l else (s, none)).1.memoriesOk :=
    memoriesOk_fst_ite (memoriesOk_writeStop hs) hs
  have h2 {c : Prop} [Decidable c] {t : State} {l l' o b y q} (ht : t.memoriesOk) :
      (if c then takeParity t e p y o b l l' else (t, q)).1.memoriesOk :=
    memoriesOk_fst_ite (memoriesOk_takeParity ht) ht
  dsimp only [outputs]
  split
  · exact memoriesOk_abortInst (h2 h1)
  · refine memoriesOk_ite (memoriesOk_foldl ?_ fun _ _ ht => memoriesOk_sendInst ht) ?_ <;>
      exact memoriesOk_setStep (memoriesOk_ite (memoriesOk_modCe (h2 h1)) (h2 h1))

theorem memoriesOk_dataStep {e h k p i} (hs : s.memoriesOk) : (dataStep s e h k p i).memoriesOk := by
  unfold dataStep
  refine memoriesOk_ite ?_ ?_
  · refine memoriesOk_ite hs ?_
    split
    · next e2 => exact memoriesOk_abortInst (memoriesOk_fst e2 (memoriesOk_operandA hs))
    · next e2 => exact memoriesOk_outputs (memoriesOk_fst e2 (memoriesOk_operandA hs))
  · split
    · exact hs
    · refine memoriesOk_ite (memoriesOk_abortInst hs) ?_
      refine memoriesOk_ite hs (memoriesOk_ite (memoriesOk_outputs (memoriesOk_modCe hs)) ?_)
      split
      · next e5 =>
        exact memoriesOk_abortInst (memoriesOk_fst e5 (memoriesOk_operandA (memoriesOk_modCe hs)))
      · next e5 =>
        have h5 := memoriesOk_fst e5 (memoriesOk_operandA (memoriesOk_modCe hs))
        exact memoriesOk_outputs (memoriesOk_tally h5)

theorem memoriesOk_flagStep {e h k p i} (hs : s.memoriesOk) : (flagStep s e h k p i).memoriesOk := by
  unfold flagStep
  refine memoriesOk_ite (memoriesOk_ite (memoriesOk_sendInst (memoriesOk_setStep hs)) hs) ?_
  split
  · exact hs
  · exact memoriesOk_ite (memoriesOk_abortInst hs) (memoriesOk_setStep (memoriesOk_modCe hs))

theorem memoriesOk_execCollectiveStep {e h step} (hs : s.memoriesOk) :
    (execCollectiveStep e h step s).memoriesOk := by
  unfold execCollectiveStep
  split
  · exact memoriesOk_ite hs (memoriesOk_ite (memoriesOk_dataStep hs) (memoriesOk_flagStep hs))
  · exact hs

theorem memoriesOk_noteSlow {e m} (hs : s.memoriesOk) : (noteSlow s e m).memoriesOk := by
  unfold noteSlow
  split
  · exact memoriesOk_modCe hs
  · exact memoriesOk_modCe hs

theorem memoriesOk_holdMsg {e sel} {after : State → InMsg → State} (hs : s.memoriesOk)
    (hf : ∀ t m, t.memoriesOk → (after t m).memoriesOk) : (holdMsg s e sel after).memoriesOk := by
  unfold holdMsg
  refine memoriesOk_ite hs ?_
  split
  · exact hs
  · refine memoriesOk_ite (memoriesOk_ceStale (memoriesOk_consume (memoriesOk_setCe hs))) (hf _ _ ?_)
    exact memoriesOk_ite (memoriesOk_noteSlow (memoriesOk_consume (memoriesOk_setCe hs)))
      (memoriesOk_consume (memoriesOk_setCe hs))

theorem memoriesOk_execFlag {e} (hs : s.memoriesOk) : (execFlag e s).memoriesOk := by
  unfold execFlag
  refine memoriesOk_holdMsg hs fun _ _ ht => ?_
  split
  · split
    · exact memoriesOk_ite (memoriesOk_flagStep ht) ht
    · exact ht
  · exact ht

theorem memoriesOk_execSlownTimer {e h} (hs : s.memoriesOk) : (execSlownTimer e h s).memoriesOk := by
  unfold execSlownTimer
  split
  · exact memoriesOk_ite hs (memoriesOk_foldl hs (fun _ _ => memoriesOk_sendOn))
  · exact hs

theorem memoriesOk_execStraggleTimeout {e h l} (hs : s.memoriesOk) : (execStraggleTimeout e h l s).memoriesOk := by
  unfold execStraggleTimeout
  split
  · exact memoriesOk_ite hs (memoriesOk_modCe (memoriesOk_detachLink hs))
  · exact hs

theorem memoriesOk_execDetach {e} (hs : s.memoriesOk) : (execDetach e s).memoriesOk := by
  unfold execDetach
  refine memoriesOk_msgStep hs fun _ _ ht => memoriesOk_ite (memoriesOk_ceStale ht) ?_
  split
  · exact memoriesOk_takeDetach ht
  · exact memoriesOk_ite (memoriesOk_ceStale ht) (memoriesOk_setCe ht)
  · exact ht

theorem memoriesOk_execInstanceTimeout {e h} (hs : s.memoriesOk) : (execInstanceTimeout e h s).memoriesOk := by
  unfold execInstanceTimeout
  split
  · exact memoriesOk_ite hs (memoriesOk_abortInst hs)
  · exact hs

theorem memoriesOk_takeAbort {e m} (hs : s.memoriesOk) : (takeAbort s e m).memoriesOk := by
  dsimp only [takeAbort]
  split
  · exact memoriesOk_ceStale hs
  · split
    · exact memoriesOk_ite (memoriesOk_ceStale hs) (memoriesOk_setCe hs)
    · exact memoriesOk_ite (memoriesOk_ceStale hs) (memoriesOk_ite hs (memoriesOk_ite hs (memoriesOk_setCe hs)))

theorem memoriesOk_finishParity {p i l} (hs : s.memoriesOk) : (finishParity s p i l).1.memoriesOk := by
  induction l generalizing s with
  | nil => exact hs
  | cons y l ih =>
    unfold finishParity
    refine memoriesOk_fst_ite ?_ (ih hs)
    dsimp only
    split
    · next e => exact memoriesOk_fst e (memoriesOk_writeStop hs)
    · next e => exact ih (memoriesOk_fst e (memoriesOk_writeStop hs))

theorem memoriesOk_undefineParity {p i} (hs : s.memoriesOk) : (undefineParity s p i).memoriesOk :=
  memoriesOk_foldl hs fun _ _ => memoriesOk_scrambleAll

theorem memoriesOk_undefineInst {e p i} (hs : s.memoriesOk) : (undefineInst s e p i).memoriesOk :=
  memoriesOk_modCe (memoriesOk_freeBytes (memoriesOk_ite hs (memoriesOk_scrambleAll hs)))

theorem memoriesOk_updateGnf {c tag nf st} (hs : s.memoriesOk) : (updateGnf s c tag nf st).memoriesOk :=
  memoriesOk_ite (memoriesOk_modCore hs) hs

theorem memoriesOk_writeRecord {p i} (hs : s.memoriesOk) : (writeRecord s p i).memoriesOk := by
  unfold writeRecord
  refine memoriesOk_ite hs ?_
  split
  · next e1 =>
    exact memoriesOk_writeStop (memoriesOk_fst e1 (memoriesOk_fst_ite (memoriesOk_xlate hs) hs))
  · next e1 => exact memoriesOk_fst e1 (memoriesOk_fst_ite (memoriesOk_xlate hs) hs)

theorem memoriesOk_completeInst {e h p i} (hs : s.memoriesOk) : (completeInst s e h p i).memoriesOk := by
  unfold completeInst
  refine memoriesOk_modCe (memoriesOk_tally (memoriesOk_ite ?_ ?_))
  · refine memoriesOk_dropHeld (memoriesOk_ite ?_ ?_)
    · refine memoriesOk_post ?_
      refine memoriesOk_ite (memoriesOk_foldl (memoriesOk_writeRecord (memoriesOk_ite (memoriesOk_undefineParity
        (memoriesOk_undefineInst hs)) hs)) (fun _ _ => memoriesOk_updateGnf)) ?_
      exact memoriesOk_writeRecord (memoriesOk_ite (memoriesOk_undefineParity (memoriesOk_undefineInst hs)) hs)
    · refine memoriesOk_ite (memoriesOk_foldl (memoriesOk_writeRecord (memoriesOk_ite (memoriesOk_undefineParity
        (memoriesOk_undefineInst hs)) hs)) (fun _ _ => memoriesOk_updateGnf)) ?_
      exact memoriesOk_writeRecord (memoriesOk_ite (memoriesOk_undefineParity (memoriesOk_undefineInst hs)) hs)
  · refine memoriesOk_ite ?_ ?_
    · refine memoriesOk_post ?_
      refine memoriesOk_ite (memoriesOk_foldl (memoriesOk_writeRecord (memoriesOk_ite (memoriesOk_undefineParity
        (memoriesOk_undefineInst hs)) hs)) (fun _ _ => memoriesOk_updateGnf)) ?_
      exact memoriesOk_writeRecord (memoriesOk_ite (memoriesOk_undefineParity (memoriesOk_undefineInst hs)) hs)
    · refine memoriesOk_ite (memoriesOk_foldl (memoriesOk_writeRecord (memoriesOk_ite (memoriesOk_undefineParity
        (memoriesOk_undefineInst hs)) hs)) (fun _ _ => memoriesOk_updateGnf)) ?_
      exact memoriesOk_writeRecord (memoriesOk_ite (memoriesOk_undefineParity (memoriesOk_undefineInst hs)) hs)

theorem memoriesOk_execInstanceComplete {e h} (hs : s.memoriesOk) : (execInstanceComplete e h s).memoriesOk := by
  unfold execInstanceComplete
  split
  · refine memoriesOk_ite hs (memoriesOk_ite (memoriesOk_completeInst hs) (memoriesOk_ite ?_ hs))
    split
    · next e4 => exact memoriesOk_abortInst (memoriesOk_fst e4 (memoriesOk_finishParity hs))
    · next e4 => exact memoriesOk_completeInst (memoriesOk_fst e4 (memoriesOk_finishParity hs))
  · exact hs

/-! ### Host memory, queues and dispatch -/

theorem memoriesOk_setHmem {p m} (hs : s.memoriesOk) (hm : wfTable 0 m = true) : (s.setHmem p m).memoriesOk := by
  obtain ⟨h, h0, h1⟩ := hs
  exact memoriesOk_ite ⟨h, hm, h1⟩ ⟨h, h0, hm⟩

theorem memoriesOk_hostWalk {ctx l} (hs : s.memoriesOk) : (hostWalk s ctx l).1.memoriesOk := by
  induction l generalizing s with
  | nil => exact hs
  | cons p l ih =>
    unfold hostWalk
    refine memoriesOk_fst_ite (ih hs) ?_
    split
    · exact memoriesOk_setCtx hs
    · exact hs
    · exact memoriesOk_fst_ite (memoriesOk_setCtx hs) hs

theorem memoriesOk_hostXlate {ctx addr n} (hs : s.memoriesOk) : (hostXlate s ctx addr n).1.memoriesOk := by
  unfold hostXlate
  refine memoriesOk_fst_ite hs ?_
  split
  · next e1 => exact memoriesOk_fst e1 (memoriesOk_hostWalk hs)
  · next e1 => exact memoriesOk_fst e1 (memoriesOk_hostWalk hs)
  · next e1 =>
    have h1 := memoriesOk_fst e1 (memoriesOk_hostWalk hs)
    split
    · exact h1
    · exact h1

theorem wfTable_hmem {p} (hs : s.memoriesOk) : wfTable 0 (s.hmem p) = true := by
  unfold State.hmem
  split
  · exact hs.hmem0
  · exact hs.hmem1

theorem memoriesOk_hostPoke {p addr bs} (hs : s.memoriesOk) : (hostPoke s p addr bs).memoriesOk :=
  memoriesOk_setHmem hs (wfTable_putAll _ (wfTable_hmem hs))

theorem memoriesOk_ctxFault {ctx code agent va} (hs : s.memoriesOk) : (ctxFault s ctx code agent va).memoriesOk :=
  memoriesOk_modCtx hs

theorem memoriesOk_readSpace {ctx host addr n} (hs : s.memoriesOk) :
    (readSpace s ctx host addr n).1.memoriesOk := by
  unfold readSpace
  refine memoriesOk_fst_ite ?_ ?_
  · split
    · next e1 => exact memoriesOk_fst e1 (memoriesOk_hostXlate hs)
    · next e1 => exact memoriesOk_fst e1 (memoriesOk_hostXlate hs)
    · next e1 => exact memoriesOk_fst e1 (memoriesOk_hostXlate hs)
  · split
    · next e1 => exact memoriesOk_fst e1 (memoriesOk_xlate hs)
    · next e1 =>
      have h1 := memoriesOk_fst e1 (memoriesOk_xlate hs)
      split
      · next e2 => exact memoriesOk_fst e2 (memoriesOk_readCheck h1)
      · next e2 => exact memoriesOk_fst e2 (memoriesOk_readCheck h1)

theorem memoriesOk_readVa {ctx va n} (hs : s.memoriesOk) : (readVa s ctx va n).1.memoriesOk := by
  unfold readVa
  split
  · next e0 => exact memoriesOk_fst e0 (memoriesOk_readSpace hs)
  · next e0 => exact memoriesOk_fst e0 (memoriesOk_readSpace hs)
  · next e0 => exact memoriesOk_fst e0 (memoriesOk_readSpace hs)

theorem memoriesOk_writeSpace {ctx host addr bs} (hs : s.memoriesOk) :
    (writeSpace s ctx host addr bs).1.memoriesOk := by
  unfold writeSpace
  refine memoriesOk_fst_ite ?_ ?_
  · split
    · next e1 => exact memoriesOk_hostPoke (memoriesOk_fst e1 (memoriesOk_hostXlate hs))
    · next e1 => exact memoriesOk_fst e1 (memoriesOk_hostXlate hs)
    · next e1 => exact memoriesOk_fst e1 (memoriesOk_hostXlate hs)
  · split
    · next e1 => exact memoriesOk_fst e1 (memoriesOk_xlate hs)
    · next e1 =>
      have h1 := memoriesOk_fst e1 (memoriesOk_xlate hs)
      dsimp only
      split
      · next e2 => exact memoriesOk_fst e2 (memoriesOk_writeStop h1)
      · next e2 => exact memoriesOk_fst e2 (memoriesOk_writeStop h1)

theorem memoriesOk_writeSome {ctx host addr n bs xl} (hs : s.memoriesOk) :
    (writeSome s ctx host addr n bs xl).memoriesOk :=
  memoriesOk_ite (memoriesOk_hostPoke (memoriesOk_freeNat hs)) (memoriesOk_writeStop (memoriesOk_freeNat hs))

theorem memoriesOk_sqDoorbellWrite {ctx q val} (hs : s.memoriesOk) : (sqDoorbellWrite s ctx q val).memoriesOk :=
  memoriesOk_ite (memoriesOk_accessEvent hs) (memoriesOk_ite (memoriesOk_discardWrite hs) (memoriesOk_setSq hs))

theorem memoriesOk_cqDoorbellWrite {ctx q val} (hs : s.memoriesOk) : (cqDoorbellWrite s ctx q val).memoriesOk :=
  memoriesOk_ite (memoriesOk_accessEvent hs) (memoriesOk_ite (memoriesOk_discardWrite hs) (memoriesOk_setCq hs))

theorem memoriesOk_endQwaits {status f} (hs : s.memoriesOk) : (endQwaits s status f).memoriesOk := by
  unfold endQwaits
  refine memoriesOk_foldl hs fun _ _ ht => ?_
  split
  · split
    · exact memoriesOk_ite (memoriesOk_completePkt ht) ht
    · exact ht
  · exact ht

theorem memoriesOk_settleQwaits (hs : s.memoriesOk) : (settleQwaits s).memoriesOk := memoriesOk_endQwaits hs

theorem memoriesOk_settleCq {q} (hs : s.memoriesOk) : (settleCq s q).memoriesOk := by
  dsimp only [settleCq]
  split
  · exact memoriesOk_completePkt (memoriesOk_setCq hs)
  · exact hs

theorem memoriesOk_replyWritten {q r rs} (hs : s.memoriesOk) : (replyWritten s q r rs).memoriesOk :=
  memoriesOk_settleCq (memoriesOk_settleQwaits (memoriesOk_setPkt (memoriesOk_tally (memoriesOk_tally
    (memoriesOk_ite (memoriesOk_raiseMsix (memoriesOk_setCq hs)) (memoriesOk_setCq hs))))))

theorem memoriesOk_execStatusReplyWrite {q} (hs : s.memoriesOk) : (execStatusReplyWrite q s).memoriesOk := by
  dsimp only [execStatusReplyWrite]
  split
  · refine memoriesOk_ite hs ?_
    split
    · next e2 => exact memoriesOk_replyWritten (memoriesOk_fst e2 (memoriesOk_writeSpace hs))
    · next e2 => exact memoriesOk_fst e2 (memoriesOk_writeSpace hs)
    · next e2 => exact memoriesOk_ctxFault (memoriesOk_fst e2 (memoriesOk_writeSpace hs))
  · exact hs

theorem memoriesOk_adminEnable {ctx val} (hs : s.memoriesOk) : (adminEnable s ctx val).memoriesOk := by
  unfold adminEnable
  refine memoriesOk_ite hs ?_
  exact memoriesOk_ite (memoriesOk_setCq (memoriesOk_setSq (memoriesOk_setCtx hs))) (memoriesOk_setCtx hs)

theorem memoriesOk_silence {f} (hs : s.memoriesOk) : (silence s f).memoriesOk := by
  unfold silence
  refine memoriesOk_foldl hs fun _ _ ht => ?_
  split
  · exact memoriesOk_ite (memoriesOk_setPkt ht) ht
  · exact ht

theorem memoriesOk_adminDisable {ctx} (hs : s.memoriesOk) : (adminDisable s ctx).memoriesOk :=
  memoriesOk_setCq (memoriesOk_setSq (memoriesOk_modCtx (memoriesOk_foldl (memoriesOk_silence
    (memoriesOk_endQwaits hs)) (fun _ _ => memoriesOk_setPkt))))

theorem memoriesOk_takePacket {q ctx ws stray} (hs : s.memoriesOk) : (takePacket s q ctx ws stray).2.memoriesOk :=
  memoriesOk_with (memoriesOk_setSq hs)

theorem memoriesOk_dispatchFront {q sel} {go : State → Nat → Pkt → State} (hs : s.memoriesOk)
    (hf : ∀ t n p, t.memoriesOk → (go t n p).memoriesOk) : (dispatchFront q s sel go).memoriesOk := by
  dsimp only [dispatchFront]
  split
  · exact hs
  · refine memoriesOk_ite hs ?_
    split
    · next e2 => exact memoriesOk_fst e2 (memoriesOk_readSpace hs)
    · next e2 => exact memoriesOk_ctxFault (memoriesOk_fst e2 (memoriesOk_readSpace hs))
    · next e2 =>
      have h2 := memoriesOk_fst e2 (memoriesOk_readSpace hs)
      refine memoriesOk_ite hs ?_
      refine memoriesOk_ite (memoriesOk_completePkt (memoriesOk_takePacket h2)) (memoriesOk_ite hs ?_)
      refine memoriesOk_ite hs (memoriesOk_ite (memoriesOk_completePkt (memoriesOk_takePacket h2)) ?_)
      split
      · exact hf _ _ _ (memoriesOk_takePacket h2)
      · exact memoriesOk_takePacket h2

theorem memoriesOk_dispatch {o absent} {run : State → Nat → Pkt → State} {q} (hs : s.memoriesOk)
    (hf : ∀ t n p, t.memoriesOk → (run t n p).memoriesOk) : (dispatch o absent run q s).memoriesOk := by
  unfold dispatch
  refine memoriesOk_ite hs ?_
  refine memoriesOk_dispatchFront hs fun _ _ _ ht => memoriesOk_ite (memoriesOk_completePkt ht) ?_
  exact memoriesOk_ite (memoriesOk_completePkt ht) (memoriesOk_ite (memoriesOk_completePkt ht) (hf _ _ _ ht))

/-! ### Check-value channels -/

theorem memoriesOk_setCv {k x} (hs : s.memoriesOk) : (s.setCv k x).memoriesOk := hs

theorem memoriesOk_modCv {k f} (hs : s.memoriesOk) : (s.modCv k f).memoriesOk := memoriesOk_setCv hs

theorem memoriesOk_cvDone {k status} (hs : s.memoriesOk) : (cvDone s k status).memoriesOk :=
  memoriesOk_ite (memoriesOk_raiseMsix (memoriesOk_setCv hs)) (memoriesOk_setCv hs)

theorem memoriesOk_cvWrite {k xl bs} (hs : s.memoriesOk) : (cvWrite s k xl bs).1.memoriesOk :=
  memoriesOk_fst_ite (memoriesOk_hostPoke hs) (memoriesOk_writeStop hs)

theorem memoriesOk_cvEnd {k status} (hs : s.memoriesOk) : (cvEnd s k status).memoriesOk := by
  unfold cvEnd
  split
  · exact hs
  · exact memoriesOk_cvDone (memoriesOk_cvWrite (memoriesOk_freeBytes hs))

theorem memoriesOk_cvEndPort {port status} (hs : s.memoriesOk) : (cvEndPort s port status).memoriesOk :=
  memoriesOk_cvEnd (memoriesOk_cvEnd hs)

/-! ### Host packets -/

theorem memoriesOk_tokenPost {pid p} (hs : s.memoriesOk) : (tokenPost s pid p).memoriesOk := by
  dsimp only [tokenPost]
  split
  · exact memoriesOk_completePkt hs
  · exact memoriesOk_ite (memoriesOk_completePkt hs) (memoriesOk_completePkt (memoriesOk_postMany hs))

theorem memoriesOk_qwait {pid p} (hs : s.memoriesOk) : (qwait s pid p).memoriesOk := by
  unfold qwait
  refine memoriesOk_ite (memoriesOk_completePkt hs) ?_
  exact memoriesOk_ite (memoriesOk_completePkt hs) (memoriesOk_ite (memoriesOk_completePkt hs) (memoriesOk_setPkt hs))

theorem memoriesOk_dmaPost {p} (hs : s.memoriesOk) : (dmaPost s p).memoriesOk :=
  memoriesOk_ite (memoriesOk_post hs) hs

theorem memoriesOk_dmaStart {pid p} (hs : s.memoriesOk) : (dmaStart s pid p).memoriesOk := by
  unfold dmaStart
  refine memoriesOk_ite (memoriesOk_completePkt hs) ?_
  split
  · exact memoriesOk_completePkt hs
  · refine memoriesOk_ite (memoriesOk_completePkt (memoriesOk_dmaPost hs)) ?_
    refine memoriesOk_ite (memoriesOk_completePkt hs) ?_
    split
    · next e4 =>
      exact memoriesOk_completePkt (memoriesOk_ctxFault (memoriesOk_fst e4 (memoriesOk_xlate hs)))
    · next e4 => exact memoriesOk_setPkt (memoriesOk_fst e4 (memoriesOk_xlate hs))

theorem memoriesOk_dmaStop {pid ctx code va} (hs : s.memoriesOk) : (dmaStop s pid ctx code va).memoriesOk :=
  memoriesOk_completePkt (memoriesOk_ctxFault hs)

theorem memoriesOk_dmaWrite {p xl bs} (hs : s.memoriesOk) : (dmaWrite s p xl bs).1.memoriesOk :=
  memoriesOk_fst_ite (memoriesOk_hostPoke hs) (memoriesOk_writeStop hs)

theorem memoriesOk_dmaPart {p xl n} (hs : s.memoriesOk) : (dmaPart s p xl n).memoriesOk :=
  memoriesOk_writeSome hs

theorem memoriesOk_dmaMove {pid p xl hostFail} (hs : s.memoriesOk) : (dmaMove s pid p xl hostFail).memoriesOk := by
  dsimp only [dmaMove]
  split
  · next e0 => exact memoriesOk_fst e0 (memoriesOk_fst_ite (memoriesOk_hostXlate hs) hs)
  · next e0 =>
    have h0 := memoriesOk_fst e0 (memoriesOk_fst_ite (memoriesOk_hostXlate hs) hs)
    exact memoriesOk_dmaStop (memoriesOk_dmaPart h0)
  · next e0 =>
    have h0 := memoriesOk_fst e0 (memoriesOk_fst_ite (memoriesOk_hostXlate hs) hs)
    split
    · exact memoriesOk_dmaStop (memoriesOk_dmaPart h0)
    · split
      · next e2 =>
        have h2 := memoriesOk_fst e2 (memoriesOk_fst_ite h0 (memoriesOk_readCheck h0))
        exact memoriesOk_dmaStop (memoriesOk_dmaPart h2)
      · next e2 =>
        have h2 := memoriesOk_fst e2 (memoriesOk_fst_ite h0 (memoriesOk_readCheck h0))
        split
        · next e3 => exact memoriesOk_dmaStop (memoriesOk_fst e3 (memoriesOk_dmaWrite h2))
        · next e3 =>
          exact memoriesOk_completePkt (memoriesOk_dmaPost (memoriesOk_fst e3 (memoriesOk_dmaWrite h2)))

theorem memoriesOk_execDmaComplete {pid hostFail} (hs : s.memoriesOk) :
    (execDmaComplete pid hostFail s).memoriesOk := by
  unfold execDmaComplete
  split
  · split
    · exact memoriesOk_dmaMove hs
    · exact hs
  · exact hs

theorem memoriesOk_sendLaunch {pid p cs} (hs : s.memoriesOk) : (sendLaunch s pid p cs).memoriesOk :=
  memoriesOk_foldl hs fun _ _ => memoriesOk_modCore

theorem memoriesOk_launch {pid p} (hs : s.memoriesOk) : (launch s pid p).memoriesOk := by
  unfold launch
  refine memoriesOk_ite (memoriesOk_completePkt hs) ?_
  split
  · exact memoriesOk_completePkt hs
  · split
    · next e2 =>
      exact memoriesOk_completePkt (memoriesOk_fst e2 (memoriesOk_fst_ite hs (memoriesOk_xlate hs)))
    · next e2 =>
      have h2 := memoriesOk_fst e2 (memoriesOk_fst_ite hs (memoriesOk_xlate hs))
      exact memoriesOk_sendLaunch (memoriesOk_setPkt h2)

theorem memoriesOk_qCreate {pid p} (hs : s.memoriesOk) : (qCreate s pid p).memoriesOk := by
  unfold qCreate
  refine memoriesOk_ite (memoriesOk_completePkt hs) ?_
  refine memoriesOk_ite (memoriesOk_completePkt hs) (memoriesOk_ite (memoriesOk_completePkt hs) ?_)
  split
  · exact memoriesOk_completePkt hs
  · dsimp only
    split
    · next e4 =>
      have h4 := memoriesOk_fst e4 (memoriesOk_fst_ite hs (memoriesOk_fst_ite (memoriesOk_xlate hs)
        (memoriesOk_xlate hs)))
      exact memoriesOk_completePkt h4
    · next e4 =>
      have h4 := memoriesOk_fst e4 (memoriesOk_fst_ite hs (memoriesOk_fst_ite (memoriesOk_xlate hs)
        (memoriesOk_xlate hs)))
      exact memoriesOk_completePkt (memoriesOk_ite (memoriesOk_setCq h4) (memoriesOk_setSq h4))

/-! ### Plans and triggers -/

theorem memoriesOk_loadParity {p} (hs : s.memoriesOk) : (loadParity s p).1.memoriesOk := by
  unfold loadParity
  refine memoriesOk_fst_ite hs ?_
  split
  · next e1 => exact memoriesOk_fst e1 (memoriesOk_readVa hs)
  · next e1 =>
    have h1 := memoriesOk_fst e1 (memoriesOk_readVa hs)
    split
    · next e2 => exact memoriesOk_fst e2 (memoriesOk_readVa h1)
    · next e2 => exact memoriesOk_fst e2 (memoriesOk_readVa h1)

theorem memoriesOk_planLoad {pid q} (hs : s.memoriesOk) : (planLoad s pid q).memoriesOk := by
  dsimp only [planLoad]
  split
  · next e0 => exact memoriesOk_completePkt (memoriesOk_fst e0 (memoriesOk_readVa hs))
  · next e0 =>
    have h0 := memoriesOk_fst e0 (memoriesOk_readVa hs)
    split
    · next e1 => exact memoriesOk_completePkt (memoriesOk_fst e1 (memoriesOk_readVa h0))
    · next e1 =>
      have h1 := memoriesOk_fst e1 (memoriesOk_readVa h0)
      split
      · exact memoriesOk_completePkt h1
      · split
        · next e3 => exact memoriesOk_completePkt (memoriesOk_fst e3 (memoriesOk_loadParity h1))
        · next e3 =>
          have h3 := memoriesOk_fst e3 (memoriesOk_loadParity h1)
          split
          · exact memoriesOk_completePkt h3
          · exact memoriesOk_completePkt (memoriesOk_modCe h3)

theorem memoriesOk_onPlan {pid q} {go : State → Plan → State} (hs : s.memoriesOk)
    (hf : ∀ t p, t.memoriesOk → (go t p).memoriesOk) : (onPlan s pid q go).memoriesOk := by
  unfold onPlan
  split
  · exact memoriesOk_completePkt hs
  · exact memoriesOk_ite (memoriesOk_completePkt hs) (hf _ _ hs)

theorem memoriesOk_ceXfer {pid q} (hs : s.memoriesOk) : (ceXfer s pid q).memoriesOk := by
  dsimp only [ceXfer]
  split
  · next e0 =>
    exact memoriesOk_completePkt (memoriesOk_setFlt (memoriesOk_fst e0 (memoriesOk_xlate hs)))
  · next e0 =>
    have h0 := memoriesOk_fst e0 (memoriesOk_xlate hs)
    split
    · next e1 =>
      exact memoriesOk_completePkt (memoriesOk_setFlt (memoriesOk_fst e1 (memoriesOk_readCheck h0)))
    · next e1 => exact memoriesOk_issueXfer (memoriesOk_fst e1 (memoriesOk_readCheck h0))

/-! ### Evohild -/

theorem memoriesOk_evDecode {pid q} (hs : s.memoriesOk) : (evDecode s pid q).memoriesOk := by
  unfold evDecode
  split
  · next e0 => exact memoriesOk_completePkt (memoriesOk_fst e0 (memoriesOk_readVa hs))
  · next e0 =>
    have h0 := memoriesOk_fst e0 (memoriesOk_readVa hs)
    split
    · next e1 =>
      exact memoriesOk_completePkt (memoriesOk_fst e1 (memoriesOk_fst_ite (memoriesOk_readVa h0) h0))
    · next e1 =>
      have h1 := memoriesOk_fst e1 (memoriesOk_fst_ite (memoriesOk_readVa h0) h0)
      dsimp only
      split
      · next e2 => exact memoriesOk_completePkt (memoriesOk_fst e2 (memoriesOk_xlate h1))
      · next e2 =>
        have h2 := memoriesOk_fst e2 (memoriesOk_xlate h1)
        split
        · exact memoriesOk_completePkt h2
        · exact h2

theorem memoriesOk_endDecode {x code detail} (hs : s.memoriesOk) : (endDecode s x code detail).memoriesOk :=
  memoriesOk_completePkt hs

theorem memoriesOk_runDecode {x} (hs : s.memoriesOk) : (runDecode s x).memoriesOk := by
  unfold runDecode
  split
  · next e0 =>
    exact memoriesOk_endDecode (memoriesOk_scrambleAll (memoriesOk_fst e0 (memoriesOk_readCheck hs)))
  · next e0 =>
    have h0 := memoriesOk_fst e0 (memoriesOk_readCheck hs)
    split
    · next e1 =>
      exact memoriesOk_endDecode (memoriesOk_scrambleAll (memoriesOk_fst e1 (memoriesOk_writeStop h0)))
    · next e1 =>
      have h1 := memoriesOk_fst e1 (memoriesOk_writeStop h0)
      split
      · exact memoriesOk_endDecode h1
      · exact memoriesOk_endDecode h1

theorem memoriesOk_execEvDecodeComplete (hs : s.memoriesOk) : (execEvDecodeComplete s).memoriesOk := by
  unfold execEvDecodeComplete
  split
  · exact memoriesOk_runDecode hs
  · exact hs

theorem memoriesOk_evCheck {pid q} (hs : s.memoriesOk) : (evCheck s pid q).memoriesOk := by
  dsimp only [evCheck]
  split
  · next e0 => exact memoriesOk_completePkt (memoriesOk_fst e0 (memoriesOk_xlate hs))
  · next e0 =>
    have h0 := memoriesOk_fst e0 (memoriesOk_xlate hs)
    split
    · next e1 => exact memoriesOk_completePkt (memoriesOk_fst e1 (memoriesOk_readCheck h0))
    · next e1 =>
      have h1 := memoriesOk_fst e1 (memoriesOk_readCheck h0)
      refine memoriesOk_ite (memoriesOk_completePkt h1) (memoriesOk_ite (memoriesOk_completePkt h1) ?_)
      split
      · exact memoriesOk_completePkt h1
      · exact memoriesOk_completePkt h1

end Sys2Proof.Machine
end

section
/-! SUPPORT. The canonical form of the memories under the stacks, the stream engine, launches, ingest and
sample streams. -/

namespace Sys2Proof.Machine

variable {s : State}

/-! ### Requests to a stack -/

theorem memoriesOk_runReq {k r} (hs : s.memoriesOk) : (runReq s k r).memoriesOk := by
  unfold runReq
  split
  · split
    · next e1 => exact memoriesOk_modStack (memoriesOk_fst e1 (memoriesOk_readSector hs))
    · next e1 => exact memoriesOk_modStack (memoriesOk_fst e1 (memoriesOk_readSector hs))
  · split
    · next e1 =>
      exact memoriesOk_modStack (memoriesOk_poke (memoriesOk_fst e1 (memoriesOk_writeSector hs)))
    · next e1 => exact memoriesOk_modStack (memoriesOk_fst e1 (memoriesOk_writeSector hs))

theorem memoriesOk_serveWaiting {n k} (hs : s.memoriesOk) : (serveWaiting n s k).memoriesOk := by
  induction n generalizing s with
  | zero => exact hs
  | succ n ih =>
    unfold serveWaiting
    refine memoriesOk_ite hs ?_
    split
    · exact hs
    · exact memoriesOk_ite (ih (memoriesOk_setStack hs)) (ih (memoriesOk_runReq (memoriesOk_setStack hs)))

theorem memoriesOk_serveAll {k} (hs : s.memoriesOk) : (serveAll s k).memoriesOk := memoriesOk_serveWaiting hs

theorem memoriesOk_acceptReq {k w} (hs : s.memoriesOk) : (acceptReq s k w).memoriesOk := by
  unfold acceptReq
  refine memoriesOk_ite (memoriesOk_setStack hs) ?_
  exact memoriesOk_ite (memoriesOk_runReq (memoriesOk_setStack hs)) (memoriesOk_serveAll (memoriesOk_setStack hs))

theorem memoriesOk_request {k src r} (hs : s.memoriesOk) : (request s k src r).memoriesOk := by
  unfold request
  refine memoriesOk_ite hs ?_
  split
  · exact memoriesOk_setStack hs
  · exact memoriesOk_ite (memoriesOk_setStack hs) (memoriesOk_acceptReq hs)

theorem memoriesOk_releaseFabric {k} (hs : s.memoriesOk) : (releaseFabric s k).memoriesOk :=
  memoriesOk_foldl (memoriesOk_modStack hs) fun _ _ => memoriesOk_request

theorem memoriesOk_scrub {k} (hs : s.memoriesOk) : (scrub s k).memoriesOk := by
  dsimp only [scrub]
  split
  · next e0 =>
    exact memoriesOk_modStack (memoriesOk_fst e0 (memoriesOk_readSector (memoriesOk_setStack hs)))
  · next e0 =>
    have h0 := memoriesOk_fst e0 (memoriesOk_readSector (memoriesOk_setStack hs))
    exact memoriesOk_ite (memoriesOk_modStack h0) h0

theorem memoriesOk_startClosing {k} (hs : s.memoriesOk) : (startClosing s k).memoriesOk :=
  memoriesOk_abortStack (memoriesOk_record (memoriesOk_modStack hs))

theorem memoriesOk_tempSample {k t} (hs : s.memoriesOk) : (tempSample s k t).memoriesOk := by
  unfold tempSample
  refine memoriesOk_ite (memoriesOk_setStack hs) ?_
  refine memoriesOk_ite (memoriesOk_startClosing (memoriesOk_ite (memoriesOk_setStack hs) (memoriesOk_record
    (memoriesOk_setStack hs)))) ?_
  exact memoriesOk_ite (memoriesOk_setStack hs) (memoriesOk_record (memoriesOk_setStack hs))

theorem memoriesOk_tempMiss {k} (hs : s.memoriesOk) : (tempMiss s k).memoriesOk :=
  memoriesOk_ite (memoriesOk_record (memoriesOk_modStack (memoriesOk_setStack hs))) (memoriesOk_setStack hs)

theorem memoriesOk_execHbmTempReadout {k reading} (hs : s.memoriesOk) :
    (execHbmTempReadout k reading s).memoriesOk := by
  unfold execHbmTempReadout
  refine memoriesOk_ite hs ?_
  split
  · exact memoriesOk_tempSample hs
  · exact memoriesOk_tempMiss hs

theorem memoriesOk_hctlOpen {k} (hs : s.memoriesOk) : (hctlOpen s k).memoriesOk := by
  dsimp only [hctlOpen]
  split
  · exact memoriesOk_ite (memoriesOk_startClosing (memoriesOk_setStack hs)) (memoriesOk_setStack hs)
  · exact memoriesOk_ite (memoriesOk_setStack hs) (memoriesOk_discardWrite hs)
  · exact memoriesOk_discardWrite hs

theorem memoriesOk_hctlClose {k} (hs : s.memoriesOk) : (hctlClose s k).memoriesOk :=
  memoriesOk_ite (memoriesOk_startClosing hs) hs

theorem memoriesOk_hthermWrite {k val} (hs : s.memoriesOk) : (hthermWrite s k val).memoriesOk :=
  memoriesOk_ite hs (memoriesOk_ite (memoriesOk_setStack hs) (memoriesOk_discardWrite hs))

/-! ### Reservations -/

theorem memoriesOk_hbmReserve {pid p} (hs : s.memoriesOk) : (hbmReserve s pid p).memoriesOk := by
  unfold hbmReserve
  refine memoriesOk_ite (memoriesOk_completePkt hs) ?_
  refine memoriesOk_ite (memoriesOk_completePkt hs) (memoriesOk_ite (memoriesOk_completePkt hs) ?_)
  exact memoriesOk_ite (memoriesOk_completePkt hs) (memoriesOk_completePkt (memoriesOk_setStack hs))

theorem memoriesOk_hbmRelease {pid p} (hs : s.memoriesOk) : (hbmRelease s pid p).memoriesOk := by
  unfold hbmRelease
  refine memoriesOk_ite (memoriesOk_completePkt hs) (memoriesOk_ite (memoriesOk_completePkt hs) ?_)
  exact memoriesOk_ite (memoriesOk_completePkt hs) (memoriesOk_completePkt (memoriesOk_setStack hs))

theorem memoriesOk_releaseHbm {ctx k} (hs : s.memoriesOk) : (releaseHbm s ctx k).memoriesOk :=
  memoriesOk_modStack hs

/-! ### The stream engine -/

theorem memoriesOk_seDone {c id t w0 code} (hs : s.memoriesOk) : (seDone s c id t w0 code).memoriesOk := by
  unfold seDone
  refine memoriesOk_ite (memoriesOk_raise (memoriesOk_decideHead (memoriesOk_modCore hs))) ?_
  refine memoriesOk_ite (memoriesOk_post (memoriesOk_decideHead (memoriesOk_modCore hs))) ?_
  exact memoriesOk_decideHead (memoriesOk_modCore hs)

theorem memoriesOk_seStep {c sel} {f : Core → SeCmd → State} (hs : s.memoriesOk) (hf : ∀ k e, (f k e).memoriesOk) :
    (seStep s c sel f).memoriesOk := by
  dsimp only [seStep]
  split
  · exact memoriesOk_ite (hf _ _) hs
  · exact hs

theorem memoriesOk_seTransfer {c load k e} (hs : s.memoriesOk) : (seTransfer s c load k e).memoriesOk := by
  dsimp only [seTransfer]
  split
  · exact memoriesOk_seDone hs
  · refine memoriesOk_ite (memoriesOk_seDone hs) (memoriesOk_ite hs ?_)
    split
    · next e3 => exact memoriesOk_seDone (memoriesOk_fst e3 (memoriesOk_wsCheck hs))
    · next e3 =>
      have h3 := memoriesOk_fst e3 (memoriesOk_wsCheck hs)
      split
      · exact memoriesOk_seDone h3
      · exact memoriesOk_modCore h3

theorem memoriesOk_execSePost {c} (hs : s.memoriesOk) : (execSePost c s).memoriesOk := by
  unfold execSePost
  refine memoriesOk_seStep hs fun _ _ => ?_
  split
  · exact memoriesOk_seDone hs
  · exact memoriesOk_setCore hs

theorem memoriesOk_execPostComplete {c} (hs : s.memoriesOk) : (execPostComplete c s).memoriesOk := by
  unfold execPostComplete
  split
  · exact memoriesOk_ite (memoriesOk_seDone hs) hs
  · exact hs

theorem memoriesOk_openTransfer {c k e bs} (hs : s.memoriesOk) : (openTransfer s c k e bs).memoriesOk := by
  dsimp only [openTransfer]
  split
  · next e0 => exact memoriesOk_seDone (memoriesOk_modCore (memoriesOk_fst e0 (memoriesOk_xlate hs)))
  · next e0 =>
    have h0 := memoriesOk_fst e0 (memoriesOk_xlate hs)
    exact memoriesOk_modCore (memoriesOk_fst_ite h0 (memoriesOk_readWords h0))

theorem memoriesOk_execTransferOpen {c} (hs : s.memoriesOk) : (execTransferOpen c s).memoriesOk := by
  dsimp only [execTransferOpen]
  split
  · split
    · exact memoriesOk_ite (memoriesOk_openTransfer hs) hs
    · exact hs
  · exact hs

theorem memoriesOk_transferReads {t} (hs : s.memoriesOk) : (transferReads s t).1.memoriesOk :=
  memoriesOk_fst_ite (memoriesOk_readCheck hs) hs

theorem memoriesOk_landing {c t} (hs : s.memoriesOk) : (landing s c t).1.memoriesOk := by
  unfold landing
  split
  · next e0 => exact memoriesOk_fst e0 (memoriesOk_transferReads hs)
  · next e0 => exact memoriesOk_writeStop (memoriesOk_fst e0 (memoriesOk_transferReads hs))

theorem memoriesOk_execTransferLanded {c id} (hs : s.memoriesOk) : (execTransferLanded c id s).memoriesOk := by
  unfold execTransferLanded
  split
  · refine memoriesOk_ite ?_ hs
    split
    · next e2 => exact memoriesOk_tally (memoriesOk_seDone (memoriesOk_fst e2 (memoriesOk_landing hs)))
    · exact hs
  · exact hs

theorem memoriesOk_execTransferError {c id moved} (hs : s.memoriesOk) :
    (execTransferError c id moved s).memoriesOk := by
  unfold execTransferError
  split
  · refine memoriesOk_ite ?_ hs
    split
    · next e2 =>
      exact memoriesOk_seDone (memoriesOk_writeStop (memoriesOk_fst e2 (memoriesOk_transferReads hs)))
    · next e2 =>
      exact memoriesOk_seDone (memoriesOk_writeStop (memoriesOk_fst e2 (memoriesOk_transferReads hs)))
  · exact hs

/-! ### Launches -/

theorem memoriesOk_clearCore {c} (hs : s.memoriesOk) : (clearCore s c).memoriesOk :=
  memoriesOk_mk (wfTable_filter _ hs.mem) hs.hmem0 hs.hmem1

theorem memoriesOk_answerTests {c} (hs : s.memoriesOk) : (s.answerTests c).memoriesOk :=
  memoriesOk_foldl hs fun _ _ ht => ht

theorem memoriesOk_undefinedLoad {c x} (hs : s.memoriesOk) : (undefinedLoad s c x).memoriesOk :=
  memoriesOk_foldl (memoriesOk_modCore hs) fun _ _ => memoriesOk_scramble

theorem memoriesOk_loadProgram {c lr im} (hs : s.memoriesOk) : (loadProgram s c lr im).memoriesOk := by
  dsimp only [loadProgram]
  split
  · next e0 =>
    have h0 := memoriesOk_fst e0 (memoriesOk_xlate (memoriesOk_modCore (memoriesOk_answerTests (memoriesOk_ite hs
      (memoriesOk_clearCore hs)))))
    exact memoriesOk_launchEnded (memoriesOk_undefinedLoad (memoriesOk_modCore h0))
  · next e0 =>
    have h0 := memoriesOk_fst e0 (memoriesOk_xlate (memoriesOk_modCore (memoriesOk_answerTests (memoriesOk_ite hs
      (memoriesOk_clearCore hs)))))
    split
    · next e1 =>
      have h1 := memoriesOk_fst e1 (memoriesOk_readCheck h0)
      exact memoriesOk_launchEnded (memoriesOk_undefinedLoad h1)
    · next e1 =>
      exact memoriesOk_modCore (memoriesOk_writeCheck (memoriesOk_fst e1 (memoriesOk_readCheck h0)))

theorem memoriesOk_checkLaunch {c lr} (hs : s.memoriesOk) : (checkLaunch s c lr).memoriesOk := by
  dsimp only [checkLaunch]
  split
  · next e0 =>
    exact memoriesOk_launchEnded (memoriesOk_fst e0 (memoriesOk_xlate (memoriesOk_modCore hs)))
  · next e0 =>
    have h0 := memoriesOk_fst e0 (memoriesOk_xlate (memoriesOk_modCore hs))
    split
    · next e1 => exact memoriesOk_launchEnded (memoriesOk_fst e1 (memoriesOk_readCheck h0))
    · next e1 =>
      have h1 := memoriesOk_fst e1 (memoriesOk_readCheck h0)
      split
      · exact memoriesOk_launchEnded h1
      · exact memoriesOk_loadProgram h1

theorem memoriesOk_execCoreLaunch {c} (hs : s.memoriesOk) : (execCoreLaunch c s).memoriesOk := by
  dsimp only [execCoreLaunch]
  split
  · exact hs
  · refine memoriesOk_ite hs (memoriesOk_ite (memoriesOk_launchEnded (memoriesOk_setCore hs)) ?_)
    refine memoriesOk_ite (memoriesOk_launchEnded (memoriesOk_setCore hs)) ?_
    refine memoriesOk_ite hs (memoriesOk_ite (memoriesOk_launchEnded (memoriesOk_setCore hs)) ?_)
    exact memoriesOk_ite hs (memoriesOk_checkLaunch (memoriesOk_setCore hs))

/-! ### Batches -/

theorem memoriesOk_readBatch {ctx h reqVas stat} (hs : s.memoriesOk) :
    (readBatch s ctx h reqVas stat).1.memoriesOk := by
  dsimp only [readBatch]
  split
  · next e0 => exact memoriesOk_fst e0 (memoriesOk_xlate hs)
  · next e0 =>
    have h0 := memoriesOk_fst e0 (memoriesOk_xlate hs)
    split
    · next e1 => exact memoriesOk_fst e1 (memoriesOk_readCheck h0)
    · next e1 => exact memoriesOk_fst e1 (memoriesOk_readCheck h0)

theorem memoriesOk_enqueueBatch {pid stid ctx h rc od reqs stat xl} (hs : s.memoriesOk) :
    (enqueueBatch s pid stid ctx h rc od reqs stat xl).memoriesOk :=
  hs

theorem memoriesOk_setBatch {k b} (hs : s.memoriesOk) : (setBatch s k b).memoriesOk := hs

theorem memoriesOk_setStEntry {n e} (hs : s.memoriesOk) : (s.setStEntry n e).memoriesOk := hs

theorem memoriesOk_reportBatch {b status detail} (hs : s.memoriesOk) :
    (reportBatch s b status detail).memoriesOk := by
  dsimp only [reportBatch]
  split
  · refine memoriesOk_setStEntry ?_
    split
    · exact memoriesOk_completePkt hs
    · exact hs
  · split
    · exact memoriesOk_completePkt hs
    · exact hs

theorem memoriesOk_batchPost {h} (hs : s.memoriesOk) : (batchPost s h).memoriesOk :=
  memoriesOk_ite (memoriesOk_post hs) hs

theorem memoriesOk_removeBatch {k b} (hs : s.memoriesOk) : (removeBatch s k b).memoriesOk :=
  memoriesOk_with (memoriesOk_ite (memoriesOk_releaseBatchUnits hs) (memoriesOk_ite
    (memoriesOk_withdrawRequest hs) hs))

theorem memoriesOk_scrambleVa {ctx vas} (hs : s.memoriesOk) : (scrambleVa s ctx vas).memoriesOk := by
  unfold scrambleVa
  split
  · next e0 => exact memoriesOk_scrambleAll (memoriesOk_fst e0 (memoriesOk_xlate hs))
  · next e0 => exact memoriesOk_fst e0 (memoriesOk_xlate hs)

theorem memoriesOk_scrambleBatch {b} (hs : s.memoriesOk) : (scrambleBatch s b).memoriesOk :=
  memoriesOk_scrambleAll (memoriesOk_foldl hs (fun _ _ => memoriesOk_scrambleVa))

theorem memoriesOk_abortBatch {k b status} (hs : s.memoriesOk) : (abortBatch s k b status).memoriesOk :=
  memoriesOk_reportBatch (memoriesOk_ite (memoriesOk_removeBatch hs) (memoriesOk_scrambleBatch
    (memoriesOk_removeBatch hs)))

theorem memoriesOk_abortBatches {status f} (hs : s.memoriesOk) : (abortBatches s status f).memoriesOk := by
  unfold abortBatches
  refine memoriesOk_foldl hs fun _ _ ht => ?_
  split
  · exact memoriesOk_abortBatch ht
  · exact ht

/-! ### Segments -/

theorem memoriesOk_ingestBatch {old : State} {pid p} (hs : s.memoriesOk) (ho : old.memoriesOk) :
    (ingestBatch old s pid p).memoriesOk := by
  dsimp only [ingestBatch]
  split
  · next e1 => exact memoriesOk_completePkt (memoriesOk_fst e1 (memoriesOk_readVa hs))
  · next e1 =>
    split
    · next e2 =>
      exact memoriesOk_completePkt (memoriesOk_fst e2 (memoriesOk_readBatch (memoriesOk_fst e1 (memoriesOk_readVa hs))))
    · next e2 =>
      have h2 := memoriesOk_fst e2 (memoriesOk_readBatch (memoriesOk_fst e1 (memoriesOk_readVa hs)))
      split
      · exact memoriesOk_ite (memoriesOk_batchPost (memoriesOk_completePkt h2)) (memoriesOk_completePkt h2)
      · exact memoriesOk_ite ho (memoriesOk_enqueueBatch h2)

theorem memoriesOk_execBatchStart {k} (hs : s.memoriesOk) : (execBatchStart k s).memoriesOk := by
  unfold execBatchStart
  split
  · exact hs
  · refine memoriesOk_ite hs ?_
    refine memoriesOk_ite (memoriesOk_batchPost (memoriesOk_reportBatch (memoriesOk_removeBatch hs))) ?_
    exact memoriesOk_sendRequest (memoriesOk_setBatch hs)

theorem memoriesOk_execSegmentStart {k d} (hs : s.memoriesOk) : (execSegmentStart k d s).memoriesOk := by
  unfold execSegmentStart
  split
  · exact hs
  · exact memoriesOk_ite (memoriesOk_with (memoriesOk_setBatch hs)) hs

theorem memoriesOk_readSource {ctx r} (hs : s.memoriesOk) : (readSource s ctx r).1.memoriesOk := by
  dsimp only [readSource]
  split
  · next e0 => exact memoriesOk_fst e0 (memoriesOk_xlate hs)
  · next e0 =>
    have h0 := memoriesOk_fst e0 (memoriesOk_xlate hs)
    split
    · next e1 => exact memoriesOk_fst e1 (memoriesOk_fst_ite (memoriesOk_hostXlate h0) h0)
    · next e1 => exact memoriesOk_fst e1 (memoriesOk_fst_ite (memoriesOk_hostXlate h0) h0)
    · next e1 =>
      have h1 := memoriesOk_fst e1 (memoriesOk_fst_ite (memoriesOk_hostXlate h0) h0)
      split
      · next e2 => exact memoriesOk_fst e2 (memoriesOk_readCheck h1)
      · next e2 =>
        have h2 := memoriesOk_fst e2 (memoriesOk_readCheck h1)
        refine memoriesOk_fst_ite h2 ?_
        split
        · exact h2
        · exact h2

theorem memoriesOk_writeSlot {b r fill e} (hs : s.memoriesOk) : (writeSlot s b r fill e).1.memoriesOk := by
  dsimp only [writeSlot]
  split
  · next e0 => exact memoriesOk_fst e0 (memoriesOk_xlate hs)
  · next e0 =>
    have h0 := memoriesOk_fst e0 (memoriesOk_xlate hs)
    split
    · exact h0
    · split
      · next e2 => exact memoriesOk_fst e2 (memoriesOk_writeStop h0)
      · next e2 =>
        have h2 := memoriesOk_fst e2 (memoriesOk_writeStop h0)
        exact memoriesOk_ite h2 (memoriesOk_writeCheck h2)

theorem memoriesOk_dpbCheck {d} (hs : s.memoriesOk) : (dpbCheck s d).1.memoriesOk := by
  unfold dpbCheck
  refine memoriesOk_fst_ite hs ?_
  split
  · next e1 => exact memoriesOk_fst e1 (memoriesOk_readCheck hs)
  · next e1 => exact memoriesOk_modStack (memoriesOk_fst e1 (memoriesOk_readCheck hs))

theorem memoriesOk_runSegment {b r d pl} (hs : s.memoriesOk) : (runSegment s b r d pl).1.memoriesOk := by
  unfold runSegment
  exact memoriesOk_writeSlot (memoriesOk_dpbCheck hs)

theorem memoriesOk_faultSegment {b r m code va} (hs : s.memoriesOk) :
    (faultSegment s b r m code va).1.memoriesOk := by
  unfold faultSegment
  exact memoriesOk_writeSlot hs

theorem memoriesOk_noteIflt {k e} (hs : s.memoriesOk) : (noteIflt s k e).memoriesOk := memoriesOk_ite hs hs

theorem memoriesOk_endSegment {k b g d r e} (hs : s.memoriesOk) : (endSegment s k b g d r e).memoriesOk := by
  unfold endSegment
  refine memoriesOk_with ?_
  refine memoriesOk_ite (memoriesOk_tally (memoriesOk_setBatch (memoriesOk_noteIflt (memoriesOk_writeStop hs)))) ?_
  exact memoriesOk_tally (memoriesOk_tally (memoriesOk_setBatch (memoriesOk_noteIflt (memoriesOk_writeStop hs))))

theorem memoriesOk_completeSegment {k b g d} (hs : s.memoriesOk) : (completeSegment s k b g d).memoriesOk := by
  unfold completeSegment
  refine memoriesOk_ite (memoriesOk_endSegment hs) ?_
  split
  · next e1 => exact memoriesOk_fst e1 (memoriesOk_readSource hs)
  · next e1 =>
    have h1 := memoriesOk_fst e1 (memoriesOk_readSource hs)
    exact memoriesOk_endSegment (memoriesOk_faultSegment h1)
  · next e1 =>
    have h1 := memoriesOk_fst e1 (memoriesOk_readSource hs)
    refine memoriesOk_endSegment ?_
    split
    · exact memoriesOk_faultSegment (memoriesOk_readCheck h1)
    · exact memoriesOk_runSegment (memoriesOk_readCheck h1)

theorem memoriesOk_execSegmentComplete {d} (hs : s.memoriesOk) : (execSegmentComplete d s).memoriesOk := by
  unfold execSegmentComplete
  split
  · exact hs
  · split
    · exact memoriesOk_ite hs (memoriesOk_completeSegment hs)
    · exact hs

theorem memoriesOk_execBatchComplete {b} (hs : s.memoriesOk) : (execBatchComplete b s).memoriesOk := by
  unfold execBatchComplete
  split
  · exact memoriesOk_ite (memoriesOk_batchPost (memoriesOk_reportBatch (memoriesOk_removeBatch hs))) hs
  · exact hs

theorem memoriesOk_ingestAbort {pid p} (hs : s.memoriesOk) : (ingestAbort s pid p).memoriesOk := by
  unfold ingestAbort
  refine memoriesOk_ite (memoriesOk_completePkt hs) (memoriesOk_completePkt ?_)
  split
  · exact memoriesOk_abortBatches hs
  · exact hs

/-! ### Sample streams -/

theorem memoriesOk_fetchEntry {n} (hs : s.memoriesOk) : (fetchEntry s n).memoriesOk := by
  unfold fetchEntry
  refine memoriesOk_ite hs ?_
  split
  · next e1 => exact memoriesOk_fst e1 (memoriesOk_readCheck hs)
  · next e1 => exact memoriesOk_setStEntry (memoriesOk_fst e1 (memoriesOk_readCheck hs))

/-- Stated of the function: the kernel does not compare the two sides once they are applied. -/
theorem storeEntry_eq :
    storeEntry = fun s n e => (writeCheck (s.setStEntry n e) (pairs (entryPa s n) e.image)).1 := rfl

theorem memoriesOk_storeEntry {n e} (hs : s.memoriesOk) : (storeEntry s n e).memoriesOk := by
  rw [storeEntry_eq]
  exact memoriesOk_writeCheck (memoriesOk_setStEntry hs)

theorem memoriesOk_sttFail {n c} (hs : s.memoriesOk) : (sttFail s n c).memoriesOk := memoriesOk_setStEntry hs

theorem memoriesOk_sttIssue {stid e t p n} (hs : s.memoriesOk) : (sttIssue s stid e t p n).memoriesOk := by
  dsimp only [sttIssue]
  split
  · next e0 => exact memoriesOk_sttFail (memoriesOk_fst e0 (memoriesOk_readBatch hs))
  · next e0 =>
    have h0 := memoriesOk_fst e0 (memoriesOk_readBatch hs)
    split
    · exact memoriesOk_ite (memoriesOk_batchPost (memoriesOk_setStEntry h0)) (memoriesOk_sttFail h0)
    · refine memoriesOk_ite h0 ?_
      split
      · next e3 => exact memoriesOk_sttFail (memoriesOk_fst e3 (memoriesOk_xlate h0))
      · next e3 =>
        have h3 := memoriesOk_fst e3 (memoriesOk_xlate h0)
        split
        · next e4 => exact memoriesOk_sttFail (memoriesOk_fst e4 (memoriesOk_writeStop h3))
        · next e4 =>
          have h4 := memoriesOk_fst e4 (memoriesOk_writeStop h3)
          exact memoriesOk_setStEntry (memoriesOk_enqueueBatch h4)

theorem memoriesOk_sttServe {stid e} (hs : s.memoriesOk) : (sttServe s stid e).memoriesOk := by
  unfold sttServe
  refine memoriesOk_ite (memoriesOk_setStEntry hs) (memoriesOk_ite hs ?_)
  split
  · next e2 => exact memoriesOk_sttFail (memoriesOk_fst e2 (memoriesOk_readVa hs))
  · next e2 =>
    have h2 := memoriesOk_fst e2 (memoriesOk_readVa hs)
    refine memoriesOk_ite (memoriesOk_sttFail h2) (memoriesOk_ite h2 ?_)
    split
    · next e5 => exact memoriesOk_sttFail (memoriesOk_fst e5 (memoriesOk_readVa h2))
    · next e5 =>
      have h5 := memoriesOk_fst e5 (memoriesOk_readVa h2)
      exact memoriesOk_ite (memoriesOk_sttIssue h5) h5

theorem memoriesOk_execSttServe (hs : s.memoriesOk) : (execSttServe s).memoriesOk := by
  unfold execSttServe
  split
  · exact hs
  · exact memoriesOk_ite (memoriesOk_sttServe (memoriesOk_fetchEntry hs)) (memoriesOk_fetchEntry hs)

theorem memoriesOk_stCommand {allowed} {run : State → Nat → Pkt → Nat → StEntry → State} {pid p} (hs : s.memoriesOk)
    (hf : ∀ t n p m e, t.memoriesOk → (run t n p m e).memoriesOk) : (stCommand allowed run s pid p).memoriesOk := by
  unfold stCommand
  refine memoriesOk_ite (memoriesOk_completePkt hs) (memoriesOk_ite (memoriesOk_completePkt hs) ?_)
  exact memoriesOk_ite (memoriesOk_completePkt (memoriesOk_fetchEntry hs)) (hf _ _ _ _ _ (memoriesOk_fetchEntry hs))

theorem memoriesOk_stOpen {pid p} (hs : s.memoriesOk) : (stOpen s pid p).memoriesOk := by
  unfold stOpen
  refine memoriesOk_ite (memoriesOk_completePkt hs) ?_
  split
  · next e1 => exact memoriesOk_completePkt (memoriesOk_fst e1 (memoriesOk_readVa hs))
  · next e1 =>
    have h1 := memoriesOk_fst e1 (memoriesOk_readVa hs)
    refine memoriesOk_ite (memoriesOk_completePkt h1) (memoriesOk_ite (memoriesOk_completePkt h1) ?_)
    split
    · exact memoriesOk_completePkt h1
    · exact memoriesOk_completePkt (memoriesOk_storeEntry h1)

theorem memoriesOk_stStart {pid p n e} (hs : s.memoriesOk) : (stStart s pid p n e).memoriesOk := by
  unfold stStart
  split
  · next e0 =>
    exact memoriesOk_completePkt (memoriesOk_sttFail (memoriesOk_fst e0 (memoriesOk_readVa hs)))
  · next e0 =>
    have h0 := memoriesOk_fst e0 (memoriesOk_readVa hs)
    refine memoriesOk_ite (memoriesOk_completePkt h0) ?_
    dsimp only
    split
    · next e2 => exact memoriesOk_completePkt (memoriesOk_fst e2 (memoriesOk_readBatch h0))
    · next e2 =>
      have h2 := memoriesOk_fst e2 (memoriesOk_readBatch h0)
      split
      · exact memoriesOk_ite (memoriesOk_batchPost (memoriesOk_completePkt h2)) (memoriesOk_completePkt h2)
      · exact memoriesOk_completePkt (memoriesOk_setStEntry h2)

theorem memoriesOk_drained {n e} (hs : s.memoriesOk) : (drained s n e).memoriesOk :=
  memoriesOk_ite (memoriesOk_foldl (memoriesOk_setStEntry hs) (fun _ _ => memoriesOk_completePkt)) hs

theorem memoriesOk_stStop {pid u2 n e} (hs : s.memoriesOk) : (stStop s pid u2 n e).memoriesOk :=
  memoriesOk_setStEntry hs

theorem memoriesOk_stSave {pid p u3 e} (hs : s.memoriesOk) : (stSave s pid p u3 e).memoriesOk := by
  unfold stSave
  split
  · next e0 => exact memoriesOk_completePkt (memoriesOk_fst e0 (memoriesOk_writeSpace hs))
  · next e01 => exact memoriesOk_completePkt (memoriesOk_fst e01 (memoriesOk_writeSpace hs))

theorem memoriesOk_stRestore {pid p n e} (hs : s.memoriesOk) : (stRestore s pid p n e).memoriesOk := by
  unfold stRestore
  split
  · next e0 => exact memoriesOk_completePkt (memoriesOk_fst e0 (memoriesOk_readVa hs))
  · next e0 =>
    have h0 := memoriesOk_fst e0 (memoriesOk_readVa hs)
    refine memoriesOk_ite (memoriesOk_completePkt h0) ?_
    refine memoriesOk_ite (memoriesOk_completePkt (memoriesOk_storeEntry h0)) ?_
    exact memoriesOk_completePkt (memoriesOk_storeEntry h0)

theorem memoriesOk_stResync {pid u2 n e} (hs : s.memoriesOk) : (stResync s pid u2 n e).memoriesOk :=
  memoriesOk_completePkt (memoriesOk_setStEntry hs)

theorem memoriesOk_closeStream {n} (hs : s.memoriesOk) : (closeStream s n).memoriesOk :=
  memoriesOk_with (memoriesOk_storeEntry hs)

theorem memoriesOk_stClose {pid u2 n u4} (hs : s.memoriesOk) : (stClose s pid u2 n u4).memoriesOk :=
  memoriesOk_completePkt (memoriesOk_closeStream hs)

theorem memoriesOk_reclaimStreams {ctx status} (hs : s.memoriesOk) : (reclaimStreams s ctx status).1.memoriesOk :=
  memoriesOk_foldl hs (fun _ _ ht => memoriesOk_closeStream (memoriesOk_foldl (memoriesOk_abortBatches ht)
    (fun _ _ => memoriesOk_completePkt)))

/-! ### The special-function unit -/

theorem memoriesOk_vecSfu {c t op mm refined} (hs : s.memoriesOk) : (vecSfu s c t op mm refined).memoriesOk :=
  memoriesOk_vecStep hs fun _ _ ht => ht

theorem memoriesOk_execVsfsel {c t} (hs : s.memoriesOk) : (execVsfsel c t s).memoriesOk :=
  memoriesOk_vecStep hs fun _ _ ht => ht

theorem memoriesOk_execVsfld {c t} (hs : s.memoriesOk) : (execVsfld c t s).memoriesOk := by
  unfold execVsfld
  refine memoriesOk_vecStep hs ?_
  refine fun _ _ ht => memoriesOk_fst_ite ht (memoriesOk_fst_ite ht (memoriesOk_fst_ite ht ?_))
  split
  · next e5 => exact memoriesOk_fst e5 (memoriesOk_wsCheck ht)
  · next e5 =>
    have h5 := memoriesOk_fst e5 (memoriesOk_wsCheck ht)
    exact memoriesOk_fst_ite h5 h5

theorem memoriesOk_execSfuSlotWrite {c e} (hs : s.memoriesOk) : (execSfuSlotWrite c e s).memoriesOk := by
  unfold execSfuSlotWrite
  refine memoriesOk_ite hs ?_
  split
  · exact hs
  · dsimp only
    split
    · exact memoriesOk_modCore (memoriesOk_setCore hs)
    · exact memoriesOk_completePkt (memoriesOk_setCore hs)

theorem memoriesOk_execSfuTableScrub {c e bank slot word} (hs : s.memoriesOk) :
    (execSfuTableScrub c e bank slot word s).memoriesOk := by
  unfold execSfuTableScrub
  refine memoriesOk_ite hs (memoriesOk_ite (memoriesOk_record (memoriesOk_freeNat hs)) ?_)
  exact memoriesOk_ite (memoriesOk_recordCorrected (memoriesOk_modCore (memoriesOk_freeNat hs))) hs

/-! ### SF_LOAD -/

theorem memoriesOk_sfLoad {pid p} (hs : s.memoriesOk) : (sfLoad s pid p).memoriesOk := by
  unfold sfLoad
  refine memoriesOk_ite (memoriesOk_completePkt hs) (memoriesOk_ite (memoriesOk_completePkt hs) ?_)
  refine memoriesOk_ite (memoriesOk_completePkt (memoriesOk_modCore hs)) ?_
  split
  · next e3 =>
    exact memoriesOk_completePkt (memoriesOk_modCore (memoriesOk_fst e3 (memoriesOk_readVa hs)))
  · next e3 =>
    have h3 := memoriesOk_fst e3 (memoriesOk_readVa hs)
    refine memoriesOk_ite (memoriesOk_completePkt (memoriesOk_modCore h3)) ?_
    exact memoriesOk_ite (memoriesOk_modCore h3) (memoriesOk_completePkt (memoriesOk_modCore h3))

end Sys2Proof.Machine
end

section
/-! SUPPORT. The canonical form of the memories under teardown, contexts, ports, reset and boot, and the
check-value units. -/

namespace Sys2Proof.Machine

variable {s : State}

/-! ### Tally holders -/

theorem memoriesOk_setTly {t} (hs : s.memoriesOk) : (s.setTly t).memoriesOk := hs

theorem memoriesOk_flow (hs : s.memoriesOk) : (flow s).memoriesOk :=
  memoriesOk_foldl hs fun _ _ ht => memoriesOk_setTly (memoriesOk_freeNat ht)

theorem memoriesOk_giveDump {h} (hs : s.memoriesOk) : (giveDump s h).memoriesOk := by
  unfold giveDump
  refine memoriesOk_setTly ?_
  split
  · exact memoriesOk_scramble hs
  · exact hs

theorem memoriesOk_giveItems {gs bw dump f h} (hs : s.memoriesOk) : (giveItems s gs bw dump f h).1.memoriesOk := by
  unfold giveItems
  refine memoriesOk_ite (memoriesOk_giveDump (memoriesOk_ite (memoriesOk_setTly (memoriesOk_setTly hs))
    (memoriesOk_setTly hs))) ?_
  exact memoriesOk_ite (memoriesOk_setTly (memoriesOk_setTly hs)) (memoriesOk_setTly hs)

theorem memoriesOk_dropTly {n} (hs : s.memoriesOk) : (dropTly s n).memoriesOk :=
  memoriesOk_setTly (memoriesOk_giveItems hs)

/-! ### Ending work from outside -/

theorem memoriesOk_endOnCore {c status f} (hs : s.memoriesOk) : (endOnCore s c status f).1.memoriesOk := by
  dsimp only [endOnCore]
  split
  · refine memoriesOk_fst_ite (memoriesOk_outsideEnd (memoriesOk_foldl (memoriesOk_modCore hs)
      (fun _ _ => memoriesOk_launchEnded))) ?_
    exact memoriesOk_foldl (memoriesOk_modCore hs) fun _ _ => memoriesOk_launchEnded
  · exact memoriesOk_foldl (memoriesOk_modCore hs) fun _ _ => memoriesOk_launchEnded

theorem memoriesOk_endOnCores {cs status f} (hs : s.memoriesOk) : (endOnCores s cs status f).1.memoriesOk :=
  memoriesOk_foldl_fst hs fun _ _ ht => memoriesOk_endOnCore ht

theorem memoriesOk_endXfers {status f} (hs : s.memoriesOk) : (endXfers s status f).1.memoriesOk :=
  memoriesOk_foldl (memoriesOk_foldl hs (fun _ _ => memoriesOk_xferDone)) fun _ _ => memoriesOk_xferDone

theorem memoriesOk_endDecodes {status f} (hs : s.memoriesOk) : (endDecodes s status f).memoriesOk :=
  memoriesOk_foldl (memoriesOk_foldl hs (fun _ _ ht => memoriesOk_with
    (memoriesOk_scrambleAll ht))) fun _ _ => memoriesOk_completePkt

theorem memoriesOk_dropLoads {pid} (hs : s.memoriesOk) : (dropLoads s pid).memoriesOk := hs

theorem memoriesOk_dropWaits {pid} (hs : s.memoriesOk) : (dropWaits s pid).memoriesOk := hs

theorem memoriesOk_endPkt {pid status} (hs : s.memoriesOk) : (endPkt s pid status).memoriesOk := by
  unfold endPkt
  split
  · exact hs
  · split
    · exact hs
    · exact memoriesOk_completePkt hs
    · exact memoriesOk_completePkt (memoriesOk_dmaPart hs)
    · exact memoriesOk_endOnCores hs
    · exact memoriesOk_completePkt (memoriesOk_dropWaits (memoriesOk_dropLoads (memoriesOk_endDecodes
        (memoriesOk_endXfers (memoriesOk_abortBatches hs)))))

theorem memoriesOk_endPkts {status f} (hs : s.memoriesOk) : (endPkts s status f).memoriesOk := by
  unfold endPkts
  refine memoriesOk_foldl hs fun _ _ ht => ?_
  split
  · exact memoriesOk_ite (memoriesOk_endPkt ht) ht
  · exact ht

theorem memoriesOk_endInsts {status f} (hs : s.memoriesOk) : (endInsts s status f).1.memoriesOk := by
  refine memoriesOk_foldl_fst hs fun _ _ ht => memoriesOk_foldl_fst ht fun _ _ hq => ?_
  split
  · refine memoriesOk_fst_ite ?_ hq
    dsimp only
    split
    · exact memoriesOk_completeInst (memoriesOk_abortInst hq)
    · exact memoriesOk_abortInst hq
  · exact hq

theorem memoriesOk_dropPlans {ctx} (hs : s.memoriesOk) : (dropPlans s ctx).memoriesOk := hs

theorem memoriesOk_dropQueues {ctx} (hs : s.memoriesOk) : (dropQueues s ctx).memoriesOk := hs

theorem memoriesOk_closeCtx {ctx} (hs : s.memoriesOk) : (closeCtx s ctx).memoriesOk := memoriesOk_modCtx hs

theorem memoriesOk_teardown {ctx} (hs : s.memoriesOk) : (teardown s ctx).1.memoriesOk := by
  unfold teardown
  refine memoriesOk_closeCtx (memoriesOk_dropQueues (memoriesOk_dropTly ?_))
  refine memoriesOk_ite (memoriesOk_cvEndPort (memoriesOk_endPkts (memoriesOk_foldl (memoriesOk_dropPlans
    (memoriesOk_endXfers (memoriesOk_endInsts (memoriesOk_reclaimStreams (memoriesOk_abortBatches
      (memoriesOk_endOnCores (memoriesOk_silence (memoriesOk_modCtx hs))))))))
        (fun _ _ => memoriesOk_releaseHbm)))) ?_
  exact memoriesOk_endPkts (memoriesOk_foldl (memoriesOk_dropPlans (memoriesOk_endXfers (memoriesOk_endInsts
    (memoriesOk_reclaimStreams (memoriesOk_abortBatches (memoriesOk_endOnCores (memoriesOk_silence
      (memoriesOk_modCtx hs)))))))) (fun _ _ => memoriesOk_releaseHbm))

theorem memoriesOk_teardownPort {port} (hs : s.memoriesOk) : (teardownPort s port).memoriesOk :=
  memoriesOk_foldl hs fun _ _ => memoriesOk_teardown

/-! ### Contexts, quotas and the steward -/

theorem memoriesOk_deleteSq {pid q} (hs : s.memoriesOk) : (deleteSq s pid q).memoriesOk :=
  memoriesOk_settleDeletes (memoriesOk_endQwaits (memoriesOk_setSq hs))

theorem memoriesOk_deleteCq {pid ctx q} (hs : s.memoriesOk) : (deleteCq s pid ctx q).memoriesOk :=
  memoriesOk_ite (memoriesOk_completePkt hs) (memoriesOk_settleCq (memoriesOk_setCq hs))

theorem memoriesOk_qDelete {pid p} (hs : s.memoriesOk) : (qDelete s pid p).memoriesOk := by
  unfold qDelete
  refine memoriesOk_ite (memoriesOk_completePkt hs) ?_
  exact memoriesOk_ite (memoriesOk_deleteCq hs) (memoriesOk_ite (memoriesOk_completePkt hs) (memoriesOk_deleteSq hs))

theorem memoriesOk_resetSq {q n} (hs : s.memoriesOk) : (resetSq s q n).memoriesOk :=
  memoriesOk_setSq (memoriesOk_retirePkts (memoriesOk_endQwaits (memoriesOk_endPkts hs)))

theorem memoriesOk_qReset {pid p} (hs : s.memoriesOk) : (qReset s pid p).memoriesOk := by
  unfold qReset
  refine memoriesOk_ite (memoriesOk_completePkt hs) ?_
  exact memoriesOk_ite (memoriesOk_completePkt hs) (memoriesOk_completePkt (memoriesOk_resetSq hs))

theorem memoriesOk_onCtx {pid p} {go : State → Nat → State} (hs : s.memoriesOk)
    (hf : ∀ t n, t.memoriesOk → (go t n).memoriesOk) : (onCtx s pid p go).memoriesOk :=
  memoriesOk_ite (memoriesOk_completePkt hs) (memoriesOk_ite (memoriesOk_completePkt hs) (hf _ _ hs))

theorem memoriesOk_ctxSetroot {pid p} (hs : s.memoriesOk) : (ctxSetroot s pid p).memoriesOk :=
  memoriesOk_onCtx hs fun _ _ ht => memoriesOk_ite (memoriesOk_completePkt (memoriesOk_modCtx ht))
    (memoriesOk_completePkt ht)

theorem memoriesOk_xlateInval {pid p} (hs : s.memoriesOk) : (xlateInval s pid p).memoriesOk := by
  unfold xlateInval
  refine memoriesOk_ite (memoriesOk_completePkt hs) (memoriesOk_ite (memoriesOk_completePkt hs) ?_)
  refine memoriesOk_ite (memoriesOk_completePkt (memoriesOk_modCtx hs)) ?_
  refine memoriesOk_ite (memoriesOk_completePkt hs) ?_
  exact memoriesOk_ite (memoriesOk_completePkt hs) (memoriesOk_completePkt (memoriesOk_modCtx hs))

theorem memoriesOk_ctxTeardown {pid p} (hs : s.memoriesOk) : (ctxTeardown s pid p).memoriesOk :=
  memoriesOk_onCtx hs fun _ _ ht => memoriesOk_ite (memoriesOk_completePkt ht) (memoriesOk_completePkt
    (memoriesOk_teardown ht))

theorem memoriesOk_progAbort {pid p} (hs : s.memoriesOk) : (progAbort s pid p).memoriesOk := by
  unfold progAbort
  refine memoriesOk_ite (memoriesOk_completePkt hs) (memoriesOk_ite (memoriesOk_completePkt hs) ?_)
  exact memoriesOk_ite (memoriesOk_completePkt hs) (memoriesOk_completePkt (memoriesOk_endOnCores hs))

theorem memoriesOk_setQuota {n kind stack lim} (hs : s.memoriesOk) : (setQuota s n kind stack lim).memoriesOk := by
  unfold setQuota
  split
  · exact memoriesOk_modCtx hs
  · exact memoriesOk_modCtx hs
  · exact memoriesOk_modCtx hs
  · exact hs
  · exact memoriesOk_modStack hs
  · exact memoriesOk_decideHead hs

theorem memoriesOk_quotaSet {pid p} (hs : s.memoriesOk) : (quotaSet s pid p).memoriesOk := by
  dsimp only [quotaSet]
  split
  · exact memoriesOk_completePkt hs
  · refine memoriesOk_ite (memoriesOk_completePkt hs) ?_
    exact memoriesOk_ite (memoriesOk_completePkt hs) (memoriesOk_completePkt (memoriesOk_setQuota hs))

theorem memoriesOk_reclaimKind {n stack kind} (hs : s.memoriesOk) : (reclaimKind s n stack kind).1.memoriesOk := by
  unfold reclaimKind
  split
  · exact memoriesOk_endOnCores hs
  · exact memoriesOk_reclaimStreams hs
  · exact memoriesOk_releaseHbm hs
  · exact memoriesOk_abortBatches hs
  · dsimp only
    exact memoriesOk_endXfers (memoriesOk_endInsts hs)

theorem memoriesOk_reclaimKinds {n ks} (hs : s.memoriesOk) : (reclaimKinds s n ks).1.memoriesOk :=
  memoriesOk_foldl_fst hs fun _ _ ht => memoriesOk_reclaimKind ht

theorem memoriesOk_reclaim {pid p} (hs : s.memoriesOk) : (reclaim s pid p).memoriesOk := by
  unfold reclaim
  refine memoriesOk_ite (memoriesOk_completePkt (memoriesOk_reclaimKinds hs)) ?_
  exact memoriesOk_ite (memoriesOk_completePkt (memoriesOk_reclaimKinds hs)) (memoriesOk_completePkt hs)

theorem memoriesOk_ctxCores {pid p} (hs : s.memoriesOk) : (ctxCores s pid p).memoriesOk :=
  memoriesOk_ite (memoriesOk_completePkt hs) (memoriesOk_completePkt (memoriesOk_modCtx hs))

theorem memoriesOk_ctxJob {pid p} (hs : s.memoriesOk) : (ctxJob s pid p).memoriesOk := by
  unfold ctxJob
  exact memoriesOk_onCtx hs fun _ _ ht => memoriesOk_completePkt (memoriesOk_with ht)

theorem memoriesOk_setSteward {port} (hs : s.memoriesOk) : (setSteward s port).memoriesOk := hs

theorem memoriesOk_leaseLeft (hs : s.memoriesOk) : (leaseLeft s).2.memoriesOk := memoriesOk_freeNat hs

theorem memoriesOk_stewardClaim {pid p} (hs : s.memoriesOk) : (stewardClaim s pid p).memoriesOk := by
  unfold stewardClaim
  refine memoriesOk_ite (memoriesOk_completePkt (memoriesOk_setSteward hs)) ?_
  exact memoriesOk_completePkt (memoriesOk_leaseLeft hs)

/-! ### Ports -/

theorem memoriesOk_setBarRsp {r} (hs : s.memoriesOk) : (setBarRsp s r).memoriesOk := hs

theorem memoriesOk_bar2Fault {ctx code va} (hs : s.memoriesOk) : (bar2Fault s ctx code va).memoriesOk :=
  memoriesOk_record (memoriesOk_ctxFault hs)

theorem memoriesOk_execBar2Read {ctx addr len} (hs : s.memoriesOk) : (execBar2Read ctx addr len s).memoriesOk := by
  unfold execBar2Read
  refine memoriesOk_ite hs (memoriesOk_ite (memoriesOk_setBarRsp hs) ?_)
  split
  · next e2 => exact memoriesOk_setBarRsp (memoriesOk_fst e2 (memoriesOk_readSpace hs))
  · next e2 =>
    exact memoriesOk_setBarRsp (memoriesOk_bar2Fault (memoriesOk_fst e2 (memoriesOk_readSpace hs)))
  · next e2 => exact memoriesOk_fst e2 (memoriesOk_readSpace hs)

theorem memoriesOk_execBar2Write {ctx addr bytes} (hs : s.memoriesOk) :
    (execBar2Write ctx addr bytes s).memoriesOk := by
  unfold execBar2Write
  refine memoriesOk_ite hs ?_
  split
  · next e1 => exact memoriesOk_bar2Fault (memoriesOk_fst e1 (memoriesOk_writeSpace hs))
  · next e11 => exact memoriesOk_fst e11 (memoriesOk_writeSpace hs)

theorem memoriesOk_resetFunctions {ns} (hs : s.memoriesOk) : (resetFunctions s ns).memoriesOk :=
  memoriesOk_foldl hs fun _ _ => memoriesOk_modCtx

theorem memoriesOk_resetPort {port} (hs : s.memoriesOk) : (resetPort s port).memoriesOk :=
  memoriesOk_resetFunctions (memoriesOk_teardownPort (memoriesOk_setPort hs))

theorem memoriesOk_execPortLinkDown {port} (hs : s.memoriesOk) : (execPortLinkDown port s).memoriesOk := by
  unfold execPortLinkDown
  refine memoriesOk_ite ?_ hs
  refine memoriesOk_ite (memoriesOk_with (memoriesOk_resetPort (memoriesOk_setPort hs))) ?_
  exact memoriesOk_resetPort (memoriesOk_setPort hs)

theorem memoriesOk_bringUp {cfg ns} (hs : s.memoriesOk) : (bringUp s cfg ns).memoriesOk :=
  memoriesOk_foldl hs fun _ _ => memoriesOk_modCtx

/-! ### Reset and boot -/

theorem memoriesOk_resetTo {pkg straps} (hs : s.memoriesOk) : (resetTo s pkg straps).memoriesOk :=
  ⟨rfl, hs.hmem0, hs.hmem1⟩

theorem wfTable_lppOnly {t} (h : wfTable 0 t = true) : wfTable 0 (lppOnly t) = true := wfTable_filter _ h

theorem memoriesOk_warmReset (hs : s.memoriesOk) : (warmReset s).memoriesOk :=
  memoriesOk_mk (wfTable_lppOnly hs.mem) hs.hmem0 hs.hmem1

theorem memoriesOk_setBoot {b} (hs : s.memoriesOk) : (s.setBoot b).memoriesOk := hs

theorem memoriesOk_halt {code} (hs : s.memoriesOk) : (halt s code).memoriesOk := memoriesOk_setBoot hs

theorem memoriesOk_trainPort {n o} (hs : s.memoriesOk) : (trainPort s n o).memoriesOk := by
  unfold trainPort
  split
  · exact memoriesOk_bringUp (memoriesOk_setPort hs)
  · exact hs

theorem memoriesOk_toRecovery {code} (hs : s.memoriesOk) : (toRecovery s code).memoriesOk := by
  unfold toRecovery
  refine memoriesOk_trainPort (memoriesOk_trainPort ?_)
  exact memoriesOk_mk (wfTable_lppOnly hs.mem) hs.hmem0 hs.hmem1

theorem memoriesOk_romPasses {env} (hs : s.memoriesOk) : (romPasses s env).memoriesOk :=
  memoriesOk_trainPort (memoriesOk_trainPort hs)

theorem memoriesOk_execRomInit {env} (hs : s.memoriesOk) : (execRomInit env s).memoriesOk := by
  unfold execRomInit
  refine memoriesOk_ite hs ?_
  exact memoriesOk_ite (memoriesOk_halt hs) (memoriesOk_ite (memoriesOk_halt hs) (memoriesOk_romPasses hs))

theorem memoriesOk_mbIgnore {port} (hs : s.memoriesOk) : (mbIgnore s port).memoriesOk := memoriesOk_setBoot hs

theorem memoriesOk_mbPush {port} (hs : s.memoriesOk) : (mbPush s port).memoriesOk :=
  memoriesOk_ite (memoriesOk_setBoot hs) (memoriesOk_mbIgnore hs)

theorem memoriesOk_mbReload {port} (hs : s.memoriesOk) : (mbReload s port).memoriesOk :=
  memoriesOk_ite (memoriesOk_ite (memoriesOk_setBoot hs) (memoriesOk_setBoot hs)) (memoriesOk_mbIgnore hs)

theorem memoriesOk_mbAbort {port} (hs : s.memoriesOk) : (mbAbort s port).memoriesOk :=
  memoriesOk_ite (memoriesOk_toRecovery hs) (memoriesOk_mbIgnore hs)

theorem memoriesOk_mbCommand {port op} (hs : s.memoriesOk) : (mbCommand s port op).memoriesOk := by
  unfold mbCommand
  refine memoriesOk_ite (memoriesOk_mbPush hs) ?_
  exact memoriesOk_ite (memoriesOk_mbReload hs) (memoriesOk_ite (memoriesOk_mbAbort hs) (memoriesOk_mbIgnore hs))

theorem memoriesOk_loadBytes {n} (hs : s.memoriesOk) : (loadBytes s n).memoriesOk :=
  memoriesOk_poke (memoriesOk_touchLpp hs)

theorem memoriesOk_loadPart (hs : s.memoriesOk) : (loadPart s).memoriesOk :=
  memoriesOk_loadBytes (memoriesOk_freeNat hs)

theorem memoriesOk_execImageLoadComplete {env} (hs : s.memoriesOk) : (execImageLoadComplete env s).memoriesOk := by
  unfold execImageLoadComplete
  refine memoriesOk_ite hs ?_
  split
  · exact memoriesOk_setBoot (memoriesOk_loadBytes hs)
  · exact memoriesOk_toRecovery (memoriesOk_loadPart hs)
  · exact memoriesOk_toRecovery (memoriesOk_lppFail (memoriesOk_loadPart hs))

theorem memoriesOk_verifyImage (hs : s.memoriesOk) : (verifyImage s).memoriesOk := by
  unfold verifyImage
  refine memoriesOk_ite (memoriesOk_toRecovery (memoriesOk_setBoot hs)) ?_
  split
  · exact memoriesOk_toRecovery (memoriesOk_setBoot hs)
  · exact memoriesOk_with (memoriesOk_setBoot hs)

theorem memoriesOk_execImageVerifyComplete {lppError} (hs : s.memoriesOk) :
    (execImageVerifyComplete lppError s).memoriesOk := by
  unfold execImageVerifyComplete
  refine memoriesOk_ite hs ?_
  exact memoriesOk_ite (memoriesOk_toRecovery (memoriesOk_lppFail hs)) (memoriesOk_verifyImage
    (memoriesOk_touchLpp hs))

theorem memoriesOk_execFirmwareReady (hs : s.memoriesOk) : (execFirmwareReady s).memoriesOk := by
  unfold execFirmwareReady
  refine memoriesOk_ite hs ?_
  refine memoriesOk_ite (memoriesOk_setSteward (memoriesOk_with (memoriesOk_setBoot hs))) ?_
  refine memoriesOk_ite (memoriesOk_setSteward (memoriesOk_with (memoriesOk_setBoot hs))) ?_
  exact memoriesOk_with (memoriesOk_setBoot hs)

/-! ### CECMD writes -/

theorem memoriesOk_ceWriteStep {c sel} {f : State → CeWrite → Nat → State} (hs : s.memoriesOk)
    (hf : ∀ t w n, t.memoriesOk → (f t w n).memoriesOk) : (ceWriteStep s c sel f).memoriesOk := by
  unfold ceWriteStep
  split
  · exact memoriesOk_ite (hf _ _ _ (memoriesOk_modCore hs)) hs
  · exact hs

theorem memoriesOk_execCecmdTrigger {c} (hs : s.memoriesOk) : (execCecmdTrigger c s).memoriesOk := by
  unfold execCecmdTrigger
  refine memoriesOk_ceWriteStep hs fun _ _ _ ht => ?_
  dsimp only
  split
  · exact memoriesOk_refuseCe ht
  · exact memoriesOk_ite (memoriesOk_refuseCe ht) (memoriesOk_trigger ht)

theorem memoriesOk_execCecmdXfer {c} (hs : s.memoriesOk) : (execCecmdXfer c s).memoriesOk := by
  unfold execCecmdXfer
  split
  · refine memoriesOk_ite hs (memoriesOk_ceWriteStep hs (fun _ _ _ ht => ?_))
    refine memoriesOk_ite (memoriesOk_refuseCe ht) (memoriesOk_ite (memoriesOk_setFlt ht) ?_)
    split
    · next e6 => exact memoriesOk_setFlt (memoriesOk_fst e6 (memoriesOk_wsCheck ht))
    · next e6 => exact memoriesOk_issueXfer (memoriesOk_fst e6 (memoriesOk_wsCheck ht))
  · exact hs

/-! ### The copy engine -/

theorem memoriesOk_copyDone {c e code} (hs : s.memoriesOk) : (copyDone s c e code).memoriesOk := by
  unfold copyDone
  refine memoriesOk_ite (memoriesOk_ite (memoriesOk_raise (memoriesOk_modCore hs)) (memoriesOk_modCore hs)) ?_
  exact memoriesOk_ite (memoriesOk_post (memoriesOk_modCore hs)) (memoriesOk_modCore hs)

theorem memoriesOk_startCopy {c e a b} (hs : s.memoriesOk) : (startCopy s c e a b).memoriesOk := by
  unfold startCopy
  refine memoriesOk_ite (memoriesOk_copyDone hs) ?_
  split
  · next e1 => exact memoriesOk_copyDone (memoriesOk_modCore (memoriesOk_fst e1 (memoriesOk_xlate hs)))
  · next e1 =>
    have h1 := memoriesOk_fst e1 (memoriesOk_xlate hs)
    exact memoriesOk_modCore (memoriesOk_freeNat (memoriesOk_ite (memoriesOk_readCheck h1) (memoriesOk_scramble
      (memoriesOk_readCheck h1))))

theorem memoriesOk_execCopy {c} (hs : s.memoriesOk) : (execCopy c s).memoriesOk := by
  dsimp only [execCopy]
  split
  · refine memoriesOk_ite hs ?_
    split
    · exact memoriesOk_copyDone (memoriesOk_setCore hs)
    · split
      · next e3 =>
        exact memoriesOk_copyDone (memoriesOk_fst e3 (memoriesOk_readWords (memoriesOk_setCore hs)))
      · next e3 =>
        have h3 := memoriesOk_fst e3 (memoriesOk_readWords (memoriesOk_setCore hs))
        split
        · exact memoriesOk_copyDone h3
        · exact memoriesOk_startCopy h3
  · exact hs

theorem memoriesOk_execCopyComplete {c} (hs : s.memoriesOk) : (execCopyComplete c s).memoriesOk := by
  unfold execCopyComplete
  split
  · refine memoriesOk_ite (memoriesOk_copyDone (memoriesOk_modCore ?_)) hs
    split
    · exact memoriesOk_partWrite hs
    · exact memoriesOk_writeStop hs
  · exact hs

/-! ### Refused accesses -/

theorem memoriesOk_agentEvent {ag off kind width write} (hs : s.memoriesOk) :
    (agentEvent s ag off kind width write).memoriesOk :=
  memoriesOk_accessEvent hs

theorem memoriesOk_refuseWrite {ag off width} (hs : s.memoriesOk) : (refuseWrite s ag off width).memoriesOk :=
  memoriesOk_agentEvent hs

theorem memoriesOk_discardBy {ag off} (hs : s.memoriesOk) : (discardBy s ag off).memoriesOk :=
  memoriesOk_record hs

/-! ### Check-value operations -/

theorem memoriesOk_cvGo {k} (hs : s.memoriesOk) : (cvGo s k).memoriesOk := by
  unfold cvGo
  refine memoriesOk_ite (memoriesOk_cvDone hs) ?_
  refine memoriesOk_ite (memoriesOk_cvDone hs) (memoriesOk_ite (memoriesOk_cvDone hs) ?_)
  split
  · next e3 => exact memoriesOk_cvDone (memoriesOk_fst e3 (memoriesOk_xlate hs))
  · next e3 => exact memoriesOk_modCv (memoriesOk_fst e3 (memoriesOk_xlate hs))

theorem memoriesOk_cvCtlWrite {ag k val m} (hs : s.memoriesOk) : (cvCtlWrite s ag k val m).memoriesOk := by
  unfold cvCtlWrite
  refine memoriesOk_ite (memoriesOk_refuseWrite hs) (memoriesOk_ite (memoriesOk_discardBy hs) ?_)
  refine memoriesOk_ite (memoriesOk_ite (memoriesOk_cvEnd hs) (memoriesOk_discardBy hs)) ?_
  exact memoriesOk_ite (memoriesOk_cvGo (memoriesOk_setCv hs)) (memoriesOk_setCv hs)

theorem memoriesOk_cvFeed {ag k off width val} (hs : s.memoriesOk) : (cvFeed s ag k off width val).memoriesOk := by
  unfold cvFeed
  refine memoriesOk_ite (memoriesOk_refuseWrite hs) ?_
  split
  · exact memoriesOk_agentEvent hs
  · split
    · exact hs
    · exact memoriesOk_ite hs (memoriesOk_setCv hs)

theorem memoriesOk_cvResult {k bs} (hs : s.memoriesOk) : (cvResult s k bs).memoriesOk :=
  memoriesOk_cvDone (memoriesOk_setCv hs)

theorem memoriesOk_cvStop {k n xl bs status} (hs : s.memoriesOk) : (cvStop s k n xl bs status).memoriesOk :=
  memoriesOk_cvDone (memoriesOk_writeSome hs)

theorem memoriesOk_cvMove {k xl hostFail} (hs : s.memoriesOk) : (cvMove s k xl hostFail).memoriesOk := by
  dsimp only [cvMove]
  split
  · next e0 =>
    have h0 := memoriesOk_fst e0 (memoriesOk_fst_ite (memoriesOk_hostXlate hs) (memoriesOk_fst_ite
      (memoriesOk_hostXlate hs) hs))
    exact h0
  · next e0 =>
    have h0 := memoriesOk_fst e0 (memoriesOk_fst_ite (memoriesOk_hostXlate hs) (memoriesOk_fst_ite
      (memoriesOk_hostXlate hs) hs))
    exact memoriesOk_cvStop h0
  · next e0 =>
    have h0 := memoriesOk_fst e0 (memoriesOk_fst_ite (memoriesOk_hostXlate hs) (memoriesOk_fst_ite
      (memoriesOk_hostXlate hs) hs))
    split
    · exact memoriesOk_cvStop h0
    · split
      · next e2 =>
        exact memoriesOk_cvStop (memoriesOk_fst e2 (memoriesOk_fst_ite h0 (memoriesOk_readCheck h0)))
      · next e2 =>
        have h2 := memoriesOk_fst e2 (memoriesOk_fst_ite h0 (memoriesOk_readCheck h0))
        split
        · next e3 =>
          exact memoriesOk_cvDone (memoriesOk_fst e3 (memoriesOk_fst_ite h2 (memoriesOk_cvWrite h2)))
        · next e3 =>
          exact memoriesOk_cvResult (memoriesOk_fst e3 (memoriesOk_fst_ite h2 (memoriesOk_cvWrite h2)))

theorem memoriesOk_execCvComplete {k hostFail} (hs : s.memoriesOk) : (execCvComplete k hostFail s).memoriesOk := by
  unfold execCvComplete
  split
  · exact memoriesOk_cvMove hs
  · exact hs

end Sys2Proof.Machine
end

section
/-! SUPPORT. The canonical form of the memories under links, the safe state, security, power and tally counters. -/

namespace Sys2Proof.Machine

variable {s : State}

/-! ### Links -/

theorem memoriesOk_countFec {l fec} (hs : s.memoriesOk) : (countFec s l fec).memoriesOk :=
  memoriesOk_modLink (memoriesOk_freeNat hs)

theorem memoriesOk_dropFlit {l} (hs : s.memoriesOk) : (dropFlit s l).memoriesOk := memoriesOk_modLink hs

theorem memoriesOk_rxStep {l f fec ok sel} {bad : State → State} {go : State → State} (hs : s.memoriesOk)
    (hb : ∀ t, t.memoriesOk → (bad t).memoriesOk) (hf : ∀ t, t.memoriesOk → (go t).memoriesOk) :
    (rxStep s l f fec ok sel bad go).memoriesOk := by
  unfold rxStep
  refine memoriesOk_ite hs (memoriesOk_ite (hb _ (memoriesOk_dropFlit (memoriesOk_countFec hs))) ?_)
  exact memoriesOk_ite (hf _ (memoriesOk_countFec hs)) hs

theorem memoriesOk_rxData {l f} (hs : s.memoriesOk) : (rxData s l f).memoriesOk := by
  unfold rxData
  refine memoriesOk_ite (memoriesOk_accept (memoriesOk_bwLink (memoriesOk_setLink (memoriesOk_tally
    (memoriesOk_modLink hs))))) ?_
  refine memoriesOk_ite (memoriesOk_setLink (memoriesOk_tally (memoriesOk_modLink hs))) ?_
  refine memoriesOk_ite (memoriesOk_tally (memoriesOk_modLink hs)) ?_
  exact memoriesOk_setLink (memoriesOk_tally (memoriesOk_modLink hs))

theorem memoriesOk_execDataFlit {l f fec} (hs : s.memoriesOk) : (execDataFlit l f fec s).memoriesOk := by
  unfold execDataFlit
  refine memoriesOk_ite (memoriesOk_ite hs (memoriesOk_dropFlit (memoriesOk_countFec hs))) ?_
  exact memoriesOk_ite hs (memoriesOk_rxStep hs (fun _ => memoriesOk_modLink) (fun _ => memoriesOk_rxData))

theorem memoriesOk_rxCtrl {l f fec ok kind} {go : State → State} (hs : s.memoriesOk)
    (hf : ∀ t, t.memoriesOk → (go t).memoriesOk) : (rxCtrl s l f fec ok kind go).memoriesOk :=
  memoriesOk_ite (memoriesOk_rxStep hs (fun _ ht => ht) (fun _ ht => hf _ (memoriesOk_modLink ht))) hs

theorem memoriesOk_enterRecovery {l ask} (hs : s.memoriesOk) : (enterRecovery s l ask).memoriesOk :=
  memoriesOk_noteMisfits (memoriesOk_modLink (memoriesOk_sourceLost hs))

theorem memoriesOk_startReplay {l seq} (hs : s.memoriesOk) : (startReplay s l seq).memoriesOk := by
  unfold startReplay
  refine memoriesOk_ite ?_ hs
  refine memoriesOk_ite (memoriesOk_enterRecovery (memoriesOk_tally (memoriesOk_setLink hs))) ?_
  exact memoriesOk_tally (memoriesOk_setLink hs)

theorem memoriesOk_execReplayTimeout {l} (hs : s.memoriesOk) : (execReplayTimeout l s).memoriesOk := by
  unfold execReplayTimeout
  refine memoriesOk_ite ?_ hs
  split
  · exact memoriesOk_startReplay hs
  · exact hs

theorem memoriesOk_offerParam {l} (hs : s.memoriesOk) : (offerParam s l).memoriesOk :=
  memoriesOk_ite (memoriesOk_modLink hs) hs

theorem memoriesOk_execFlitTransmit {l} (hs : s.memoriesOk) : (execFlitTransmit l s).memoriesOk := by
  unfold execFlitTransmit
  refine memoriesOk_ite hs ?_
  split
  · split
    · exact memoriesOk_tally (memoriesOk_setLink hs)
    · exact memoriesOk_setLink hs
  · split
    · exact hs
    · exact memoriesOk_freeDropped (memoriesOk_bwLink (memoriesOk_tally (memoriesOk_setLink hs)))

theorem memoriesOk_linkEnable {l} (hs : s.memoriesOk) : (linkEnable s l).memoriesOk :=
  memoriesOk_ite (memoriesOk_sendRequest (memoriesOk_setLink hs)) (memoriesOk_setLink hs)

theorem memoriesOk_linkDisable {l} (hs : s.memoriesOk) : (linkDisable s l).memoriesOk := by
  dsimp only [linkDisable]
  split
  · exact memoriesOk_modLink hs
  · exact memoriesOk_modLink (memoriesOk_modLink hs)
  · exact memoriesOk_failLink (memoriesOk_modLink hs)

theorem memoriesOk_linkRetrain {l} (hs : s.memoriesOk) : (linkRetrain s l).memoriesOk :=
  memoriesOk_ite (memoriesOk_modLink (memoriesOk_enterRecovery hs)) hs

theorem memoriesOk_execLinkTrainingComplete {l} (hs : s.memoriesOk) :
    (execLinkTrainingComplete l s).memoriesOk := by
  unfold execLinkTrainingComplete
  refine memoriesOk_ite ?_ hs
  split
  · exact hs
  · exact memoriesOk_noteMisfits (memoriesOk_dropGrant (memoriesOk_setLink hs))

theorem memoriesOk_execLinkRecoveryComplete {l} (hs : s.memoriesOk) :
    (execLinkRecoveryComplete l s).memoriesOk := by
  unfold execLinkRecoveryComplete
  refine memoriesOk_ite ?_ hs
  split
  · exact hs
  · refine memoriesOk_ite ?_ (memoriesOk_failLink hs)
    dsimp only
    split
    · exact memoriesOk_startReplay (memoriesOk_noteMisfits (memoriesOk_setLink hs))
    · exact memoriesOk_noteMisfits (memoriesOk_setLink hs)

theorem memoriesOk_rtDataWrite {val} (hs : s.memoriesOk) : (rtDataWrite s val).memoriesOk := hs

theorem memoriesOk_bondWrite {k val} (hs : s.memoriesOk) : (bondWrite s k val).memoriesOk :=
  memoriesOk_ite (memoriesOk_record hs) (memoriesOk_noteMisfits hs)

/-! ### The safe state -/

theorem memoriesOk_stopCopy {c status} (hs : s.memoriesOk) : (stopCopy s c status).memoriesOk := by
  dsimp only [stopCopy]
  split
  · exact memoriesOk_modCore (memoriesOk_partWrite hs)
  · exact memoriesOk_ite hs (memoriesOk_setCore hs)

theorem memoriesOk_clearLedger (hs : s.memoriesOk) : (clearLedger s).memoriesOk := hs

theorem memoriesOk_linksOff (hs : s.memoriesOk) : (linksOff s).memoriesOk :=
  memoriesOk_foldl hs fun _ _ => memoriesOk_failLink

theorem memoriesOk_endEverything {status} (hs : s.memoriesOk) : (endEverything s status).memoriesOk :=
  memoriesOk_endPkts (memoriesOk_cvEndPort (memoriesOk_cvEndPort (memoriesOk_foldl (memoriesOk_endXfers
    (memoriesOk_abortBatches (memoriesOk_endOnCores hs))) (fun _ _ => memoriesOk_stopCopy))))

theorem memoriesOk_enterSafe {cause seq e} (hs : s.memoriesOk) : (enterSafe s cause seq e).memoriesOk :=
  memoriesOk_with (memoriesOk_record (memoriesOk_clearLedger (memoriesOk_foldl (memoriesOk_linksOff (memoriesOk_with
    (memoriesOk_endEverything (memoriesOk_endInsts hs)))) (fun _ _ ht => memoriesOk_ite
      (memoriesOk_hctlClose ht) ht))))

theorem memoriesOk_safeCause {cause e} (hs : s.memoriesOk) : (safeCause s cause e).memoriesOk :=
  memoriesOk_ite (memoriesOk_record hs) (memoriesOk_enterSafe (memoriesOk_record hs))

/-! ### Identity, attestation and debug -/

theorem memoriesOk_setSec {x} (hs : s.memoriesOk) : (s.setSec x).memoriesOk := hs

theorem memoriesOk_tamper {bit level} (hs : s.memoriesOk) : (tamper s bit level).memoriesOk := by
  unfold tamper
  refine memoriesOk_ite (memoriesOk_safeCause (memoriesOk_setBoot (memoriesOk_setSec hs))) ?_
  exact memoriesOk_record (memoriesOk_setSec hs)

theorem memoriesOk_withXlate {pid ctx reads writes} {go : State → Table Nat → State} (hs : s.memoriesOk)
    (hf : ∀ t x, t.memoriesOk → (go t x).memoriesOk) : (withXlate s pid ctx reads writes go).memoriesOk := by
  unfold withXlate
  split
  · next e0 => exact memoriesOk_completePkt (memoriesOk_fst e0 (memoriesOk_xlate hs))
  · next e0 => exact hf _ _ (memoriesOk_fst e0 (memoriesOk_xlate hs))

theorem memoriesOk_withRead {pid xl va n} {go : State → List Byte → State} (hs : s.memoriesOk)
    (hf : ∀ t x, t.memoriesOk → (go t x).memoriesOk) : (withRead s pid xl va n go).memoriesOk := by
  unfold withRead
  split
  · next e0 => exact memoriesOk_completePkt (memoriesOk_fst e0 (memoriesOk_readCheck hs))
  · next e0 => exact hf _ _ (memoriesOk_fst e0 (memoriesOk_readCheck hs))

theorem memoriesOk_withWrite {pid xl va bs} {go : State → State} (hs : s.memoriesOk)
    (hf : ∀ t, t.memoriesOk → (go t).memoriesOk) : (withWrite s pid xl va bs go).memoriesOk := by
  unfold withWrite
  split
  · next e0 => exact memoriesOk_completePkt (memoriesOk_fst e0 (memoriesOk_writeStop hs))
  · next e0 => exact hf _ (memoriesOk_fst e0 (memoriesOk_writeStop hs))

theorem memoriesOk_keyLoad {pid p xl} (hs : s.memoriesOk) : (keyLoad s pid p xl).memoriesOk := by
  unfold keyLoad
  refine memoriesOk_withRead hs fun _ _ ht => memoriesOk_ite (memoriesOk_completePkt ht) ?_
  split
  · exact memoriesOk_completePkt ht
  · exact memoriesOk_completePkt (memoriesOk_setSec ht)

theorem memoriesOk_keyEnrol {pid p xl} (hs : s.memoriesOk) : (keyEnrol s pid p xl).memoriesOk := by
  unfold keyEnrol
  split
  · exact memoriesOk_completePkt hs
  · exact memoriesOk_withWrite (memoriesOk_freeNat hs) fun _ ht => memoriesOk_completePkt (memoriesOk_setSec ht)

theorem memoriesOk_keyProvision {pid p xl} (hs : s.memoriesOk) : (keyProvision s pid p xl).memoriesOk := by
  unfold keyProvision
  refine memoriesOk_withRead hs fun _ _ ht => memoriesOk_ite (memoriesOk_completePkt ht) ?_
  exact memoriesOk_withWrite (memoriesOk_freeBytes (memoriesOk_freeNat ht)) fun _ ht => memoriesOk_completePkt
    (memoriesOk_setSec ht)

theorem memoriesOk_keyPush {pid p} (hs : s.memoriesOk) : (keyPush s pid p).memoriesOk := by
  unfold keyPush
  refine memoriesOk_withXlate hs fun _ _ ht => memoriesOk_ite (memoriesOk_completePkt ht) ?_
  exact memoriesOk_ite (memoriesOk_keyLoad ht) (memoriesOk_ite (memoriesOk_keyEnrol ht) (memoriesOk_keyProvision ht))

theorem memoriesOk_attest {pid p} (hs : s.memoriesOk) : (attest s pid p).memoriesOk := by
  unfold attest
  refine memoriesOk_withXlate hs fun _ _ ht => ?_
  refine memoriesOk_ite (memoriesOk_completePkt ht) (memoriesOk_ite (memoriesOk_completePkt ht) ?_)
  exact memoriesOk_withRead ht (fun _ _ ht => memoriesOk_withWrite (memoriesOk_freeNat (memoriesOk_freeNat ht))
    (fun _ => memoriesOk_completePkt))

theorem memoriesOk_debugChallenge {pid p} (hs : s.memoriesOk) : (debugChallenge s pid p).memoriesOk := by
  unfold debugChallenge
  refine memoriesOk_ite (memoriesOk_completePkt hs) ?_
  exact memoriesOk_withXlate hs (fun _ _ ht => memoriesOk_withWrite (memoriesOk_freeBytes ht)
    (fun _ ht => memoriesOk_completePkt (memoriesOk_setSec ht)))

theorem memoriesOk_tokenFailed {pid} (hs : s.memoriesOk) : (tokenFailed s pid).memoriesOk :=
  memoriesOk_completePkt (memoriesOk_ite (memoriesOk_tamper (memoriesOk_setSec hs)) (memoriesOk_setSec hs))

theorem memoriesOk_debugToken {pid p} (hs : s.memoriesOk) : (debugToken s pid p).memoriesOk := by
  unfold debugToken
  refine memoriesOk_withXlate hs (fun _ _ ht => memoriesOk_withRead ht (fun _ _ ht => ?_))
  split
  · exact memoriesOk_tokenFailed ht
  · exact memoriesOk_completePkt (memoriesOk_setSec ht)

theorem memoriesOk_debugUnlock {pid p} (hs : s.memoriesOk) : (debugUnlock s pid p).memoriesOk := by
  unfold debugUnlock
  refine memoriesOk_ite (memoriesOk_completePkt hs) (memoriesOk_ite (memoriesOk_completePkt hs) ?_)
  exact memoriesOk_ite (memoriesOk_debugChallenge hs) (memoriesOk_debugToken hs)

/-! ### Parking, temperature and clocks -/

theorem memoriesOk_setDie {d x} (hs : s.memoriesOk) : (s.setDie d x).memoriesOk := hs

theorem memoriesOk_setParks {d l} (hs : s.memoriesOk) : (s.setParks d l).memoriesOk := hs

theorem memoriesOk_endLaunches {d status} (hs : s.memoriesOk) : (endLaunches s d status).memoriesOk :=
  memoriesOk_foldl hs (fun _ _ ht => memoriesOk_foldl (memoriesOk_modCore ht) (fun _ _ => memoriesOk_launchEnded))

theorem memoriesOk_startParks {n d} (hs : s.memoriesOk) : (startParks n s d).memoriesOk := by
  induction n generalizing s with
  | zero => exact hs
  | succ n ih =>
    unfold startParks
    split
    · exact hs
    · split
      · exact ih (memoriesOk_completePkt (memoriesOk_setParks hs))
      · exact memoriesOk_ite (memoriesOk_endLaunches hs) hs

theorem memoriesOk_addPark {d p} (hs : s.memoriesOk) : (addPark s d p).memoriesOk :=
  memoriesOk_ite (memoriesOk_startParks (memoriesOk_setParks hs)) (memoriesOk_setParks hs)

theorem memoriesOk_parkDone {d p ps} (hs : s.memoriesOk) : (parkDone s d p ps).memoriesOk :=
  memoriesOk_startParks (memoriesOk_completePkt (memoriesOk_setParks hs))

theorem memoriesOk_setLimit {u} (hs : s.memoriesOk) : (setLimit s u).memoriesOk := memoriesOk_decideHead hs

theorem memoriesOk_setDieLimit {d u} (hs : s.memoriesOk) : (setDieLimit s d u).memoriesOk :=
  memoriesOk_decideHead hs

theorem memoriesOk_ledgerSet {pid p} (hs : s.memoriesOk) : (ledgerSet s pid p).memoriesOk := by
  dsimp only [ledgerSet]
  split
  · exact memoriesOk_ite (memoriesOk_completePkt hs) (memoriesOk_completePkt (memoriesOk_setLimit hs))
  · exact memoriesOk_ite (memoriesOk_completePkt hs) (memoriesOk_completePkt (memoriesOk_setDieLimit hs))
  · exact memoriesOk_addPark hs
  · exact memoriesOk_addPark hs
  · exact memoriesOk_completePkt hs

theorem memoriesOk_dropCores {d} (hs : s.memoriesOk) : (dropCores s d).memoriesOk := by
  unfold dropCores
  extract_lets s1 s2 s3 lo n
  have h1 : s1.memoriesOk := memoriesOk_endLaunches hs
  have h2 : s2.memoriesOk := memoriesOk_foldl h1 fun _ _ ht => memoriesOk_foldl ht fun _ _ => memoriesOk_completePkt
  have h3 : s3.memoriesOk := memoriesOk_foldl h2 fun _ _ ht => memoriesOk_stopCopy ht
  exact memoriesOk_mk (wfTable_filter _ h3.mem) h3.hmem0 h3.hmem1

theorem memoriesOk_execDieParkComplete {d} (hs : s.memoriesOk) : (execDieParkComplete d s).memoriesOk := by
  unfold execDieParkComplete
  split
  · exact memoriesOk_ite (memoriesOk_parkDone (memoriesOk_decideHead (memoriesOk_setDie
      (memoriesOk_dropCores hs)))) hs
  · exact hs

theorem memoriesOk_execDieUnparkComplete {d} (hs : s.memoriesOk) : (execDieUnparkComplete d s).memoriesOk := by
  unfold execDieUnparkComplete
  split
  · exact memoriesOk_ite hs (memoriesOk_parkDone (memoriesOk_setDie hs))
  · exact hs

theorem memoriesOk_tripDie {d} (hs : s.memoriesOk) : (tripDie s d).memoriesOk :=
  memoriesOk_decideHead (memoriesOk_foldl (memoriesOk_foldl (memoriesOk_setDie hs)
    (fun _ _ => memoriesOk_outsideEnd)) (fun _ _ => memoriesOk_modCore))

theorem memoriesOk_dieCritical {k t} (hs : s.memoriesOk) : (dieCritical s k t).memoriesOk := by
  unfold dieCritical
  refine memoriesOk_ite (memoriesOk_ite (memoriesOk_tripDie (memoriesOk_record hs)) (memoriesOk_record hs)) ?_
  exact memoriesOk_safeCause hs

theorem memoriesOk_dieSample {k rs} (hs : s.memoriesOk) : (dieSample s k rs).memoriesOk := by
  unfold dieSample
  refine memoriesOk_decideHead (memoriesOk_ite ?_ ?_)
  · refine memoriesOk_dieCritical ?_
    refine memoriesOk_ite (memoriesOk_foldl hs (fun _ _ => memoriesOk_record)) ?_
    exact memoriesOk_record (memoriesOk_foldl hs (fun _ _ => memoriesOk_record))
  · refine memoriesOk_ite (memoriesOk_foldl hs (fun _ _ => memoriesOk_record)) ?_
    exact memoriesOk_record (memoriesOk_foldl hs (fun _ _ => memoriesOk_record))

theorem memoriesOk_dthermWrite {val} (hs : s.memoriesOk) : (dthermWrite s val).memoriesOk :=
  memoriesOk_ite hs (memoriesOk_ite hs (memoriesOk_discardWrite hs))

/-! ### Tally counters -/

theorem memoriesOk_tlySelWrite {ag k val} (hs : s.memoriesOk) : (tlySelWrite s ag k val).memoriesOk := by
  unfold tlySelWrite
  refine memoriesOk_ite (memoriesOk_refuseWrite hs) ?_
  exact memoriesOk_ite (memoriesOk_discardBy hs) (memoriesOk_setTly (memoriesOk_flow hs))

theorem memoriesOk_latch (hs : s.memoriesOk) : (latch s).memoriesOk := memoriesOk_setTly (memoriesOk_flow hs)

theorem memoriesOk_tlySnap {ag} (hs : s.memoriesOk) : (tlySnap s ag).memoriesOk :=
  memoriesOk_ite (memoriesOk_latch hs) (memoriesOk_refuseWrite hs)

theorem memoriesOk_bwcfgWrite {ag m val} (hs : s.memoriesOk) : (bwcfgWrite s ag m val).memoriesOk := by
  unfold bwcfgWrite
  refine memoriesOk_ite (memoriesOk_refuseWrite hs) ?_
  exact memoriesOk_ite hs (memoriesOk_ite (memoriesOk_discardBy hs) (memoriesOk_setTly hs))

theorem memoriesOk_windowBytes {m} (hs : s.memoriesOk) : (windowBytes s m).2.memoriesOk := by
  unfold windowBytes
  split
  · exact hs
  · exact memoriesOk_freeNat hs

theorem memoriesOk_dumpFail {code} (hs : s.memoriesOk) : (dumpFail s code).memoriesOk := memoriesOk_setTly hs

theorem memoriesOk_dumpTarget {va} (hs : s.memoriesOk) : (dumpTarget s va).1.memoriesOk := by
  unfold dumpTarget
  split
  · split
    · next e1 => exact memoriesOk_fst e1 (memoriesOk_xlate hs)
    · next e1 => exact memoriesOk_fst e1 (memoriesOk_xlate hs)
  · exact hs

theorem memoriesOk_dumpRecord (hs : s.memoriesOk) : (dumpRecord s).memoriesOk := by
  dsimp only [dumpRecord]
  split
  · next e0 =>
    exact memoriesOk_dumpFail (memoriesOk_setTly (memoriesOk_fst e0 (memoriesOk_dumpTarget hs)))
  · next e0 =>
    have h0 := memoriesOk_fst e0 (memoriesOk_dumpTarget hs)
    split
    · next e1 =>
      exact memoriesOk_dumpFail (memoriesOk_setTly (memoriesOk_fst e1 (memoriesOk_writeStop h0)))
    · next e1 => exact memoriesOk_setTly (memoriesOk_fst e1 (memoriesOk_writeStop h0))

theorem memoriesOk_execTlyDumpLatch (hs : s.memoriesOk) : (execTlyDumpLatch s).memoriesOk := by
  unfold execTlyDumpLatch
  refine memoriesOk_ite hs ?_
  exact memoriesOk_ite (memoriesOk_setTly (memoriesOk_latch hs)) (memoriesOk_dumpRecord (memoriesOk_latch hs))

theorem memoriesOk_execDumpRecordLanded (hs : s.memoriesOk) : (execDumpRecordLanded s).memoriesOk := by
  unfold execDumpRecordLanded
  split
  · exact hs
  · split
    · next e1 =>
      exact memoriesOk_dumpFail (memoriesOk_setTly (memoriesOk_fst e1 (memoriesOk_writeCheck hs)))
    · next e1 => exact memoriesOk_setTly (memoriesOk_fst e1 (memoriesOk_writeCheck hs))

theorem memoriesOk_tlyGrant {pid p} (hs : s.memoriesOk) : (tlyGrant s pid p).memoriesOk := by
  unfold tlyGrant
  refine memoriesOk_ite (memoriesOk_completePkt hs) ?_
  exact memoriesOk_ite (memoriesOk_completePkt hs) (memoriesOk_completePkt (memoriesOk_setTly
    (memoriesOk_giveItems hs)))

end Sys2Proof.Machine
end

section
/-! SUPPORT. The canonical form of the memories under register accesses, repair, management, self-tests and
vector accesses. -/

namespace Sys2Proof.Machine

variable {s : State}

/-! ### Reads of registers -/

theorem memoriesOk_csrRead {ag off width} (hs : s.memoriesOk) : (csrRead s ag off width).1.memoriesOk := by
  unfold csrRead
  refine memoriesOk_fst_ite (memoriesOk_agentEvent hs) ?_
  dsimp only
  split
  · exact memoriesOk_ite (memoriesOk_flow hs) hs
  · exact memoriesOk_agentEvent (memoriesOk_ite (memoriesOk_flow hs) hs)

/-! ### Retraining and repair -/

theorem memoriesOk_retrainStart {k p} (hs : s.memoriesOk) : (retrainStart s k p).memoriesOk :=
  memoriesOk_ite (memoriesOk_setStack hs) (memoriesOk_setStack hs)

theorem memoriesOk_drainPc {k p} (hs : s.memoriesOk) : (drainPc s k p).memoriesOk :=
  memoriesOk_releaseFabric (memoriesOk_foldl (memoriesOk_modStack hs) (fun _ _ => memoriesOk_acceptReq))

theorem memoriesOk_retrainOk {k p} (hs : s.memoriesOk) : (retrainOk s k p).memoriesOk :=
  memoriesOk_drainPc (memoriesOk_modStack hs)

theorem memoriesOk_retrainFail {k p} (hs : s.memoriesOk) : (retrainFail s k p).memoriesOk := by
  unfold retrainFail
  refine memoriesOk_ite (memoriesOk_modStack (memoriesOk_freeNat hs)) ?_
  exact memoriesOk_drainPc (memoriesOk_pcFailed (memoriesOk_modStack hs))

theorem memoriesOk_execRetrainAttemptEnd {k ok} (hs : s.memoriesOk) :
    (execRetrainAttemptEnd k ok s).memoriesOk := by
  unfold execRetrainAttemptEnd
  split
  · exact hs
  · exact memoriesOk_ite hs (memoriesOk_ite (memoriesOk_retrainOk hs) (memoriesOk_retrainFail hs))

theorem memoriesOk_hrepairWrite {k val} (hs : s.memoriesOk) : (hrepairWrite s k val).memoriesOk := by
  unfold hrepairWrite
  refine memoriesOk_ite hs ?_
  exact memoriesOk_ite (memoriesOk_discardWrite hs) (memoriesOk_drainPc (memoriesOk_startRepair
    (memoriesOk_setStack hs)))

theorem memoriesOk_copySector {k sec} (hs : s.memoriesOk) : (copySector k s sec).memoriesOk := by
  dsimp only [copySector]
  split
  · next e0 => exact memoriesOk_modStack (memoriesOk_fst e0 (memoriesOk_readSector hs))
  · next e0 => exact memoriesOk_modStack (memoriesOk_fst e0 (memoriesOk_readSector hs))

theorem memoriesOk_copyGranule {k p} (hs : s.memoriesOk) : (copyGranule s k p).memoriesOk := by
  unfold copyGranule
  refine memoriesOk_ite (memoriesOk_modStack (memoriesOk_foldl hs (fun _ _ => memoriesOk_copySector))) ?_
  exact memoriesOk_record (memoriesOk_modStack (memoriesOk_modStack (memoriesOk_foldl hs
    (fun _ _ => memoriesOk_copySector))))

theorem memoriesOk_execRepairCopyGranule {k} (hs : s.memoriesOk) : (execRepairCopyGranule k s).memoriesOk := by
  dsimp only [execRepairCopyGranule]
  split
  · exact memoriesOk_ite (memoriesOk_copyGranule (memoriesOk_setStack hs)) hs
  · exact hs

/-! ### Writes of registers -/

theorem memoriesOk_mbWrite {n off v m} (hs : s.memoriesOk) : (mbWrite s n off v m).memoriesOk := by
  dsimp only [mbWrite]
  split
  · exact memoriesOk_ite (memoriesOk_mbCommand hs) hs
  · exact memoriesOk_setBoot hs
  · exact memoriesOk_setBoot hs
  · exact memoriesOk_setBoot hs
  · exact hs

theorem memoriesOk_hctlWrite {k v} (hs : s.memoriesOk) : (hctlWrite s k v).memoriesOk := by
  unfold hctlWrite
  refine memoriesOk_ite (memoriesOk_hctlClose (memoriesOk_ite (memoriesOk_hctlOpen hs) hs)) ?_
  exact memoriesOk_ite (memoriesOk_hctlOpen hs) hs

theorem memoriesOk_stackWrite {k off v m} (hs : s.memoriesOk) : (stackWrite s k off v m).memoriesOk := by
  dsimp only [stackWrite]
  split
  · exact memoriesOk_setStack hs
  · exact memoriesOk_hthermWrite hs
  · exact memoriesOk_setStack hs
  · exact memoriesOk_setStack hs
  · exact memoriesOk_hrepairWrite hs
  · exact memoriesOk_hctlWrite hs
  · exact memoriesOk_ite (memoriesOk_setStack hs) hs

theorem memoriesOk_dlctlWrite {l v m} (hs : s.memoriesOk) : (dlctlWrite s l v m).memoriesOk := by
  unfold dlctlWrite
  refine memoriesOk_ite (memoriesOk_ite (memoriesOk_linkRetrain (memoriesOk_setLink hs)) (memoriesOk_setLink hs)) ?_
  refine memoriesOk_ite (memoriesOk_linkEnable (memoriesOk_ite (memoriesOk_linkRetrain (memoriesOk_setLink hs))
    (memoriesOk_setLink hs))) ?_
  exact memoriesOk_linkDisable (memoriesOk_ite (memoriesOk_linkRetrain (memoriesOk_setLink hs))
    (memoriesOk_setLink hs))

theorem memoriesOk_dieWrite {l off v m} (hs : s.memoriesOk) : (dieWrite s l off v m).memoriesOk := by
  dsimp only [dieWrite]
  split
  · exact memoriesOk_ite hs hs
  · exact hs
  · exact memoriesOk_rtDataWrite hs
  · exact hs
  · exact memoriesOk_ite (memoriesOk_bondWrite hs) hs

theorem memoriesOk_linkWrite {l off v m} (hs : s.memoriesOk) : (linkWrite s l off v m).memoriesOk := by
  dsimp only [linkWrite]
  split
  · exact memoriesOk_dlctlWrite hs
  · exact memoriesOk_setLink hs
  · exact memoriesOk_setLink hs
  · exact memoriesOk_setLink hs
  · exact memoriesOk_setLink hs
  · exact memoriesOk_setLink hs
  · exact memoriesOk_dieWrite hs

theorem memoriesOk_powerWrite {off v m} (hs : s.memoriesOk) : (powerWrite s off v m).memoriesOk := by
  dsimp only [powerWrite]
  split
  · exact memoriesOk_decideHead hs
  · exact memoriesOk_dthermWrite hs
  · exact memoriesOk_ite (memoriesOk_ite (memoriesOk_setDieLimit hs) hs) (memoriesOk_ite
      (memoriesOk_decideHead hs) hs)

theorem memoriesOk_tlyCntWrite {ag k width v m} (hs : s.memoriesOk) : (tlyCntWrite s ag k width v m).memoriesOk :=
  memoriesOk_ite (memoriesOk_setTly (memoriesOk_flow hs)) (memoriesOk_refuseWrite hs)

theorem memoriesOk_monWrite {ag off width v m} (hs : s.memoriesOk) : (monWrite s ag off width v m).memoriesOk := by
  unfold monWrite
  refine memoriesOk_ite (memoriesOk_bwcfgWrite hs) ?_
  exact memoriesOk_ite (memoriesOk_refuseWrite hs) (memoriesOk_ite (memoriesOk_setTly hs) hs)

theorem memoriesOk_dumpWrite {off v m} (hs : s.memoriesOk) : (dumpWrite s off v m).memoriesOk := by
  dsimp only [dumpWrite]
  split
  · exact memoriesOk_setTly hs
  · exact memoriesOk_setTly hs
  · exact hs

theorem memoriesOk_tlyWrite {ag off width v m} (hs : s.memoriesOk) : (tlyWrite s ag off width v m).memoriesOk := by
  unfold tlyWrite
  refine memoriesOk_ite ?_ ?_
  · refine memoriesOk_ite (memoriesOk_ite (memoriesOk_latch hs) (memoriesOk_refuseWrite hs)) ?_
    exact memoriesOk_ite hs (memoriesOk_refuseWrite hs)
  · refine memoriesOk_ite (memoriesOk_ite (memoriesOk_setTly hs) (memoriesOk_refuseWrite hs)) ?_
    refine memoriesOk_ite (memoriesOk_ite (memoriesOk_dumpWrite hs) (memoriesOk_refuseWrite hs)) ?_
    refine memoriesOk_ite (memoriesOk_tlySelWrite hs) ?_
    refine memoriesOk_ite (memoriesOk_tlyCntWrite hs) (memoriesOk_ite (memoriesOk_monWrite hs) ?_)
    split
    · exact hs
    · exact memoriesOk_ite hs (memoriesOk_refuseWrite hs)

theorem memoriesOk_cvWriteReg {ag k off width v m} (hs : s.memoriesOk) :
    (cvWriteReg s ag k off width v m).memoriesOk := by
  unfold cvWriteReg
  refine memoriesOk_ite (memoriesOk_cvCtlWrite hs) (memoriesOk_ite (memoriesOk_cvFeed hs) ?_)
  refine memoriesOk_ite (memoriesOk_refuseWrite hs) (memoriesOk_ite (memoriesOk_setCv hs) ?_)
  exact memoriesOk_ite hs (memoriesOk_ite (memoriesOk_discardBy hs) (memoriesOk_setCv hs))

theorem memoriesOk_blockWrite {ag width v m b} (hs : s.memoriesOk) : (blockWrite s ag width v m b).memoriesOk := by
  unfold blockWrite
  split
  · exact memoriesOk_modCore hs
  · exact memoriesOk_stackWrite hs
  · exact hs
  · exact memoriesOk_linkWrite hs
  · exact memoriesOk_modCe hs
  · exact hs
  · exact memoriesOk_powerWrite hs
  · exact memoriesOk_ite (memoriesOk_setSec hs) hs
  · exact memoriesOk_tlyWrite hs
  · exact memoriesOk_cvWriteReg hs
  · exact hs
  · exact hs
  · exact hs

theorem memoriesOk_firmwareWrite {ag off width v m} (hs : s.memoriesOk) :
    (firmwareWrite s ag off width v m).memoriesOk :=
  memoriesOk_ite hs (memoriesOk_ite (memoriesOk_agentEvent hs) (memoriesOk_blockWrite hs))

theorem memoriesOk_bar4Write {ag p off width v m} (hs : s.memoriesOk) :
    (bar4Write s ag p off width v m).memoriesOk := by
  unfold bar4Write
  split
  · exact memoriesOk_ite (memoriesOk_agentEvent hs) (memoriesOk_ite (memoriesOk_mbWrite hs) hs)
  · exact memoriesOk_ite (memoriesOk_cvWriteReg hs) (memoriesOk_agentEvent hs)
  · exact memoriesOk_refuseWrite hs

theorem memoriesOk_aqcfgWrite {n v m} (hs : s.memoriesOk) : (aqcfgWrite s n v m).memoriesOk :=
  memoriesOk_ite (memoriesOk_adminEnable hs) (memoriesOk_ite (memoriesOk_adminDisable hs) (memoriesOk_modCtx hs))

theorem memoriesOk_pageWrite {ag n off width v m} (hs : s.memoriesOk) :
    (pageWrite s ag n off width v m).memoriesOk := by
  unfold pageWrite
  refine memoriesOk_ite (memoriesOk_aqcfgWrite hs) ?_
  refine memoriesOk_ite (memoriesOk_ite hs (memoriesOk_setCtx hs)) ?_
  refine memoriesOk_ite (memoriesOk_ite hs (memoriesOk_setCtx hs)) ?_
  exact memoriesOk_ite hs (memoriesOk_ite (memoriesOk_tlyWrite hs) (memoriesOk_refuseWrite hs))

theorem memoriesOk_csrWrite {ag off width val} (hs : s.memoriesOk) : (csrWrite s ag off width val).memoriesOk := by
  unfold csrWrite
  refine memoriesOk_ite (memoriesOk_agentEvent hs) ?_
  dsimp only
  split
  · exact memoriesOk_firmwareWrite hs
  · exact memoriesOk_bar4Write hs
  · exact memoriesOk_pageWrite hs
  · exact memoriesOk_refuseWrite hs

/-! ### Grants -/

theorem memoriesOk_giveGrant {r u} (hs : s.memoriesOk) : (giveGrant s r u).memoriesOk := by
  unfold giveGrant
  split
  · exact memoriesOk_modCore hs
  · exact hs
  · exact hs

theorem memoriesOk_execLedgerGrant {who} (hs : s.memoriesOk) : (execLedgerGrant who s).memoriesOk := by
  unfold execLedgerGrant
  split
  · split
    · exact memoriesOk_decideHead (memoriesOk_giveGrant hs)
    · exact hs
  · exact hs

/-! ### The LPDDR port -/

theorem memoriesOk_lppAccess {addr link} (hs : s.memoriesOk) : (lppAccess s addr link).memoriesOk := by
  dsimp only [lppAccess]
  split
  · exact memoriesOk_with (memoriesOk_touchLpp hs)
  · exact memoriesOk_recordCorrected (memoriesOk_with (memoriesOk_with (memoriesOk_touchLpp hs)))
  · exact memoriesOk_with (memoriesOk_lppFail hs)

/-! ### Management and debug -/

theorem memoriesOk_smbAnswer {n v} (hs : s.memoriesOk) : (smbAnswer s n v).memoriesOk := memoriesOk_ite hs hs

theorem memoriesOk_jtag {i dr driven} (hs : s.memoriesOk) : (jtag s i dr driven).memoriesOk := hs

theorem memoriesOk_selectBypass (hs : s.memoriesOk) : (selectBypass s).memoriesOk := memoriesOk_jtag hs

theorem memoriesOk_debugAccess {a} (hs : s.memoriesOk) : (debugAccess s a).memoriesOk := by
  have hj : (jtag s .dbgacc 0 false).memoriesOk := memoriesOk_jtag hs
  cases a with
  | readCsr off => exact memoriesOk_ite (memoriesOk_jtag (memoriesOk_csrRead hs)) hj
  | readMem addr len =>
    unfold debugAccess
    refine memoriesOk_ite hj (memoriesOk_ite hj ?_)
    dsimp only
    split
    · next e => exact memoriesOk_with (memoriesOk_fst e (memoriesOk_readCheck hj))
    · next e => exact memoriesOk_with (memoriesOk_fst e (memoriesOk_readCheck hj))
  | writeMem addr bytes => exact memoriesOk_ite hj (memoriesOk_writeCheck hj)
  | haltCore c => exact memoriesOk_ite hj (memoriesOk_with hj)
  | haltCasori p => exact memoriesOk_ite hj (memoriesOk_with hj)

/-! ### Self-tests -/

theorem memoriesOk_setTest {c a h t} (hs : s.memoriesOk) : (setTest s c a h t).memoriesOk := hs

theorem memoriesOk_testPassed {c a h} (hs : s.memoriesOk) : (testPassed s c a h).memoriesOk :=
  memoriesOk_modMxa (memoriesOk_setTest hs)

theorem memoriesOk_fenceEmpty {c a h col} (hs : s.memoriesOk) : (fenceEmpty s c a h col).memoriesOk :=
  memoriesOk_record (memoriesOk_modMxa (memoriesOk_setTest hs))

theorem memoriesOk_testFailed {c a h col} (hs : s.memoriesOk) : (testFailed s c a h col).memoriesOk := by
  unfold testFailed
  refine memoriesOk_record (memoriesOk_modMxa ?_)
  split
  · exact memoriesOk_arrayFault (memoriesOk_abortOne (memoriesOk_setTest hs))
  · exact memoriesOk_fenceEmpty (memoriesOk_setTest hs)

theorem memoriesOk_execSelfTestResult {c a h res} (hs : s.memoriesOk) :
    (execSelfTestResult c a h res s).memoriesOk := by
  unfold execSelfTestResult
  refine memoriesOk_ite ?_ hs
  split
  · exact memoriesOk_testPassed hs
  · exact memoriesOk_testFailed hs

theorem memoriesOk_clearedCore {c} (hs : s.memoriesOk) : (clearedCore s c).memoriesOk :=
  memoriesOk_modCore (memoriesOk_clearCore hs)

/-! ### The timebase -/

theorem memoriesOk_applyOffset {off} (hs : s.memoriesOk) : (applyOffset s off).memoriesOk :=
  memoriesOk_ite hs (memoriesOk_ite hs hs)

/-! ### Vector loads and stores -/

theorem memoriesOk_readLanes {c offs} (hs : s.memoriesOk) : (readLanes s c offs).1.memoriesOk :=
  memoriesOk_readWords hs

theorem memoriesOk_execVld {c t} (hs : s.memoriesOk) : (execVld c t s).memoriesOk := by
  unfold execVld
  refine memoriesOk_vecStep hs fun _ _ ht => memoriesOk_fst_ite ht ?_
  split
  · exact ht
  · split
    · next e4 => exact memoriesOk_fst e4 (memoriesOk_readLanes ht)
    · next e4 => exact memoriesOk_fst e4 (memoriesOk_readLanes ht)

theorem memoriesOk_storeLanes {i l} (hs : s.memoriesOk) : (storeLanes s i l).1.memoriesOk := by
  unfold storeLanes
  split
  · next e0 => exact memoriesOk_fst e0 (memoriesOk_writeCheck hs)
  · next e0 => exact memoriesOk_fst e0 (memoriesOk_writeCheck hs)

theorem memoriesOk_execVst {c t} (hs : s.memoriesOk) : (execVst c t s).memoriesOk := by
  unfold execVst
  refine memoriesOk_vecStep hs fun _ _ ht => memoriesOk_fst_ite ht ?_
  split
  · exact ht
  · exact memoriesOk_fst_ite ht (memoriesOk_storeLanes ht)

theorem memoriesOk_execVgather {c t} (hs : s.memoriesOk) : (execVgather c t s).memoriesOk := by
  unfold execVgather
  refine memoriesOk_vecStep hs fun _ _ ht => memoriesOk_fst_ite ht (memoriesOk_fst_ite ht ?_)
  split
  · exact ht
  · split
    · next e5 => exact memoriesOk_fst e5 (memoriesOk_readLanes ht)
    · next e5 => exact memoriesOk_fst e5 (memoriesOk_readLanes ht)

theorem memoriesOk_execVscatter {c t} (hs : s.memoriesOk) : (execVscatter c t s).memoriesOk := by
  unfold execVscatter
  refine memoriesOk_vecStep hs fun _ _ ht => memoriesOk_fst_ite ht (memoriesOk_fst_ite ht ?_)
  split
  · exact ht
  · split
    · next e5 => exact memoriesOk_fst e5 (memoriesOk_storeLanes ht)
    · exact memoriesOk_storeLanes ht

/-! ### Reductions -/

theorem memoriesOk_execVred {c t mm} (hs : s.memoriesOk) : (execVred c t mm s).memoriesOk :=
  memoriesOk_vecStep hs fun _ _ ht => ht

end Sys2Proof.Machine
end

section
/-! PROOFS. Every step keeps the memories in canonical form. -/

open Sys2Proof Sys2Proof.Machine

namespace Sys2Proof.Machine

variable {s : State}

/-- Every command keeps the memories in canonical form: the ones not proved above are one operation each. -/
theorem memoriesOk_exec {i : Instr} (hs : s.memoriesOk) : Res.memoriesOk (exec i s) := by
  cases i with
  | ldst => exact memoriesOk_execLdst hs
  | pass => exact memoriesOk_execPass hs
  | drain => exact memoriesOk_execDrain hs
  | zero => exact memoriesOk_execZero hs
  | modeCmd =>
    exact memoriesOk_arrStep hs fun _ _ _ ht => memoriesOk_ite (memoriesOk_finish ht) (memoriesOk_ite ht
      (memoriesOk_finish (memoriesOk_modMxa ht)))
  | aack => exact memoriesOk_arrStep hs fun _ _ _ ht => memoriesOk_finish (memoriesOk_modMxa ht)
  | unlistedArrayOpcode => exact memoriesOk_arrStep hs fun _ _ _ ht => ht
  | arrayCommandComplete => exact memoriesOk_execArrayCommandComplete hs
  | colmaskApply => exact memoriesOk_ite (memoriesOk_modMxa hs) hs
  | rampIntervalEnd => exact memoriesOk_ite hs (memoriesOk_decideHead (memoriesOk_modMxa hs))
  | dbWrite => exact memoriesOk_ite (memoriesOk_modCore hs) hs
  | computeSetRetired => exact memoriesOk_ite (memoriesOk_releaseGrant (memoriesOk_setCore hs)) hs
  | ledgerRequestSend => exact memoriesOk_ite (memoriesOk_sendRequest (memoriesOk_setCore hs)) hs
  | beatStart => exact memoriesOk_ite (memoriesOk_tally (memoriesOk_setCore hs)) hs
  | watchdogExpiry => exact memoriesOk_ite (memoriesOk_modCore (memoriesOk_endProgram (memoriesOk_record hs))) hs
  | add | sub | mul | and | or | xor | shl | shr | sra | slt | sltu | min | max => exact memoriesOk_aluRR hs
  | addi | andi | ori | xori | shli | shri | srai | li | lih | fcvtif | fcvtfi => exact memoriesOk_aluRI hs
  | fadd | fsub | fmul | ffma => exact memoriesOk_fpRRR hs
  | ld | ldw => exact memoriesOk_ccLoad hs
  | st | stw => exact memoriesOk_ccStore hs
  | csrr => exact memoriesOk_execCsrr hs
  | csrw =>
    exact memoriesOk_ccStep hs fun _ _ _ => memoriesOk_ite (memoriesOk_illegal hs) (memoriesOk_ite hs
      (memoriesOk_csrwEffect hs))
  | mrd | msr => exact memoriesOk_ccStep hs fun _ _ _ => memoriesOk_ite hs (memoriesOk_setRd hs)
  | dbf | dbb | xrd => exact memoriesOk_ccStep hs fun _ _ _ => memoriesOk_setRd hs
  | unlistedCcOpcode => exact memoriesOk_execUnlistedCcOpcode hs
  | ugateWrite => exact memoriesOk_ccStep hs fun _ _ _ => memoriesOk_ite hs (memoriesOk_csrwEffect hs)
  | gateDecide => exact memoriesOk_execGateDecide hs
  | put => exact memoriesOk_msgStep hs fun _ _ ht => memoriesOk_modCe (memoriesOk_putBytes ht)
  | putLandedAtTarget => exact memoriesOk_execPutLandedAtTarget hs
  | getreq => exact memoriesOk_execGetreq hs
  | getrsp => exact memoriesOk_execGetrsp hs
  | ack | noroute =>
    exact memoriesOk_msgStep hs (fun _ _ ht => memoriesOk_originStep ht (fun _ _ => memoriesOk_xferDone))
  | xferTimeout => exact memoriesOk_execXferTimeout hs
  | reservedKindMessage => exact memoriesOk_msgStep hs fun _ _ => memoriesOk_ceStale
  | beq | bne | blt | bge | bltu | bgeu | bflt | bfge => exact memoriesOk_branch hs
  | jal | jr => exact memoriesOk_ccStep hs fun _ _ _ => memoriesOk_jump hs
  | vtgt | endCmd | xack =>
    exact memoriesOk_ccStep hs fun _ _ _ => memoriesOk_ite (memoriesOk_illegal hs) (memoriesOk_setCore hs)
  | acmd =>
    exact memoriesOk_ccStep hs fun _ _ _ => memoriesOk_ite (memoriesOk_illegal hs) (memoriesOk_ite hs
      (memoriesOk_setCore hs))
  | secmd | cpcmd => exact memoriesOk_ccStep hs fun _ _ _ => memoriesOk_ite hs (memoriesOk_setCore hs)
  | swap =>
    exact memoriesOk_ccStep hs fun _ _ _ => memoriesOk_ite (memoriesOk_illegal hs) (memoriesOk_ite
      (memoriesOk_illegal hs) (memoriesOk_setCore hs))
  | fence => exact memoriesOk_ccStep hs fun _ _ _ => memoriesOk_ite (memoriesOk_setCore hs) hs
  | raise =>
    exact memoriesOk_ccStep hs fun _ _ _ => memoriesOk_ite (memoriesOk_exceptionInExc hs)
      (memoriesOk_takeException hs)
  | cnop => exact memoriesOk_ccStep hs fun _ _ _ => memoriesOk_setCore hs
  | streamDone =>
    exact memoriesOk_ite (memoriesOk_ite (memoriesOk_endProgram (memoriesOk_setCore hs)) (memoriesOk_setCore hs)) hs
  | streamException => exact memoriesOk_ite (memoriesOk_takePending hs) hs
  | ccLockstepMismatch =>
    exact memoriesOk_ite (memoriesOk_coreFaultEvent (memoriesOk_endProgram (memoriesOk_record hs))) hs
  | vnop | vsetvl | vcmp | vscale | vcvt | vcvtmx | pfromv | vrng | vdrop | vdropp | vrstat | vrsacc | vrsout
  | vrsclr | vsmxacc | vsmxout | vscan | vlscan | vredr => exact memoriesOk_vecPure hs
  | vmov | vbcast | viota | vsel | vfromp => exact memoriesOk_vecMove hs
  | vadd | vsub | vmul | vfma | vfms | vnfma => exact memoriesOk_vecArith hs
  | vmax | vmin => exact memoriesOk_vecPick hs
  | vabs | vneg => exact memoriesOk_vecSign hs
  | vand | vor | vxor | vshl | vshr | vsra => exact memoriesOk_vecBits hs
  | pand | por | pxor | pandn => exact memoriesOk_vecPred hs
  | vperm | vpermr => exact memoriesOk_vecPermute hs
  | unlistedVectorOpcode => exact memoriesOk_execUnlistedVectorOpcode hs
  | instanceStart => exact memoriesOk_execInstanceStart hs
  | collectiveStep => exact memoriesOk_execCollectiveStep hs
  | chunk => exact memoriesOk_holdMsg hs fun _ _ ht => ht
  | flag => exact memoriesOk_execFlag hs
  | slown => exact memoriesOk_msgStep hs fun _ _ ht => memoriesOk_ite (memoriesOk_ceStale ht) (memoriesOk_noteSlow ht)
  | slownTimer => exact memoriesOk_execSlownTimer hs
  | straggleTimeout => exact memoriesOk_execStraggleTimeout hs
  | detach => exact memoriesOk_execDetach hs
  | instanceTimeout => exact memoriesOk_execInstanceTimeout hs
  | abortMsg => exact memoriesOk_msgStep hs fun _ _ => memoriesOk_takeAbort
  | instanceComplete => exact memoriesOk_execInstanceComplete hs
  | sqTailDoorbell => exact memoriesOk_ite (memoriesOk_sqDoorbellWrite hs) hs
  | cqHeadDoorbell => exact memoriesOk_ite (memoriesOk_ite (memoriesOk_setCq hs) (memoriesOk_cqDoorbellWrite hs)) hs
  | statusReplyWrite => exact memoriesOk_execStatusReplyWrite hs
  | adminQueueEnable => exact memoriesOk_ite (memoriesOk_adminEnable hs) hs
  | adminQueueDisable => exact memoriesOk_ite (memoriesOk_ite (memoriesOk_adminDisable hs) (memoriesOk_modCtx hs)) hs
  | nop => exact memoriesOk_dispatch hs fun _ _ _ => memoriesOk_completePkt
  | tokenPost => exact memoriesOk_dispatch hs fun _ _ _ => memoriesOk_tokenPost
  | qwait => exact memoriesOk_dispatch hs fun _ _ _ => memoriesOk_qwait
  | dma => exact memoriesOk_dispatch hs fun _ _ _ => memoriesOk_dmaStart
  | dmaComplete => exact memoriesOk_execDmaComplete hs
  | launch => exact memoriesOk_dispatch hs fun _ _ _ => memoriesOk_launch
  | qCreate => exact memoriesOk_dispatch hs fun _ _ _ => memoriesOk_qCreate
  | unlistedPacketOpcode => exact memoriesOk_dispatchFront hs fun _ _ _ => memoriesOk_completePkt
  | planLoad => exact memoriesOk_dispatch hs fun _ _ _ => memoriesOk_planLoad
  | planUnload =>
    exact memoriesOk_dispatch hs (fun _ _ _ ht => memoriesOk_onPlan ht (fun _ _ ht => memoriesOk_ite
      (memoriesOk_completePkt ht) (memoriesOk_completePkt (memoriesOk_modCe ht))))
  | ceTrigger =>
    exact memoriesOk_dispatch hs (fun _ _ _ ht => memoriesOk_onPlan ht (fun _ _ ht => memoriesOk_completePkt
      (memoriesOk_trigger ht)))
  | ceXfer => exact memoriesOk_ite (memoriesOk_dispatch hs (fun _ _ _ => memoriesOk_ceXfer)) hs
  | ceAbort =>
    exact memoriesOk_dispatch hs (fun _ _ _ ht => memoriesOk_onPlan ht (fun _ _ ht => memoriesOk_completePkt
      (memoriesOk_abortInst ht)))
  | evDecode => exact memoriesOk_dispatch hs fun _ _ _ => memoriesOk_evDecode
  | evDecodeComplete => exact memoriesOk_execEvDecodeComplete hs
  | evCheck => exact memoriesOk_dispatch hs fun _ _ _ => memoriesOk_evCheck
  | hbmSectorRead => exact memoriesOk_ite (memoriesOk_request (memoriesOk_strikeSector hs)) hs
  | hbmSectorWrite => exact memoriesOk_ite (memoriesOk_request hs) hs
  | hbmShareWindow => exact memoriesOk_ite (memoriesOk_serveAll (memoriesOk_modStack hs)) hs
  | hbmScrubRead => exact memoriesOk_ite (memoriesOk_scrub hs) hs
  | hbmRefresh => exact hs
  | hbmTempReadout => exact memoriesOk_execHbmTempReadout hs
  | stackClosed => exact memoriesOk_ite (memoriesOk_setStack hs) hs
  | hctlOpen => exact memoriesOk_ite (memoriesOk_hctlOpen hs) hs
  | hctlClose => exact memoriesOk_ite (memoriesOk_hctlClose hs) hs
  | hthermWrite => exact memoriesOk_ite (memoriesOk_hthermWrite hs) hs
  | hbmReserve => exact memoriesOk_dispatch hs fun _ _ _ => memoriesOk_hbmReserve
  | hbmRelease => exact memoriesOk_dispatch hs fun _ _ _ => memoriesOk_hbmRelease
  | seLoad | seStore => exact memoriesOk_seStep hs fun _ _ => memoriesOk_seTransfer hs
  | sePost => exact memoriesOk_execSePost hs
  | unlistedSeOpcode => exact memoriesOk_seStep hs fun _ _ => memoriesOk_seDone hs
  | postComplete => exact memoriesOk_execPostComplete hs
  | transferOpen => exact memoriesOk_execTransferOpen hs
  | transferLanded => exact memoriesOk_execTransferLanded hs
  | transferError => exact memoriesOk_execTransferError hs
  | coreLaunch => exact memoriesOk_execCoreLaunch hs
  | ingestBatch => exact memoriesOk_dispatch hs fun _ _ _ ht => memoriesOk_ingestBatch ht hs
  | batchStart => exact memoriesOk_execBatchStart hs
  | segmentStart => exact memoriesOk_execSegmentStart hs
  | segmentComplete => exact memoriesOk_execSegmentComplete hs
  | batchComplete => exact memoriesOk_execBatchComplete hs
  | ingestAbort => exact memoriesOk_dispatch hs fun _ _ _ => memoriesOk_ingestAbort
  | sttServe => exact memoriesOk_execSttServe hs
  | stOpen => exact memoriesOk_dispatch hs fun _ _ _ => memoriesOk_stOpen
  | stStart =>
    exact memoriesOk_dispatch hs (fun _ _ _ ht => memoriesOk_stCommand ht (fun _ _ _ _ _ => memoriesOk_stStart))
  | stStop =>
    exact memoriesOk_dispatch hs (fun _ _ _ ht => memoriesOk_stCommand ht (fun _ _ _ _ _ => memoriesOk_stStop))
  | streamDrained => exact memoriesOk_drained hs
  | stSave =>
    exact memoriesOk_dispatch hs (fun _ _ _ ht => memoriesOk_stCommand ht (fun _ _ _ _ _ => memoriesOk_stSave))
  | stRestore =>
    exact memoriesOk_dispatch hs (fun _ _ _ ht => memoriesOk_stCommand ht (fun _ _ _ _ _ => memoriesOk_stRestore))
  | stResync =>
    exact memoriesOk_dispatch hs (fun _ _ _ ht => memoriesOk_stCommand ht (fun _ _ _ _ _ => memoriesOk_stResync))
  | stClose =>
    exact memoriesOk_dispatch hs (fun _ _ _ ht => memoriesOk_stCommand ht (fun _ _ _ _ _ => memoriesOk_stClose))
  | vsf | vsfr => exact memoriesOk_vecSfu hs
  | vsfsel => exact memoriesOk_execVsfsel hs
  | vsfld => exact memoriesOk_execVsfld hs
  | sfuSlotWrite => exact memoriesOk_execSfuSlotWrite hs
  | sfuTableScrub => exact memoriesOk_execSfuTableScrub hs
  | sfLoad => exact memoriesOk_dispatch hs fun _ _ _ => memoriesOk_sfLoad
  | qDelete => exact memoriesOk_dispatch hs fun _ _ _ => memoriesOk_qDelete
  | qReset => exact memoriesOk_dispatch hs fun _ _ _ => memoriesOk_qReset
  | ctxSetroot => exact memoriesOk_dispatch hs fun _ _ _ => memoriesOk_ctxSetroot
  | xlateInval => exact memoriesOk_dispatch hs fun _ _ _ => memoriesOk_xlateInval
  | ctxTeardown => exact memoriesOk_dispatch hs fun _ _ _ => memoriesOk_ctxTeardown
  | progAbort => exact memoriesOk_dispatch hs fun _ _ _ => memoriesOk_progAbort
  | quotaSet => exact memoriesOk_dispatch hs fun _ _ _ => memoriesOk_quotaSet
  | reclaim => exact memoriesOk_dispatch hs fun _ _ _ => memoriesOk_reclaim
  | ctxCores => exact memoriesOk_dispatch hs fun _ _ _ => memoriesOk_ctxCores
  | ctxJob => exact memoriesOk_dispatch hs fun _ _ _ => memoriesOk_ctxJob
  | stewardRenew => exact memoriesOk_dispatch hs fun _ _ _ ht => memoriesOk_completePkt (memoriesOk_setSteward ht)
  | stewardClaim => exact memoriesOk_dispatch hs fun _ _ _ => memoriesOk_stewardClaim
  | stewardHandoff =>
    exact memoriesOk_dispatch hs fun _ _ _ ht => memoriesOk_ite (memoriesOk_completePkt (memoriesOk_setSteward ht))
      (memoriesOk_completePkt ht)
  | stewardLeaseExpiry | lppSelfRefreshEntry | smbWrite => exact memoriesOk_ite hs hs
  | bar2Read => exact memoriesOk_execBar2Read hs
  | bar2Write => exact memoriesOk_execBar2Write hs
  | atsInvalidation | pageRequestResponse | pageRequestTimeout => exact memoriesOk_ite (memoriesOk_modCtx hs) hs
  | portLinkDown => exact memoriesOk_execPortLinkDown hs
  | hotReset | flrPf => exact memoriesOk_ite (memoriesOk_resetPort hs) hs
  | flrVf => exact memoriesOk_ite (memoriesOk_resetFunctions (memoriesOk_teardown hs)) hs
  | vfEnableClear =>
    exact memoriesOk_ite (memoriesOk_resetFunctions (memoriesOk_teardownPort (memoriesOk_setPort hs))) hs
  | pcieLinkUp | vfEnableSet => exact memoriesOk_ite (memoriesOk_bringUp (memoriesOk_setPort hs)) hs
  | coldReset | powerRailsFall => exact memoriesOk_resetTo hs
  | warmReset => exact memoriesOk_ite hs (memoriesOk_warmReset hs)
  | romInit => exact memoriesOk_execRomInit hs
  | romInitComplete => exact memoriesOk_ite (memoriesOk_setBoot hs) hs
  | romInitTimeout => exact memoriesOk_ite (memoriesOk_halt hs) hs
  | mbPush => exact memoriesOk_ite (memoriesOk_mbPush hs) hs
  | mbReload => exact memoriesOk_ite (memoriesOk_mbReload hs) hs
  | mbAbort => exact memoriesOk_ite (memoriesOk_mbAbort hs) hs
  | mbcmdDiscarded => exact memoriesOk_ite (memoriesOk_mbIgnore hs) hs
  | imageLoadComplete => exact memoriesOk_execImageLoadComplete hs
  | imageVerifyComplete => exact memoriesOk_execImageVerifyComplete hs
  | firmwareReady => exact memoriesOk_execFirmwareReady hs
  | fwInitTimeout | fwInitFailure => exact memoriesOk_ite (memoriesOk_toRecovery hs) hs
  | cecmdTrigger => exact memoriesOk_execCecmdTrigger hs
  | cecmdXfer => exact memoriesOk_execCecmdXfer hs
  | cecmdReservedKind => exact memoriesOk_ceWriteStep hs fun _ _ _ => memoriesOk_refuseCe
  | copy => exact memoriesOk_execCopy hs
  | copyComplete => exact memoriesOk_execCopyComplete hs
  | cvGo | cvAbort | cvInit => exact memoriesOk_ite (memoriesOk_cvCtlWrite hs) hs
  | cvFeed => exact memoriesOk_ite (memoriesOk_cvFeed hs) hs
  | cvComplete => exact memoriesOk_execCvComplete hs
  | dataFlit => exact memoriesOk_execDataFlit hs
  | idleFlit | ctrlFlitOtherKind =>
    exact memoriesOk_ite (memoriesOk_rxStep hs (fun _ ht => ht) (fun _ => memoriesOk_modLink)) hs
  | nak => exact memoriesOk_rxCtrl hs fun _ => memoriesOk_startReplay
  | nakHoldoffExpiry | tsreqTimer => exact memoriesOk_ite (memoriesOk_modLink hs) hs
  | replayTimeout => exact memoriesOk_execReplayTimeout hs
  | param => exact memoriesOk_rxCtrl hs fun _ ht => memoriesOk_offerParam (memoriesOk_modLink ht)
  | recover => exact memoriesOk_rxCtrl hs fun _ => memoriesOk_enterRecovery
  | linkLockLoss => exact memoriesOk_ite (memoriesOk_enterRecovery hs) hs
  | flitTransmit => exact memoriesOk_execFlitTransmit hs
  | idleFlitSend => exact memoriesOk_ite hs (memoriesOk_ite (memoriesOk_setLink hs) (memoriesOk_offerParam hs))
  | linkEnable => exact memoriesOk_ite (memoriesOk_linkEnable hs) hs
  | linkDisable => exact memoriesOk_ite (memoriesOk_linkDisable hs) hs
  | linkRetrain => exact memoriesOk_ite (memoriesOk_linkRetrain hs) hs
  | linkTrainingComplete => exact memoriesOk_execLinkTrainingComplete hs
  | linkTrainingTimeout | laneDidNotTrain | linkRecoveryTimeout => exact memoriesOk_ite (memoriesOk_failLink hs) hs
  | linkRecoveryComplete => exact memoriesOk_execLinkRecoveryComplete hs
  | rtdataWrite => exact memoriesOk_ite (memoriesOk_rtDataWrite hs) hs
  | bondWrite => exact memoriesOk_ite (memoriesOk_bondWrite hs) hs
  | tamperTrip => exact memoriesOk_ite hs (memoriesOk_tamper hs)
  | keyPush => exact memoriesOk_dispatch hs fun _ _ _ => memoriesOk_keyPush
  | attest => exact memoriesOk_dispatch hs fun _ _ _ => memoriesOk_attest
  | debugUnlock => exact memoriesOk_dispatch hs fun _ _ _ => memoriesOk_debugUnlock
  | ledgerSet => exact memoriesOk_dispatch hs fun _ _ _ => memoriesOk_ledgerSet
  | dieParkComplete => exact memoriesOk_execDieParkComplete hs
  | dieUnparkComplete => exact memoriesOk_execDieUnparkComplete hs
  | dieTempSample => exact memoriesOk_ite (memoriesOk_dieSample hs) hs
  | dthermWrite => exact memoriesOk_ite (memoriesOk_dthermWrite hs) hs
  | pllLockLoss => exact memoriesOk_ite (memoriesOk_safeCause hs) hs
  | supplyMonitorTrip =>
    exact memoriesOk_ite hs (memoriesOk_ite (memoriesOk_tamper (memoriesOk_safeCause hs)) (memoriesOk_safeCause hs))
  | tlyselWrite => exact memoriesOk_ite (memoriesOk_tlySelWrite hs) hs
  | tlySnap => exact memoriesOk_ite (memoriesOk_tlySnap hs) hs
  | bwcfgWrite => exact memoriesOk_ite (memoriesOk_bwcfgWrite hs) hs
  | bwWindowEnd =>
    exact memoriesOk_ite hs (memoriesOk_ite (memoriesOk_setTly (memoriesOk_windowBytes hs)) (memoriesOk_setTly hs))
  | tlyDumpLatch => exact memoriesOk_execTlyDumpLatch hs
  | dumpRecordLanded => exact memoriesOk_execDumpRecordLanded hs
  | tlyGrant => exact memoriesOk_dispatch hs fun _ _ _ => memoriesOk_tlyGrant
  | retrainStart => exact memoriesOk_ite (memoriesOk_retrainStart hs) hs
  | retrainAttemptEnd => exact memoriesOk_execRetrainAttemptEnd hs
  | hrepairStart => exact memoriesOk_ite (memoriesOk_hrepairWrite hs) hs
  | repairCopyGranule => exact memoriesOk_execRepairCopyGranule hs
  | csrWrite => exact memoriesOk_ite (memoriesOk_csrWrite hs) hs
  | ledgerGrant => exact memoriesOk_execLedgerGrant hs
  | veRateWindowEnd =>
    exact memoriesOk_ite hs (memoriesOk_ite (memoriesOk_decideHead (memoriesOk_setCore hs)) (memoriesOk_setCore hs))
  | lppAccess => exact memoriesOk_ite hs (memoriesOk_ite (memoriesOk_lppAccess hs) hs)
  | smbPhase | smbSafe | smbPart | smbStepping | smbDieTemp | smbStackTemp | smbLedgerUsed | smbLedgerLimit =>
    exact memoriesOk_smbAnswer hs
  | bypass => exact memoriesOk_ite hs (memoriesOk_selectBypass hs)
  | idcode => exact memoriesOk_ite hs (memoriesOk_jtag hs)
  | samplePreload => exact memoriesOk_ite hs (memoriesOk_with (memoriesOk_jtag hs))
  | extest => exact memoriesOk_ite hs (memoriesOk_ite (memoriesOk_jtag hs) (memoriesOk_selectBypass hs))
  | dbgacc => exact memoriesOk_ite hs (memoriesOk_debugAccess hs)
  | selfTestDue | selfTestSuspend => exact memoriesOk_ite (memoriesOk_setTest hs) hs
  | selfTestResult => exact memoriesOk_execSelfTestResult hs
  | coreTestComplete => exact memoriesOk_ite (memoriesOk_record (memoriesOk_with (memoriesOk_clearedCore hs))) hs
  | casoriLockstepMismatch | casoriWatchdogExpiry => exact memoriesOk_ite hs (memoriesOk_safeCause hs)
  | tsreq => exact memoriesOk_rxCtrl hs fun _ => memoriesOk_modLink
  | tsrsp => exact memoriesOk_rxCtrl hs fun _ ht => memoriesOk_ite ht (memoriesOk_applyOffset (memoriesOk_freeNat ht))
  | vld => exact memoriesOk_execVld hs
  | vst => exact memoriesOk_execVst hs
  | vgather => exact memoriesOk_execVgather hs
  | vscatter => exact memoriesOk_execVscatter hs
  | vred => exact memoriesOk_execVred hs

theorem memoriesOk_step (hs : s.memoriesOk) : Res.memoriesOk (step s) := by
  unfold step
  split
  · exact memoriesOk_idleTick hs
  · exact memoriesOk_exec (memoriesOk_with hs)

end Sys2Proof.Machine

/-- Settles O60: every operation keeps the canonical form, so every command and the idle tick do. -/
theorem stepKeepsMemories : Obligations.StepKeepsMemories := by
  unfold Obligations.StepKeepsMemories
  intro s s' hs e
  have h := memoriesOk_step hs
  rwa [e] at h

end

section
/-! PROOFS. What reset leaves: every table of the reset state is empty, so that a unit reads as its own reset value. -/

namespace Sys2Proof.Machine

theorem memoriesOk_reset : State.reset.memoriesOk := ⟨rfl, rfl, rfl⟩

theorem core_reset (c : Nat) : State.reset.core c = .reset := rfl

theorem Core.st_stream_reset (t : Nat) : (Core.reset.stream t).st = .idle := by
  unfold Core.stream
  split
  · rfl
  · split <;> rfl

theorem Core.half_mxa_reset (a x : Nat) : (Core.reset.mxa a).half x = .reset := by
  unfold Core.mxa Mxa.half
  split <;> split <;> rfl

theorem ce_reset (e : Nat) : State.reset.ce e = .reset := by
  unfold State.ce
  split <;> rfl

/-- Settles O58: the parts outside the tables hold their reset values, and the tables are empty. -/
theorem resetState : Obligations.ResetState := by
  unfold Obligations.ResetState
  refine ⟨memoriesOk_reset, rfl, rfl, rfl, rfl, rfl, fun _ => rfl, fun _ => rfl, fun _ => rfl, fun c t => ?_,
    fun _ _ => rfl, fun c a x => ?_, fun _ => ⟨rfl, rfl⟩, fun _ => rfl, fun e h => ?_, rfl, rfl⟩
  · rw [core_reset]
    exact ⟨rfl, Core.st_stream_reset t⟩
  · rw [core_reset, Core.half_mxa_reset]
    exact ⟨rfl, rfl⟩
  · rw [ce_reset]
    exact ⟨rfl, rfl⟩

end Sys2Proof.Machine
end

section
/-! SUPPORT. The states of HBM stacks: reading memory that was written, what a change of one stack leaves, and what an
event of a stack leaves unchanged. -/

namespace Sys2Proof.Machine

/-! ### Memory: reading what was written -/

theorem look_putRange_outside {α : Type} [DecidableEq α] (d : α) {a lo : Nat} (vs : List α) (t : Table α)
    (h : a < lo ∨ lo + vs.length ≤ a) : look d a (putRange d lo vs t) = look d a t := by
  induction vs generalizing lo t with
  | nil => rfl
  | cons v vs ih =>
    rw [List.length_cons] at h
    unfold putRange
    rw [ih _ (by omega), look_put_other d (by omega)]

theorem lookRange_cons {α : Type} (d : α) (lo n : Nat) (t : Table α) :
    lookRange d lo (n + 1) t = look d lo t :: lookRange d (lo + 1) n t := by
  simp only [lookRange, upFrom, List.range_succ_eq_map, List.map_cons, List.map_map, Nat.add_zero]
  congr 1
  exact List.map_congr_left fun i _ => by simp [Nat.add_assoc, Nat.add_comm 1]

theorem lookRange_putRange {α : Type} [DecidableEq α] (d : α) (lo : Nat) (vs : List α) (t : Table α) :
    lookRange d lo vs.length (putRange d lo vs t) = vs := by
  induction vs generalizing lo t with
  | nil => rfl
  | cons v vs ih =>
    unfold putRange
    rw [List.length_cons, lookRange_cons, ih, look_putRange_outside d vs _ (by omega), look_put_same]

theorem erase_insertAt {α : Type} (k : Nat) (v : α) (t : Table α) : erase k (insertAt k v t) = erase k t := by
  induction t with
  | nil => simp [insertAt, erase]
  | cons p t ih =>
    obtain ⟨a, w⟩ := p
    unfold insertAt
    split
    · simp [erase]
    · simp only [erase, ih]

theorem erase_erase {α : Type} (k : Nat) (t : Table α) : erase k (erase k t) = erase k t := by
  induction t with
  | nil => rfl
  | cons p t ih =>
    obtain ⟨a, w⟩ := p
    by_cases h : a = k <;> simp [erase, h, ih]

theorem put_put {α : Type} [DecidableEq α] (d : α) (k : Nat) (v w : α) (t : Table α) :
    put d k w (put d k v t) = put d k w t := by
  have h : erase k (put d k v t) = erase k t := by
    unfold put
    split
    · exact erase_erase k t
    · rw [erase_insertAt, erase_erase]
  rw [put, h, put]

theorem bytes_poke (s : State) (pa : Nat) (bs : List Byte) : (s.poke pa bs).bytes pa bs.length = bs :=
  lookRange_putRange 0 pa bs s.mem

theorem sameMemoryBut_poke (s : State) (pa : Nat) (bs : List Byte) : sameMemoryBut pa bs.length s (s.poke pa bs) :=
  fun _ h => look_putRange_outside 0 bs s.mem h

theorem sameMemory_of_mem {s s' : State} (h : s'.mem = s.mem) : sameMemory s s' := fun a => by
  rw [State.byte, State.byte, h]

/-! ### Nothing but one stack -/

/-- Nothing but stack k changed. -/
def onlyStack (k : Nat) (s s' : State) : Prop :=
  sameMemory s s' ∧ (∀ j, j ≠ k → s'.stack j = s.stack j) ∧ { s' with hbms := s.hbms } = s

theorem onlyStack_setStack (s : State) (k : Nat) (x : Stack) : onlyStack k s (s.setStack k x) :=
  ⟨fun _ => rfl, fun _ h => by rw [State.stack_setStack, if_neg h], rfl⟩

theorem onlyStack_modStack {s s' : State} (h : onlyStack k s s') (f : Stack → Stack) :
    onlyStack k s (s'.modStack k f) := by
  obtain ⟨hm, hj, hs⟩ := h
  exact ⟨hm, fun j hjk => by rw [State.stack_modStack, if_neg hjk, hj j hjk], hs⟩

theorem stack_setStack_same (s : State) (k : Nat) (x : Stack) : (s.setStack k x).stack k = x := by
  rw [State.stack_setStack, if_pos rfl]

theorem stack_modStack_same (s : State) (k : Nat) (f : Stack → Stack) : (s.modStack k f).stack k = f (s.stack k) := by
  rw [State.stack_modStack, if_pos rfl]

theorem setStack_setStack (s : State) (k : Nat) (x y : Stack) : (s.setStack k x).setStack k y = s.setStack k y := by
  simp only [State.setStack, put_put]

theorem State.poke_setStack (s : State) (k : Nat) (x : Stack) (pa : Nat) (bs : List Byte) :
    (s.setStack k x).poke pa bs = (s.poke pa bs).setStack k x := rfl

/-! ### Events leave memory and the stacks -/

@[simp] theorem record_mem (s : State) (e : Event) : (record s e).mem = s.mem :=
  (congrArg State.mem (recorded_record s e).1 :)

@[simp] theorem stack_record (s : State) (e : Event) (j : Nat) : (record s e).stack j = s.stack j :=
  (congrArg (State.stack · j) (recorded_record s e).1 :)

@[simp] theorem record_wrptr (s : State) (e : Event) :
    (record s e).agg.wrptr = s.agg.wrptr + 1 := (recorded_record s e).2

@[simp] theorem recordCorrected_mem (s : State) (cls : SrcClass) (i u a : Nat) :
    (recordCorrected s cls i u a).mem = s.mem := by
  unfold recordCorrected
  dsimp only
  split <;> split
  · rfl
  · exact record_mem _ _
  · rfl
  · exact record_mem _ _

@[simp] theorem stack_recordCorrected (s : State) (cls : SrcClass) (i u a j : Nat) :
    (recordCorrected s cls i u a).stack j = s.stack j := by
  unfold recordCorrected
  dsimp only
  split <;> split
  · rfl
  · exact stack_record _ _ _
  · rfl
  · exact stack_record _ _ _

@[simp] theorem closeFault_mem (s : State) (k p : Nat) : (closeFault s k p).mem = s.mem := record_mem _ _

@[simp] theorem ucnt_closeFault (s : State) (k p : Nat) : ((closeFault s k p).stack k).ucnt = (s.stack k).ucnt := by
  unfold closeFault
  rw [stack_record, stack_modStack_same]

@[simp] theorem startRepair_mem (s : State) (k p : Nat) (copy : Bool) : (startRepair s k p copy).mem = s.mem := by
  cases copy with
  | false => exact record_mem _ _
  | true => rfl

@[simp] theorem ucnt_startRepair (s : State) (k p : Nat) (copy : Bool) :
    ((startRepair s k p copy).stack k).ucnt = (s.stack k).ucnt := by
  cases copy with
  | false =>
    rw [startRepair, if_neg (by decide), stack_record, stack_modStack_same]
    rfl
  | true =>
    rw [startRepair, if_pos rfl, stack_modStack_same]
    rfl

@[simp] theorem pcFailed_mem (s : State) (k p : Nat) (readable : Bool) : (pcFailed s k p readable).mem = s.mem := by
  unfold pcFailed
  dsimp only
  split
  · simp
  · split <;> simp

@[simp] theorem ucnt_pcFailed (s : State) (k p : Nat) (readable : Bool) :
    ((pcFailed s k p readable).stack k).ucnt = (s.stack k).ucnt := by
  unfold pcFailed
  dsimp only
  split
  · simp [Stack.setPc]
  · split <;> simp [Stack.setPc]

@[simp] theorem noteUncorr_mem (s : State) (k sec src : Nat) : (noteUncorr s k sec src).mem = s.mem := by
  unfold noteUncorr
  dsimp only
  split <;> simp

/-- An uncorrectable error is counted in UCNT, whatever becomes of its pseudo-channel (R329, R348). -/
theorem ucnt_noteUncorr (s : State) (k sec src : Nat) :
    ((noteUncorr s k sec src).stack k).ucnt = satInc 16 (s.stack k).ucnt := by
  unfold noteUncorr
  dsimp only
  split <;> simp [Stack.setPc]

@[simp] theorem noteCorrected_mem (s : State) (k sec : Nat) : (noteCorrected s k sec).mem = s.mem :=
  recordCorrected_mem _ _ _ _ _

/-- A corrected error changes a stack's CCNT and its record of the pseudo-channel, nothing else of it (R329, R338). -/
theorem stack_noteCorrected (s : State) (k sec : Nat) :
    ∃ t, (noteCorrected s k sec).stack k = { s.stack k with pcs := t, ccnt := satInc 32 (s.stack k).ccnt } := by
  unfold noteCorrected
  simp only [stack_recordCorrected, stack_modStack_same]
  exact ⟨_, rfl⟩

end Sys2Proof.Machine
end

section
/-! PROOFS. Requests to an HBM stack, its share window, its scrub and its refresh. -/

namespace Sys2Proof.Machine

variable {s t : State} {k off sec : Nat} {src : HbmSource} {r : HbmReq} {x : Stack} {w : HbmWait}

/-! ### What a read or a write of a sector meets (R329, R330) -/

/-- A read of the sector meets an error (R329). -/
def Stack.marked (x : Stack) (sec : Nat) : Bool := x.isPoisoned sec || x.isLost sec || x.uncorr.has sec

theorem Stack.marked_eq_false_iff :
    x.marked sec = false ↔ x.isPoisoned sec = false ∧ (x.isLost sec || x.uncorr.has sec) = false := by
  simp [Stack.marked, and_assoc]

theorem readSector_poisoned (n : Nat) (hp : (s.stack k).isPoisoned sec = true) :
    ∃ e, readSector s k sec n = (record s e, some Code.eccUncorr) := by
  unfold readSector
  rw [if_pos hp]
  exact ⟨_, rfl⟩

theorem readSector_uncorr (n : Nat) (hp : (s.stack k).isPoisoned sec = false) (hu : (s.stack k).uncorr.has sec = true) :
    readSector s k sec n = (noteUncorr s k sec n, some Code.eccUncorr) := by
  simp [readSector, hp, hu]

theorem readSector_unmarked (n : Nat) (hm : (s.stack k).marked sec = false) :
    readSector s k sec n = (if (s.stack k).soft.has sec = true then noteCorrected s k sec else s, none) := by
  obtain ⟨hp, hu⟩ := Stack.marked_eq_false_iff.1 hm
  simp only [readSector, hp, hu]
  cases (s.stack k).soft.has sec <;> rfl

theorem readSector_unmarked_keeps (n : Nat) (hm : (s.stack k).marked sec = false) :
    ∃ t, readSector s k sec n = (t, none) ∧ t.mem = s.mem ∧ (t.stack k).scrubPtr = (s.stack k).scrubPtr := by
  rw [readSector_unmarked n hm]
  refine ⟨_, rfl, ?_⟩
  split
  · obtain ⟨q, hq⟩ := stack_noteCorrected s k sec
    exact ⟨noteCorrected_mem s k sec, by rw [hq]⟩
  · exact ⟨rfl, rfl⟩

theorem runReq_read_ok (h : readSector s k (off / 32) 1 = (t, none)) (ho : off % 32 = 0) :
    runReq s k (.read off) = t.modStack k fun x => { x with rsp := ⟨Code.ok, t.bytes (hbmPa k off) 32⟩ } := by
  simp only [runReq, h, Nat.div_mul_cancel (Nat.dvd_of_mod_eq_zero ho)]

theorem runReq_read_error {e : Byte} (h : readSector s k (off / 32) 1 = (t, some e)) :
    runReq s k (.read off) = t.modStack k fun x => { x with rsp := ⟨e, []⟩ } := by
  simp only [runReq, h]

/-- The stack whose sector is written whole, or only cleared of its correctable error. -/
def Stack.written (x : Stack) (sec : Nat) (whole : Bool) : Stack :=
  if whole then x.clearSector sec else { x with soft := x.soft.del sec }

/-- A write that covers the sector, or that meets no error, is carried out (R330). -/
theorem writeSector_done {whole : Bool}
    (h : whole = true ∨ ((s.stack k).marked sec = false ∧ (s.stack k).soft.has sec = false)) :
    writeSector s k sec whole = (s.modStack k fun x => x.written sec whole, true) := by
  cases whole with
  | true => rfl
  | false =>
    obtain ⟨hm, hs⟩ := h.resolve_left Bool.false_ne_true
    simp [writeSector, readSector_unmarked 2 hm, hs, Stack.written]

theorem Stack.isPoisoned_clearSector (x : Stack) (sec : Nat) : (x.clearSector sec).isPoisoned sec = false := by
  unfold Stack.isPoisoned Stack.clearSector
  cases x.noCopy && decide (x.repPc = some (pcOf (sec * 32))) <;> simp

/-- A sector that was written has no mark left (R330). -/
theorem Stack.written_unmarked {whole : Bool} (h : whole = true ∨ x.marked sec = false) :
    (x.written sec whole).isPoisoned sec = false ∧ (x.written sec whole).uncorr.has sec = false ∧
      (x.written sec whole).soft.has sec = false := by
  cases whole with
  | true =>
    refine ⟨x.isPoisoned_clearSector sec, ?_, ?_⟩ <;> simp [Stack.written, Stack.clearSector]
  | false =>
    obtain ⟨hp, hu⟩ := Stack.marked_eq_false_iff.1 (h.resolve_left Bool.false_ne_true)
    exact ⟨hp, (Bool.or_eq_false_iff.1 hu).2, by simp [Stack.written]⟩

theorem runReq_write {start : Nat} {bytes : List Byte} (ho : off % 32 = 0)
    (h : writeSector s k (off / 32) (decide (bytes.length = 32)) = (t, true)) :
    runReq s k (.write off start bytes) =
      (t.poke (hbmPa k off + start) bytes).modStack k fun x => { x with rsp := ⟨Code.ok, []⟩ } := by
  have e : hbmPa k (off + start) = hbmPa k off + start := (Nat.add_assoc _ _ _).symm
  simp only [runReq, h, Nat.div_mul_cancel (Nat.dvd_of_mod_eq_zero ho), e]

/-! ### Where a request goes (R20, R324, R335, R338) -/

theorem request_gated {e : Byte} (hk : s.hasStack k = true) (hr : r.ok (s.stack k) = true)
    (hg : (s.stack k).gate = some e) : request s k src r = s.setStack k { s.stack k with rsp := ⟨e, []⟩ } := by
  simp [request, hk, hr, hg]

theorem request_held (hk : s.hasStack k = true) (hr : r.ok (s.stack k) = true) (hg : (s.stack k).gate = none)
    (hf : ∃ v ∈ (s.stack k).fabric, v.src = src) :
    request s k src r = s.setStack k { s.stack k with fabric := (s.stack k).fabric ++ [⟨src, r⟩] } := by
  have ha : ((s.stack k).fabric.any fun v => decide (v.src = src)) = true := by simpa using hf
  simp [request, hk, hr, hg, ha]

theorem request_accepted (hk : s.hasStack k = true) (hr : r.ok (s.stack k) = true) (hg : (s.stack k).gate = none)
    (hf : ∀ v ∈ (s.stack k).fabric, v.src ≠ src) : request s k src r = acceptReq s k ⟨src, r⟩ := by
  have ha : ((s.stack k).fabric.any fun v => decide (v.src = src)) = false := by simpa using hf
  simp [request, hk, hr, hg, ha]

theorem acceptReq_training (h : (s.stack k).training = some ((s.stack k).home w.req.off)) :
    acceptReq s k w = s.setStack k ((s.stack k).enqueue ((s.stack k).home w.req.off) w) := if_pos h

theorem Stack.enqueue_room {p : Nat} (h : (x.pc p).queue.length < 256) :
    x.enqueue p w = x.setPc p { x.pc p with queue := (x.pc p).queue ++ [w] } := if_pos h

theorem Stack.enqueue_full {p : Nat} (h : 256 ≤ (x.pc p).queue.length) :
    x.enqueue p w = { x with fabric := x.fabric ++ [w] } := if_neg (Nat.not_lt.2 h)

theorem serveWaiting_spent (fuel : Nat) (h : (s.stack k).cap ≤ (s.stack k).window.total) :
    serveWaiting fuel s k = s := by
  cases fuel with
  | zero => rfl
  | succ n => exact if_pos h

theorem acceptReq_spent (ht : (s.stack k).training ≠ some ((s.stack k).home w.req.off))
    (hc : (s.stack k).cap ≤ (s.stack k).window.total) :
    acceptReq s k w = s.setStack k { s.stack k with waiting := (s.stack k).waiting ++ [w] } := by
  have hlt : ¬(s.stack k).window.total < (s.stack k).cap := Nat.not_lt.2 hc
  simp only [acceptReq, if_neg ht, hlt, decide_false, Bool.and_false, Bool.false_eq_true, if_false, serveAll]
  exact serveWaiting_spent _ (by rw [stack_setStack_same]; exact hc)

theorem acceptReq_served (ht : (s.stack k).training ≠ some ((s.stack k).home w.req.off))
    (hc : (s.stack k).window.total < (s.stack k).cap) (hw : (s.stack k).waiting = []) :
    acceptReq s k w = runReq (s.setStack k ((s.stack k).take w.src)) k w.req := by
  simp [acceptReq, if_neg ht, hc, hw]

/-- The stack serves a request of a source for an offset at once (R324, R335, R338). -/
structure Stack.Serves (x : Stack) (src : HbmSource) (off : Nat) : Prop where
  gate : x.gate = none
  fabric : ∀ v ∈ x.fabric, v.src ≠ src
  training : x.training ≠ some (x.home off)
  window : x.window.total < x.cap
  waiting : x.waiting = []

/-- The stack that a fault strikes at a sector: the mark that the next read meets (R328). -/
def Stack.struck (x : Stack) (sec : Nat) : SectorStrike → Stack
  | .single => { x with soft := x.soft.add sec }
  | .uncorrectable => { x with uncorr := x.uncorr.add sec }
  | _ => x

theorem strikeSector_single (s : State) (k sec : Nat) :
    strikeSector s k sec .single = s.setStack k ((s.stack k).struck sec .single) := rfl

theorem strikeSector_uncorrectable (s : State) (k sec : Nat) :
    strikeSector s k sec .uncorrectable = s.setStack k ((s.stack k).struck sec .uncorrectable) := rfl

theorem Stack.Serves.struck (h : x.Serves src off) (sec : Nat) (st : SectorStrike) :
    (x.struck sec st).Serves src off := by
  cases st with
  | clean | onDie | single | uncorrectable => exact ⟨h.gate, h.fabric, h.training, h.window, h.waiting⟩

theorem Stack.size_struck (x : Stack) (sec : Nat) (st : SectorStrike) : (x.struck sec st).size = x.size := by
  cases st with
  | clean | onDie | single | uncorrectable => rfl

theorem request_served (hk : s.hasStack k = true) (hr : r.ok (s.stack k) = true) (h : (s.stack k).Serves src r.off) :
    request s k src r = runReq (s.setStack k ((s.stack k).take src)) k r :=
  (request_accepted hk hr h.gate h.fabric).trans (acceptReq_served h.training h.window h.waiting)

/-- Serving a sector counts it in the window and moves a round robin on, nothing else (R324). -/
theorem Stack.take_eq (x : Stack) (src : HbmSource) :
    ∃ v a b, x.take src = { x with window := v, lastPrio := a, lastNorm := b } ∧ v.total = x.window.total + 1 := by
  have hs : ∃ v, x.serve src = { x with window := v } ∧ v.total = x.window.total + 1 := by
    unfold Stack.serve
    dsimp only
    split
    · exact ⟨_, rfl, rfl⟩
    · split
      · split <;> exact ⟨_, rfl, rfl⟩
      · exact ⟨_, rfl, rfl⟩
  obtain ⟨v, hv, ht⟩ := hs
  simp only [Stack.take, hv]
  exact ⟨v, _, _, rfl, ht⟩

@[simp] theorem Stack.isPoisoned_take (x : Stack) (src : HbmSource) (sec : Nat) :
    (x.take src).isPoisoned sec = x.isPoisoned sec := by
  obtain ⟨v, a, b, h, -⟩ := x.take_eq src
  rw [h]
  rfl

@[simp] theorem Stack.marked_take (x : Stack) (src : HbmSource) (sec : Nat) :
    (x.take src).marked sec = x.marked sec := by
  obtain ⟨v, a, b, h, -⟩ := x.take_eq src
  rw [h]
  rfl

@[simp] theorem Stack.uncorr_take (x : Stack) (src : HbmSource) : (x.take src).uncorr = x.uncorr := by
  obtain ⟨v, a, b, h, -⟩ := x.take_eq src
  rw [h]

@[simp] theorem Stack.soft_take (x : Stack) (src : HbmSource) : (x.take src).soft = x.soft := by
  obtain ⟨v, a, b, h, -⟩ := x.take_eq src
  rw [h]

@[simp] theorem Stack.ucnt_take (x : Stack) (src : HbmSource) : (x.take src).ucnt = x.ucnt := by
  obtain ⟨v, a, b, h, -⟩ := x.take_eq src
  rw [h]

@[simp] theorem Stack.ccnt_take (x : Stack) (src : HbmSource) : (x.take src).ccnt = x.ccnt := by
  obtain ⟨v, a, b, h, -⟩ := x.take_eq src
  rw [h]

/-! ### Carrying out a request (R329, R330) -/

section Read
variable (ho : off % 32 = 0)
include ho

/-- A served read of a sector without error latches its bytes and counts the sector (R329). -/
theorem runReq_read_clean (hm : (s.stack k).marked (off / 32) = false) (hs : (s.stack k).soft.has (off / 32) = false) :
    runReq s k (.read off) = s.modStack k fun x => { x with rsp := ⟨Code.ok, s.bytes (hbmPa k off) 32⟩ } :=
  runReq_read_ok ((readSector_unmarked 1 hm).trans (by rw [hs]; rfl)) ho

theorem runReq_read_soft (hm : (s.stack k).marked (off / 32) = false) (hs : (s.stack k).soft.has (off / 32) = true) :
    sameMemory s (runReq s k (.read off)) ∧
      ((runReq s k (.read off)).stack k).rsp = ⟨Code.ok, s.bytes (hbmPa k off) 32⟩ ∧
      ((runReq s k (.read off)).stack k).ccnt = satInc 32 (s.stack k).ccnt := by
  obtain ⟨q, hq⟩ := stack_noteCorrected s k (off / 32)
  rw [runReq_read_ok ((readSector_unmarked 1 hm).trans (by rw [if_pos hs])) ho]
  refine ⟨sameMemory_of_mem (noteCorrected_mem s k _), ?_, ?_⟩
  · rw [stack_modStack_same, State.bytes, noteCorrected_mem]
    rfl
  · rw [stack_modStack_same, hq]

end Read

theorem runReq_read_poisoned (hp : (s.stack k).isPoisoned (off / 32) = true) :
    sameMemory s (runReq s k (.read off)) ∧ ((runReq s k (.read off)).stack k).rsp = ⟨Code.eccUncorr, []⟩ ∧
      (runReq s k (.read off)).agg.wrptr = s.agg.wrptr + 1 := by
  obtain ⟨e, he⟩ := readSector_poisoned 1 hp
  rw [runReq_read_error he]
  exact ⟨sameMemory_of_mem (record_mem s e), by rw [stack_modStack_same], record_wrptr s e⟩

theorem runReq_read_uncorr (hp : (s.stack k).isPoisoned (off / 32) = false)
    (hu : (s.stack k).uncorr.has (off / 32) = true) :
    sameMemory s (runReq s k (.read off)) ∧ ((runReq s k (.read off)).stack k).rsp = ⟨Code.eccUncorr, []⟩ ∧
      ((runReq s k (.read off)).stack k).ucnt = satInc 16 (s.stack k).ucnt := by
  rw [runReq_read_error (readSector_uncorr 1 hp hu)]
  refine ⟨sameMemory_of_mem (noteUncorr_mem s k _ 1), by rw [stack_modStack_same], ?_⟩
  rw [stack_modStack_same]
  exact ucnt_noteUncorr s k _ 1

/-- A served write puts its bytes into memory and leaves its sector without a mark (R330). -/
theorem runReq_write_done {start : Nat} {bytes : List Byte} (ho : off % 32 = 0)
    (h : bytes.length = 32 ∨ ((s.stack k).marked (off / 32) = false ∧ (s.stack k).soft.has (off / 32) = false)) :
    runReq s k (.write off start bytes) =
      (s.poke (hbmPa k off + start) bytes).setStack k
        { (s.stack k).written (off / 32) (decide (bytes.length = 32)) with rsp := ⟨Code.ok, []⟩ } := by
  rw [runReq_write ho (writeSector_done (by simpa using h))]
  simp only [State.modStack, State.poke_setStack, setStack_setStack, stack_setStack_same]

/-! ### The share window (R324) -/

theorem Stack.classOf_cases (x : Stack) (src : HbmSource) :
    x.classOf src = 0 ∨ x.classOf src = 1 ∨ x.classOf src = 2 := by
  unfold Stack.classOf
  split
  · exact .inl rfl
  · split
    · split
      · exact .inr (.inl rfl)
      · exact .inr (.inr rfl)
    · exact .inr (.inr rfl)

/-- A request that waits alone is the one to serve next, whatever its class. -/
theorem Stack.pick_singleton (h : x.waiting = [w]) : x.pick = some w := by
  have hh : x.heads = [w] := by simp [Stack.heads, h]
  unfold Stack.pick
  rw [hh]
  obtain hc | hc | hc := x.classOf_cases w.src <;> simp [hc, roundRobin]

theorem Stack.cap_pos (x : Stack) : 0 < x.cap := by
  unfold Stack.cap
  split
  · decide
  · split <;> decide

theorem becomes_hbmShareWindow_none (hk : s.hasStack k = true) (hw : (s.stack k).waiting = []) :
    becomes (.hbmShareWindow k) s (s.setStack k { s.stack k with window := ⟨0, [], 0⟩ }) := by
  refine ⟨_, congrArg (fun t : State => (.next t : Res)) (if_pos hk), ?_⟩
  unfold serveAll
  rw [stack_modStack_same, hw]
  rfl

theorem becomes_hbmShareWindow_one (hk : s.hasStack k = true) (hw : (s.stack k).waiting = [w])
    (ht : (s.stack k).training ≠ some ((s.stack k).home w.req.off)) :
    becomes (.hbmShareWindow k) s
      (runReq (s.setStack k (({ s.stack k with window := ⟨0, [], 0⟩, waiting := [] } : Stack).take w.src)) k
        w.req) := by
  refine ⟨_, congrArg (fun t : State => (.next t : Res)) (if_pos hk), ?_⟩
  have hpick : ({ s.stack k with window := ⟨0, [], 0⟩ } : Stack).pick = some w := Stack.pick_singleton hw
  unfold serveAll
  rw [stack_modStack_same, hw]
  simp only [List.length_singleton, serveWaiting, stack_modStack_same]
  rw [if_neg (Nat.not_le.2 (Stack.cap_pos _)), hpick]
  simp only [hw, List.erase_cons_head, State.modStack, setStack_setStack]
  exact if_neg ht

/-! ### Scrub (R331) -/

/-- The stack once the scrub has taken its sector: the pointer moves on and the window counts a sector. -/
def Stack.scrubbing (x : Stack) : Stack :=
  { x with
    scrubPtr := if (x.scrubPtr + 1) * 32 < x.size then x.scrubPtr + 1 else 0
    window := { x.window with total := x.window.total + 1 } }

theorem scrub_unmarked (hm : (s.stack k).marked (s.stack k).scrubPtr = false) :
    sameMemory s (scrub s k) ∧ ((scrub s k).stack k).soft.has (s.stack k).scrubPtr = false ∧
      ((scrub s k).stack k).scrubPtr = (s.stack k).scrubbing.scrubPtr := by
  have hm' : ((s.setStack k (s.stack k).scrubbing).stack k).marked (s.stack k).scrubPtr = false := by
    rw [stack_setStack_same]
    exact hm
  obtain ⟨t, ht, hmem, hptr⟩ := readSector_unmarked_keeps 3 hm'
  rw [stack_setStack_same] at hptr
  have he : scrub s k = t.modStack k fun y => { y with soft := y.soft.del (s.stack k).scrubPtr } := by
    unfold scrub
    dsimp only
    unfold Stack.scrubbing at ht
    rw [ht]
  rw [he, stack_modStack_same]
  exact ⟨sameMemory_of_mem hmem, by simp, hptr⟩

/-- The scrub of an uncorrectable sector poisons it, whatever becomes of its pseudo-channel. -/
theorem scrub_uncorr (hp : (s.stack k).isPoisoned (s.stack k).scrubPtr = false)
    (hu : (s.stack k).uncorr.has (s.stack k).scrubPtr = true) :
    sameMemory s (scrub s k) ∧ ((scrub s k).stack k).poison.has (s.stack k).scrubPtr = true ∧
      ((scrub s k).stack k).uncorr.has (s.stack k).scrubPtr = false := by
  have ht : readSector (s.setStack k (s.stack k).scrubbing) k (s.stack k).scrubPtr 3 =
      (noteUncorr (s.setStack k (s.stack k).scrubbing) k (s.stack k).scrubPtr 3, some Code.eccUncorr) :=
    readSector_uncorr 3 (by rw [stack_setStack_same]; exact hp) (by rw [stack_setStack_same]; exact hu)
  have he : scrub s k = (noteUncorr (s.setStack k (s.stack k).scrubbing) k (s.stack k).scrubPtr 3).modStack k fun y =>
      { y with poison := y.poison.add (s.stack k).scrubPtr, uncorr := y.uncorr.del (s.stack k).scrubPtr } := by
    unfold scrub
    dsimp only
    unfold Stack.scrubbing at ht ⊢
    rw [ht]
    exact if_pos (by simp [hp, hu])
  rw [he, stack_modStack_same]
  exact ⟨sameMemory_of_mem (by rw [State.modStack_mem, noteUncorr_mem, State.setStack_mem]), by simp, by simp⟩

theorem exec_hbmScrubRead (hk : s.hasStack k = true) (hs : (s.stack k).state = .opened)
    (hc : (s.stack k).closing = false)
    (hh : (s.stack k).scrubH ≠ 0) (ht : (s.stack k).training ≠ some ((s.stack k).home ((s.stack k).scrubPtr * 32)))
    (hw : (s.stack k).window.total < (s.stack k).cap) : exec (.hbmScrubRead k) s = .next (scrub s k) :=
  congrArg (fun t : State => (.next t : Res)) (if_pos (by simpa [hk, hs, hc, ht, hw] using hh))

/-! ### A request of a powered stack -/

theorem HbmReq.ok_read (ho : off % 32 = 0) (hs : off < x.size) : (HbmReq.read off).ok x = true := by
  simp [HbmReq.ok, ho, hs]

theorem exec_hbmSectorRead (hp : s.powered = true) (hk : s.hasStack k = true)
    (hr : (HbmReq.read off).ok (s.stack k) = true) (st : SectorStrike) :
    exec (.hbmSectorRead k off ⟨src, st⟩) s = .next (request (strikeSector s k (off / 32) st) k src (.read off)) := by
  refine congrArg (fun t : State => (.next t : Res)) (if_pos ?_)
  simp [hp, hk, hr]

theorem exec_hbmSectorWrite {bytes : List Byte} {start : Nat} (hp : s.powered = true) :
    exec (.hbmSectorWrite k off src bytes start) s = .next (request s k src (.write off start bytes)) :=
  congrArg (fun t : State => (.next t : Res)) (if_pos hp)

section Requests
variable (hp : s.powered = true) (hk : s.hasStack k = true) (ho : off % 32 = 0) (hs : off < (s.stack k).size)
include hp hk ho hs

theorem exec_hbmSectorRead_clean :
    exec (.hbmSectorRead k off ⟨src, .clean⟩) s = .next (request s k src (.read off)) :=
  exec_hbmSectorRead hp hk (HbmReq.ok_read ho hs) .clean

/-- A read whose request only changes its stack does no more. -/
theorem completes_hbmSectorRead_of_setStack (h : request s k src (.read off) = s.setStack k x) :
    completes (.hbmSectorRead k off ⟨src, .clean⟩) s fun s s' => onlyStack k s s' ∧ s'.stack k = x :=
  ⟨_, exec_hbmSectorRead_clean hp hk ho hs, by
    rw [h]
    exact ⟨onlyStack_setStack s k x, stack_setStack_same s k x⟩⟩

theorem completes_hbmSectorRead_training (hg : (s.stack k).gate = none) (hf : ∀ v ∈ (s.stack k).fabric, v.src ≠ src)
    (ht : (s.stack k).training = some ((s.stack k).home off)) :
    completes (.hbmSectorRead k off ⟨src, .clean⟩) s fun s s' =>
      onlyStack k s s' ∧ s'.stack k = (s.stack k).enqueue ((s.stack k).home off) ⟨src, .read off⟩ :=
  completes_hbmSectorRead_of_setStack hp hk ho hs
    ((request_accepted hk (HbmReq.ok_read ho hs) hg hf).trans (acceptReq_training ht))

variable (hv : (s.stack k).Serves src off)
include hv

theorem completes_hbmSectorRead_served_clean (hm : (s.stack k).marked (off / 32) = false)
    (hso : (s.stack k).soft.has (off / 32) = false) :
    completes (.hbmSectorRead k off ⟨src, .clean⟩) s fun s s' =>
      onlyStack k s s' ∧ s'.stack k = { (s.stack k).take src with rsp := ⟨Code.ok, s.bytes (hbmPa k off) 32⟩ } := by
  refine ⟨_, exec_hbmSectorRead_clean hp hk ho hs, ?_⟩
  rw [request_served hk (HbmReq.ok_read ho hs) hv, runReq_read_clean ho]
  · exact ⟨onlyStack_modStack (onlyStack_setStack s k _) _, by rw [stack_modStack_same, stack_setStack_same]; rfl⟩
  · rwa [stack_setStack_same, Stack.marked_take]
  · rwa [stack_setStack_same, Stack.soft_take]

theorem completes_hbmSectorRead_served_poisoned (hm : (s.stack k).isPoisoned (off / 32) = true) :
    completes (.hbmSectorRead k off ⟨src, .clean⟩) s fun s s' =>
      sameMemory s s' ∧ (s'.stack k).rsp = ⟨Code.eccUncorr, []⟩ ∧ s'.agg.wrptr = s.agg.wrptr + 1 := by
  refine ⟨_, exec_hbmSectorRead_clean hp hk ho hs, ?_⟩
  rw [request_served hk (HbmReq.ok_read ho hs) hv]
  exact runReq_read_poisoned (s := s.setStack k ((s.stack k).take src))
    (by rwa [stack_setStack_same, Stack.isPoisoned_take])

theorem exec_hbmSectorRead_struck {st : SectorStrike}
    (hst : strikeSector s k (off / 32) st = s.setStack k ((s.stack k).struck (off / 32) st)) :
    exec (.hbmSectorRead k off ⟨src, st⟩) s =
      .next (runReq (s.setStack k (((s.stack k).struck (off / 32) st).take src)) k (.read off)) := by
  rw [exec_hbmSectorRead hp hk (HbmReq.ok_read ho hs), hst,
    request_served (s := s.setStack k ((s.stack k).struck (off / 32) st)) hk, stack_setStack_same, setStack_setStack]
  · rw [stack_setStack_same]
    exact HbmReq.ok_read ho (by rwa [Stack.size_struck])
  · rw [stack_setStack_same]
    exact hv.struck _ st

theorem completes_hbmSectorRead_struck_uncorrectable (hm : (s.stack k).isPoisoned (off / 32) = false) :
    completes (.hbmSectorRead k off ⟨src, .uncorrectable⟩) s fun s s' =>
      sameMemory s s' ∧ (s'.stack k).rsp = ⟨Code.eccUncorr, []⟩ ∧ (s'.stack k).ucnt = satInc 16 (s.stack k).ucnt := by
  refine ⟨_, exec_hbmSectorRead_struck hp hk ho hs hv (strikeSector_uncorrectable s k _), ?_⟩
  generalize hs1 : s.setStack k (((s.stack k).struck (off / 32) .uncorrectable).take src) = s1
  have hx : s1.stack k = ((s.stack k).struck (off / 32) .uncorrectable).take src := by rw [← hs1, stack_setStack_same]
  obtain ⟨hmem, hrsp, hcnt⟩ := runReq_read_uncorr (s := s1) (k := k) (off := off)
    (by rw [hx, Stack.isPoisoned_take]; exact hm) (by rw [hx, Stack.uncorr_take]; simp [Stack.struck])
  rw [hx, Stack.ucnt_take] at hcnt
  subst hs1
  exact ⟨hmem, hrsp, hcnt⟩

theorem completes_hbmSectorRead_struck_single (hm : (s.stack k).marked (off / 32) = false) :
    completes (.hbmSectorRead k off ⟨src, .single⟩) s fun s s' =>
      sameMemory s s' ∧ (s'.stack k).rsp = ⟨Code.ok, s.bytes (hbmPa k off) 32⟩ ∧
        (s'.stack k).ccnt = satInc 32 (s.stack k).ccnt := by
  refine ⟨_, exec_hbmSectorRead_struck hp hk ho hs hv (strikeSector_single s k _), ?_⟩
  generalize hs1 : s.setStack k (((s.stack k).struck (off / 32) .single).take src) = s1
  have hx : s1.stack k = ((s.stack k).struck (off / 32) .single).take src := by rw [← hs1, stack_setStack_same]
  obtain ⟨hmem, hrsp, hcnt⟩ := runReq_read_soft (s := s1) (k := k) ho
    (by rw [hx, Stack.marked_take]; exact hm) (by rw [hx, Stack.soft_take]; simp [Stack.struck])
  rw [hx, Stack.ccnt_take] at hcnt
  subst hs1
  exact ⟨hmem, hrsp, hcnt⟩

theorem becomes_hbmSectorWrite_served {bytes : List Byte} {start : Nat} (hb : 0 < bytes.length)
    (hl : start + bytes.length ≤ 32)
    (h : bytes.length = 32 ∨ ((s.stack k).marked (off / 32) = false ∧ (s.stack k).soft.has (off / 32) = false)) :
    becomes (.hbmSectorWrite k off src bytes start) s
      ((s.poke (hbmPa k off + start) bytes).setStack k
        { ((s.stack k).take src).written (off / 32) (decide (bytes.length = 32)) with rsp := ⟨Code.ok, []⟩ }) := by
  refine ⟨_, exec_hbmSectorWrite hp, ?_⟩
  have hr : (HbmReq.write off start bytes).ok (s.stack k) = true := by simp [HbmReq.ok, ho, hs, hb, hl]
  rw [request_served hk hr hv, runReq_write_done ho, stack_setStack_same, State.poke_setStack, setStack_setStack]
  rwa [stack_setStack_same, Stack.marked_take, Stack.soft_take]

end Requests

/-! ### The obligation -/

theorem completes_mono {i : Instr} {s : State} {P Q : State → State → Prop} (h : completes i s P)
    (hPQ : ∀ s', P s s' → Q s s') : completes i s Q := by
  obtain ⟨s', he, hP⟩ := h
  exact ⟨s', he, hPQ s' hP⟩

/-- Settles O40: where a request goes and what its sector answers, then the share window, the scrub and the refresh. -/
theorem hbmRequests : Obligations.HbmRequests := by
  unfold Obligations.HbmRequests
  refine ⟨?request, ?controller, fun s k c b => ⟨s, rfl, rfl⟩⟩
  case request =>
    intro s k off src x sec p marked soft frame read w hp hk ho hs
    have hr : (HbmReq.read off).ok x = true := HbmReq.ok_read ho hs
    refine ⟨fun e hg => ?gated, fun hg hf => ?held, fun hg hf => ⟨fun ht => ⟨fun hq => ?queued, fun hq => ?full⟩,
      fun ht hc => ?spent, fun ht hc hw => ?served⟩⟩
    case gated => exact completes_hbmSectorRead_of_setStack hp hk ho hs (request_gated hk hr hg)
    case held => exact completes_hbmSectorRead_of_setStack hp hk ho hs (request_held hk hr hg hf)
    case queued =>
      refine completes_mono (completes_hbmSectorRead_training hp hk ho hs hg hf ht) fun s' ⟨hfr, hst⟩ => ⟨hfr, ?_⟩
      rw [hst, Stack.enqueue_room hq, Stack.pc_setPc, if_pos rfl]
    case full =>
      refine completes_mono (completes_hbmSectorRead_training hp hk ho hs hg hf ht) fun s' ⟨hfr, hst⟩ => ⟨hfr, ?_⟩
      rw [hst, Stack.enqueue_full hq]
    case spent =>
      exact completes_hbmSectorRead_of_setStack hp hk ho hs
        ((request_accepted hk hr hg hf).trans (acceptReq_spent ht hc))
    case served =>
      have hv : x.Serves src off := ⟨hg, hf, ht, hc, hw⟩
      obtain ⟨win, a, b, htake, htotal⟩ := x.take_eq src
      refine ⟨fun hm hso => ?_, completes_hbmSectorRead_served_poisoned hp hk ho hs hv,
        completes_hbmSectorRead_struck_uncorrectable hp hk ho hs hv,
        completes_hbmSectorRead_struck_single hp hk ho hs hv,
        fun bytes start hb hl hm => ?_⟩
      · refine completes_mono (completes_hbmSectorRead_served_clean hp hk ho hs hv hm hso) fun s' ⟨hfr, hst⟩ => ?_
        rw [htake] at hst
        rw [hst]
        exact ⟨hfr, rfl, htotal, rfl⟩
      · refine completes_mono (becomes_hbmSectorWrite_served hp hk ho hs hv hb hl hm) fun s' hst => ?_
        have hmark : decide (bytes.length = 32) = true ∨ (x.take src).marked sec = false := by
          rw [Stack.marked_take, decide_eq_true_iff]
          exact hm.imp_right And.left
        obtain ⟨hpo, hun, hsof⟩ := Stack.written_unmarked hmark
        subst hst
        refine ⟨bytes_poke s _ bytes, sameMemoryBut_poke s _ bytes, fun j hj => ?_, rfl, ?_⟩
        · rw [State.stack_setStack, if_neg hj]
          rfl
        · rw [stack_setStack_same]
          exact ⟨rfl, hpo, hun, hsof⟩
  case controller =>
    intro s k x sec hk
    refine ⟨becomes_hbmShareWindow_none hk, fun w => becomes_hbmShareWindow_one hk, fun hs hc hh ht hw hp hl => ?_⟩
    have he := exec_hbmScrubRead hk hs hc hh ht hw
    refine ⟨fun hu => ⟨_, he, scrub_unmarked (Stack.marked_eq_false_iff.2 ⟨hp, ?_⟩)⟩,
      fun hu => ⟨_, he, scrub_uncorr hp hu⟩⟩
    rw [hl, hu]
    rfl

end Sys2Proof.Machine
end

section
/-! SUPPORT. A core's units and streams: what replacing one of them leaves, raising an exception for a stream that runs
(R243), and a vector word that faults at the one engine it goes to (R127, R131). -/

namespace Sys2Proof.Machine

/-! ### Replacing a unit of a core -/

@[simp] theorem State.setCore_setCore (s : State) (c : Nat) (k l : Core) : (s.setCore c k).setCore c l = s.setCore c l := by
  simp only [State.setCore, put_put]

@[simp] theorem Core.mxa_setStream (k : Core) (t a : Nat) (x : Stream) : (k.setStream t x).mxa a = k.mxa a := by
  rcases t with _ | _ | t <;> rfl

@[simp] theorem Core.issued_setStream (k : Core) (t : Nat) (x : Stream) : (k.setStream t x).issued = k.issued := by
  rcases t with _ | _ | t <;> rfl

@[simp] theorem Core.seq_setStream (k : Core) (t : Nat) (x : Stream) : (k.setStream t x).seq = k.seq := by
  rcases t with _ | _ | t <;> rfl

@[simp] theorem Core.cpq_setStream (k : Core) (t : Nat) (x : Stream) : (k.setStream t x).cpq = k.cpq := by
  rcases t with _ | _ | t <;> rfl

@[simp] theorem Core.accq_setStream (k : Core) (t : Nat) (x : Stream) : (k.setStream t x).accq = k.accq := by
  rcases t with _ | _ | t <;> rfl

@[simp] theorem Core.winIssued_setStream (k : Core) (t : Nat) (x : Stream) :
    (k.setStream t x).winIssued = k.winIssued := by
  rcases t with _ | _ | t <;> rfl

@[simp] theorem Core.accOf_setStream (k : Core) (t : Nat) (x : Stream) (e : Nat) :
    (k.setStream t x).accOf e = k.accOf e := by simp [Core.accOf]

/-- A core that has issued one more command or vector word. -/
def Core.issuedOne (k : Core) : Core := { k with issued := k.issued + 1 }

@[simp] theorem Core.mxa_issuedOne (k : Core) (a : Nat) : k.issuedOne.mxa a = k.mxa a := rfl
@[simp] theorem Core.issued_issuedOne (k : Core) : k.issuedOne.issued = k.issued + 1 := rfl
@[simp] theorem Core.accOf_issuedOne (k : Core) (e : Nat) : k.issuedOne.accOf e = k.accOf e := rfl
@[simp] theorem Core.winIssued_issuedOne (k : Core) : k.issuedOne.winIssued = k.winIssued := rfl

@[simp] theorem Core.accOf_counted (k : Core) (e d : Nat) : (k.counted e).accOf d = k.accOf d := rfl

@[simp] theorem Core.accOf_modStream (k : Core) (t : Nat) (g : Stream → Stream) (e : Nat) :
    (k.modStream t g).accOf e = k.accOf e := Core.accOf_setStream ..

@[simp] theorem Core.winIssued_modStream (k : Core) (t : Nat) (g : Stream → Stream) :
    (k.modStream t g).winIssued = k.winIssued := Core.winIssued_setStream ..

@[simp] theorem Core.accq_setVe (k : Core) (e : Nat) (x : Ve) : (k.setVe e x).accq = k.accq := by
  cases e <;> rfl

@[simp] theorem Core.winIssued_setVe (k : Core) (e : Nat) (x : Ve) : (k.setVe e x).winIssued = k.winIssued := by
  cases e <;> rfl

@[simp] theorem Core.issued_setMxa (k : Core) (a : Nat) (m : Mxa) : (k.setMxa a m).issued = k.issued := by
  cases a <;> rfl

@[simp] theorem Core.astat_setMxa (k : Core) (a : Nat) (m : Mxa) : (k.setMxa a m).astat = k.astat := by
  cases a <;> rfl

@[simp] theorem Core.setMxa_setMxa (k : Core) (a : Nat) (m n : Mxa) : (k.setMxa a m).setMxa a n = k.setMxa a n := by
  cases a <;> rfl

theorem Core.mxa_setMxa_other (k : Core) {a b : Nat} (ha : a < 2) (hb : b < 2) (h : b ≠ a) (m : Mxa) :
    (k.setMxa a m).mxa b = k.mxa b := by
  have hab : a = 0 ∧ b = 1 ∨ a = 1 ∧ b = 0 := by omega
  obtain ⟨rfl, rfl⟩ | ⟨rfl, rfl⟩ := hab <;> rfl

/-- Replacing an array changes nothing else of a core. -/
theorem Core.rest_setMxa (k : Core) (a : Nat) (m : Mxa) :
    { k.setMxa a m with mxa0 := k.mxa0, mxa1 := k.mxa1, astat := k.astat } = k := by
  cases a <;> rfl

/-! ### Raising an exception (R243) -/

/-- An exception of a stream in RUN waits to be taken. -/
theorem raise_run {s : State} {c t : Nat} (h : ((s.core c).stream t).st = .run) (e : PendExc) :
    raise s c t e = s.setCore c ((s.core c).setStream t
      { (s.core c).stream t with pend := ((s.core c).stream t).pend ++ [e] }) := by
  unfold raise
  simp only [h]

/-- Where a core has been replaced, the exception joins the stream that now stands there. -/
theorem raise_setCore_run {s : State} {c t : Nat} {k : Core} (h : (k.stream t).st = .run) (e : PendExc) :
    raise (s.setCore c k) c t e =
      s.setCore c (k.setStream t { k.stream t with pend := (k.stream t).pend ++ [e] }) := by
  have hk : (s.setCore c k).core c = k := by simp
  rw [raise_run (by rwa [hk]), hk, State.setCore_setCore]

/-! ### A vector fault at one engine (R127, R131) -/

/-- A core whose stream t has met a vector fault at engine e. -/
def Core.vfaulted (k : Core) (t e : Nat) (w : W64) (code : Byte) (addr : Nat) : Core :=
  ((k.setVe e { k.ve e with faulted := true, vflt := vfltWord addr code (vOp w) t }).setAcc e
    ((k.accOf e).filter fun a => a.stream != t)).setStream t
    { k.stream t with pend := (k.stream t).pend ++ [⟨code, 1 + e, vOp w, 0, false⟩] }

theorem vectorFault_run {s : State} {c t : Nat} (h : ((s.core c).stream t).st = .run) (e : Nat) (w : W64) (code : Byte)
    (addr : Nat) : vectorFault s c t e w code addr = s.setCore c ((s.core c).vfaulted t e w code addr) := by
  unfold vectorFault Core.vfaulted
  dsimp only [State.modCore]
  rw [raise_setCore_run (by simpa using h), Core.stream_setAcc, Core.stream_setVe]

/-- A form that gives a fault at an engine at no more than half rate: the fault, and one word counted (R127, R483). -/
theorem VForm.issue_fault {f : VForm} {s : State} {c t e : Nat} {code : Byte} {addr : Nat} (hm : f.mm = none)
    (hb : ∀ s i, f.body s i = (s, .fault code addr)) (hw : look 0 e (s.core c).winIssued < 32)
    (hst : ((s.core c).stream t).st = .run) (n : Nat) (w : W64) :
    f.issue s c t e n w = (s.setCore c (((s.core c).counted e).vfaulted t e w code addr)).tally 0 0x06 c e 1 := by
  have hcore : (s.setCore c ((s.core c).counted e)).core c = (s.core c).counted e := by simp
  unfold VForm.issue
  dsimp only [State.modCore]
  rw [Core.countIssue_half _ _ hw, hm, if_neg (by simp), hb]
  dsimp only
  rw [vectorFault_run (by rw [hcore]; exact hst), hcore, State.setCore_setCore]

/-- A word for one engine that is free meets nothing that was accepted before it. -/
theorem VForm.oldest_free (f : VForm) {s : State} {c : Nat} (h : ∀ d, d < 2 → (s.core c).accOf d = []) (t op : Nat) :
    f.oldest s c t op = none := by
  unfold VForm.oldest
  simp [h 0 (by omega), h 1 (by omega)]

/-- A form that touches no register is ready at an engine at no more than half rate, whatever drains wait (R106). -/
theorem VForm.ready_noRegs {f : VForm} {s : State} {c e : Nat} {w : W64} (hf : f.wait = noWait) (hr : f.regs w = [])
    (hw : look 0 e (s.core c).winIssued < 32) (t n : Nat) : f.ready s c t e n w = true := by
  unfold VForm.ready Core.windowOpen
  simp [hf, hr, noWait, hw]

/-- A core whose stream t has issued a vector word. -/
def Core.sent (k : Core) (t : Nat) : Core := k.issuedOne.modStream t Stream.advance

/-- A word of a form that touches no register, for one engine that is free: the stream moves on, and the word issues. -/
theorem vecStep_oneEngine {s : State} {c t e : Nat} {w : W64} (hw : fetch s c t = .word w) (h63 : w.getLsbD 63 = false)
    (hv : ((s.core c).stream t).vtgt = e) (he : e < 2) (hacc : ∀ d, d < 2 → (s.core c).accOf d = [])
    (hwin : look 0 e (s.core c).winIssued < 32) (body : VBody) :
    vecStep s c t (vOp w) none noWait (fun _ => []) body =
      VForm.issue ⟨none, noWait, fun _ => [], body⟩ (s.setCore c ((s.core c).sent t)) c t e (s.core c).issued w := by
  have htargets : ((s.core c).stream t).targets = [e] := by
    rw [Stream.targets, hv, if_neg (by omega)]
  unfold vecStep
  dsimp only
  rw [VForm.oldest_free _ hacc, hw]
  dsimp only
  rw [if_neg (by rw [h63]; simp), if_neg (by omega), htargets, if_neg (by simp [hacc e he])]
  change VForm.enter _ (s.setCore c ((s.core c).sent t)) c t _ w [e] = _
  rw [VForm.enter_free _ _ _ _ _ _ _ _ (by simpa [Core.sent] using hacc e he)
    (VForm.ready_noRegs rfl rfl (by simpa [Core.sent] using hwin) _ _), VForm.enter]

/-- The stream of an unlisted vector word moves on, and the word faults at its engine with E_BADCMD (R103). -/
theorem unlistedStep_free {s : State} {c t e : Nat} {w : W64} (hw : fetch s c t = .word w) (h63 : w.getLsbD 63 = false)
    (hv : ((s.core c).stream t).vtgt = e) (he : e < 2) (hst : ((s.core c).stream t).st = .run)
    (hacc : ∀ d, d < 2 → (s.core c).accOf d = []) (hwin : look 0 e (s.core c).winIssued < 32) :
    unlistedStep s c t (vOp w) =
      (s.setCore c ((((s.core c).sent t).counted e).vfaulted t e w Code.badCmd 0)).tally 0 0x06 c e 1 := by
  have hcore : (s.setCore c ((s.core c).sent t)).core c = (s.core c).sent t := by simp
  have hrun : (((s.core c).sent t).stream t).st = .run := by
    rw [Core.sent, Core.stream_modStream]
    exact hst
  rw [unlistedStep, vecStep_oneEngine hw h63 hv he hacc hwin, VForm.issue_fault rfl (fun _ _ => rfl)
    (by simpa [Core.sent] using hwin) (by rwa [hcore]), hcore, State.setCore_setCore]

theorem Core.accOf_vfaulted (k : Core) (t e : Nat) (w : W64) (code : Byte) (addr d : Nat) :
    (k.vfaulted t e w code addr).accOf d = if d = e then (k.accOf e).filter fun a => a.stream != t else k.accOf d := by
  unfold Core.vfaulted
  rw [Core.accOf_setStream, Core.accOf_setAcc]
  simp only [Core.accOf, Core.accq_setVe]

theorem Core.winIssued_vfaulted (k : Core) (t e : Nat) (w : W64) (code : Byte) (addr : Nat) :
    (k.vfaulted t e w code addr).winIssued = k.winIssued := by
  unfold Core.vfaulted
  rw [Core.winIssued_setStream]
  exact Core.winIssued_setVe ..

/-- A core with the acceptance queues and the rate windows given. -/
def Core.withQueues (k : Core) (q : Table (List AccWord)) (n : Table Nat) : Core := { k with accq := q, winIssued := n }

theorem Core.withQueues_setStream (k : Core) (t : Nat) (x : Stream) (q : Table (List AccWord)) (n : Table Nat) :
    (k.setStream t x).withQueues q n = (k.withQueues q n).setStream t x := by
  rcases t with _ | _ | t <;> rfl

theorem Core.withQueues_setVe (k : Core) (e : Nat) (y : Ve) (q : Table (List AccWord)) (n : Table Nat) :
    (k.setVe e y).withQueues q n = (k.withQueues q n).setVe e y := by
  cases e <;> rfl

theorem Core.withQueues_setAcc (k : Core) (e : Nat) (l : List AccWord) (q : Table (List AccWord)) (n : Table Nat) :
    (k.setAcc e l).withQueues q n = k.withQueues q n := rfl

theorem Core.withQueues_counted (k : Core) (e : Nat) (q : Table (List AccWord)) (n : Table Nat) :
    (k.counted e).withQueues q n = k.withQueues q n := rfl

theorem Core.setVe_setStream (k : Core) (t e : Nat) (x : Stream) (y : Ve) :
    (k.setStream t x).setVe e y = (k.setVe e y).setStream t x := by
  rcases t with _ | _ | t <;> cases e <;> rfl

/-- The acceptance queues and the rate windows aside, a word that faults changes its engine's fault and its stream. -/
theorem Core.rest_vfaulted (k : Core) (t e : Nat) (w : W64) (code : Byte) (addr : Nat) :
    { ((k.sent t).counted e).vfaulted t e w code addr with
      accq := k.accq, winIssued := k.winIssued } =
      (k.issuedOne.setVe e
        { k.ve e with faulted := true, vflt := vfltWord addr code (vOp w) t }).setStream t
        { k.stream t with pc := (k.stream t).pc + 1,
                          pend := (k.stream t).pend ++ [⟨code, 1 + e, vOp w, 0, false⟩] } := by
  change (((k.sent t).counted e).vfaulted t e w code addr).withQueues k.accq k.winIssued = _
  rw [Core.vfaulted, Core.withQueues_setStream, Core.withQueues_setAcc, Core.withQueues_setVe, Core.withQueues_counted,
    Core.ve_counted, Core.stream_counted, Core.sent, Core.ve_modStream, Core.stream_modStream, Core.modStream,
    Core.withQueues_setStream, Core.setVe_setStream, Core.setStream_setStream]
  rfl

end Sys2Proof.Machine
end

section
/-! SUPPORT. The command that an array queue runs: the checks before it, its end with a status, what it leaves (R68, R69). -/

namespace Sys2Proof.Machine

/-! ### Halves of an array -/

theorem Mxa.half_setHalf_other (m : Mxa) {x h : Nat} (hx : x < 2) (hh : h < 2) (hne : x ≠ h) (y : Half) :
    (m.setHalf h y).half x = m.half x := by
  have hxh : x = 0 ∧ h = 1 ∨ x = 1 ∧ h = 0 := by omega
  obtain ⟨rfl, rfl⟩ | ⟨rfl, rfl⟩ := hxh <;> rfl

theorem Mxa.half_modHalf_eq (m : Mxa) {x h : Nat} (hx : x < 2) (hh : h < 2) (g : Half → Half) :
    (m.modHalf h g).half x = if x = h then g (m.half x) else m.half x := by
  by_cases hxh : x = h
  · rw [if_pos hxh, hxh, Mxa.half_modHalf]
  · rw [if_neg hxh, Mxa.modHalf, Mxa.half_setHalf_other m hx hh hxh]

@[simp] theorem Mxa.setHalf_half (m : Mxa) (h : Nat) : m.setHalf h (m.half h) = m := by
  cases h <;> rfl

@[simp] theorem Mxa.cells_modHalf (m : Mxa) (h : Nat) (g : Half → Half) : (m.modHalf h g).cells = m.cells := by
  cases h <;> rfl

@[simp] theorem Mxa.scales_modHalf (m : Mxa) (h : Nat) (g : Half → Half) : (m.modHalf h g).scales = m.scales := by
  cases h <;> rfl

theorem Mxa.span_lt {q : Nat} (m : Mxa) (hq : q < 2) : m.span q < 2 := by
  unfold Mxa.span; split <;> omega

/-! ### The end of a command (R68) -/

/-- The array with command e of queue q ended with a status. -/
def Mxa.ended (m : Mxa) (q : Nat) (e : ArrCmd) (code : Byte) : Mxa := m.modHalf q fun h => h.finish e.id code

theorem finish_eq (s : State) (c a q : Nat) (e : ArrCmd) (code : Byte) :
    finish s c a q e code = s.setCore c ((s.core c).setMxa a (((s.core c).mxa a).ended q e code)) := rfl

/-- A command that changes its array and ends. -/
theorem finish_modMxa (s : State) (c a q : Nat) (e : ArrCmd) (code : Byte) (f : Mxa → Mxa) :
    finish (s.modMxa c a f) c a q e code = s.setCore c ((s.core c).setMxa a ((f ((s.core c).mxa a)).ended q e code)) := by
  have hcore : (s.modMxa c a f).core c = (s.core c).setMxa a (f ((s.core c).mxa a)) := by
    rw [State.modMxa, State.core_modCore, if_pos rfl]; rfl
  rw [finish_eq, hcore, Core.mxa_setMxa, Core.setMxa_setMxa]
  exact State.setCore_setCore ..

/-- A command has ended where its array becomes m' with the command's status noted, and m' differs in its halves by g. -/
theorem arrEnds_ended {s : State} {c a q : Nat} {e : ArrCmd} {code : Byte} {g : Nat → Half → Half} {m' : Mxa} (ha : a < 2)
    (hq : q < 2) (hg : ∀ x, x < 2 → m'.half x = g x (((s.core c).mxa a).half x)) :
    arrEnds c a q e code g s (s.setCore c ((s.core c).setMxa a (m'.ended q e code))) := by
  have hcore : (s.setCore c ((s.core c).setMxa a (m'.ended q e code))).core c = (s.core c).setMxa a (m'.ended q e code) := by
    simp
  refine ⟨onlyCore_setCore s c _, ?_, fun b hb hne => ?_, fun x hx => ?_⟩
  · rw [hcore, Core.rest_setMxa]
  · rw [hcore, Core.mxa_setMxa_other _ ha hb hne]
  · rw [hcore, Core.mxa_setMxa, Mxa.ended, Mxa.half_modHalf_eq m' hx hq, hg x hx]
    rfl

/-! ### The checks before a command's own (R69, R84) -/

/-- A core that runs has a queue q of array a (R62, R68). -/
theorem queueNamed {s : State} {c a q : Nat} (hruns : s.coreRuns c = true) (ha : a < 2) (hq : q < 2) :
    (!s.coreRuns c || decide (2 ≤ a) || decide (2 ≤ q)) = false := by
  simp [hruns, Nat.not_le.2 ha, Nat.not_le.2 hq]

/-- The command at the front of its queue passes the common checks, and its own meaning follows. -/
theorem arrStep_runs {s : State} {c a q op : Nat} {e : ArrCmd} (h : arrRuns s c a q e op) {sel : Nat → Bool}
    (hs : sel op = true) (f : State → Mxa → ArrCmd → State) : arrStep s c a q sel f = f s ((s.core c).mxa a) e := by
  obtain ⟨hruns, ha, hq, hhead, hop, hfence, hcheck⟩ := h
  have hfence' : ¬((((s.core c).mxa a).half q).fenced = true ∧ arOp e ≠ 6) := by
    rcases hfence with hf | rfl
    · simp [hf]
    · simp [hop]
  unfold arrStep
  dsimp only
  rw [queueNamed hruns ha hq, if_neg Bool.false_ne_true, hhead]
  dsimp only
  rw [hop, hs, if_neg (by simp), if_neg (hop ▸ hfence'), hcheck]

/-- A command that fails the common checks is refused with their status. -/
theorem arrStep_refused {s : State} {c a q : Nat} {e : ArrCmd} {code : Byte} (hruns : s.coreRuns c = true) (ha : a < 2)
    (hq : q < 2) (hhead : (((s.core c).mxa a).half q).head = some e) (hf : (((s.core c).mxa a).half q).fenced = false)
    (hcheck : commonCheck ((s.core c).mxa a) e = some code) {sel : Nat → Bool} (hs : sel (arOp e) = true)
    (f : State → Mxa → ArrCmd → State) : arrStep s c a q sel f = refuse s c a q e code := by
  unfold arrStep
  dsimp only
  rw [queueNamed hruns ha hq, if_neg Bool.false_ne_true, hhead]
  dsimp only
  rw [hs, if_neg (by simp), if_neg (by simp [hf]), hcheck]

/-- Refusing a command other than LDST only ends it: no set becomes invalid (R79). -/
theorem refuse_of_not_ldst {e : ArrCmd} (h : arOp e ≠ 1) (s : State) (c a q : Nat) (code : Byte) :
    refuse s c a q e code = finish s c a q e code := by
  have hfold (m : Mxa) (l : List Nat) : (l.foldl (fun m h => m.modHalf h fun x => x.invalidate e) m) = m := by
    induction l with
    | nil => rfl
    | cons x l ih =>
      have hx : (m.modHalf x fun y => y.invalidate e) = m :=
        (congrArg (m.setHalf x) (if_neg h)).trans (m.setHalf_half x)
      rw [List.foldl_cons, hx, ih]
  unfold refuse
  dsimp only
  simp only [hfold]
  rw [finish_eq]
  simp [State.modMxa, State.modCore, Core.modMxa]

/-- An opcode outside 1 to 6 fails the first of the common checks. -/
theorem commonCheck_unlisted {e : ArrCmd} (h : arOp e = 0 ∨ 6 < arOp e) (m : Mxa) : commonCheck m e = some Code.badCmd :=
  if_pos h

end Sys2Proof.Machine
end

section
/-! PROOFS. The issue of commands to the units, and opcodes that no unit lists. -/

namespace Sys2Proof.Machine

/-! ### Issue of commands (R68, R230) -/

/-- The half with a command at the end of its queue. -/
def Half.enqueue (h : Half) (e : ArrCmd) : Half := { h with queue := h.queue ++ [e] }

/-- An array command that is allotted to its stream joins a queue that has room, and the stream goes on. -/
theorem exec_acmd_room {s : State} {c t : Nat} {w : W64} (h : ccRuns s c t w 0xD1) :
    let k := s.core c
    let x := k.stream t
    let w0 := x.reg (ccRa w)
    let w1 := x.reg (ccRb w)
    let a := ccFn w % 2
    let q := if fld w0.toNat 59 58 = 2 then 1 else 0
    allotted k t a w0 w1 = true → ((k.mxa a).half q).queue.length < 16 →
    exec (.acmd c t) s = .next (s.setCore c
      ((k.setMxa a ((k.mxa a).modHalf q (·.enqueue ⟨k.issued, t, w0, w1, none⟩))).issuedOne.setStream t x.advance)) := by
  intro k x w0 w1 a q hallot hroom
  refine congrArg Host.Outcome.next ((ccStep_word h _).trans ?_)
  dsimp only
  rw [hallot, if_neg (by simp), if_neg (Nat.not_le.2 hroom)]
  rfl

/-! ### Opcodes that no unit lists (R103, R170, R231) -/

theorem exec_unlistedCcOpcode {s : State} {c t : Nat} {w : W64} (hw : fetch s c t = .word w) (h63 : w.getLsbD 63 = true)
    (hl : ccListed (ccOp w) = false) : exec (.unlistedCcOpcode c t) s = .next (illegal s c t Code.badCmd w 0) := by
  change execUnlistedCcOpcode c t s = _
  unfold execUnlistedCcOpcode
  rw [hw]
  exact congrArg Host.Outcome.next (if_pos ⟨h63, by simp [hl]⟩)

/-- With no word accepted before it, the stream's own next word is the unlisted one. -/
theorem exec_unlistedVectorOpcode {s : State} {c t : Nat} {w : W64} (hw : fetch s c t = .word w)
    (hl : vListed (vOp w) = false) (hacc : ∀ d, d < 2 → (s.core c).accOf d = []) :
    exec (.unlistedVectorOpcode c t) s = .next (unlistedStep s c t (vOp w)) := by
  have hheads : (s.core c).unlistedHeads t = [] := by
    simp [Core.unlistedHeads, hacc 0 (by omega), hacc 1 (by omega)]
  change execUnlistedVectorOpcode c t s = _
  unfold execUnlistedVectorOpcode
  rw [hheads, hw]
  exact if_neg (by simp [hl])

/-- A command at the head of the stream engine's queue that has not been checked meets its own step. -/
theorem seStep_queued {s : State} {c : Nat} {e : SeCmd} (hruns : s.coreRuns c = true) (hhead : (s.core c).seHead = some e)
    (hstage : e.stage = .queued) {sel : Nat → Bool} (hs : sel (seOp e.w0) = true) (f : Core → SeCmd → State) :
    seStep s c sel f = f (s.core c) e := by
  unfold seStep
  dsimp only
  rw [hhead]
  exact if_pos (by simp [hruns, hstage, hs])

end Sys2Proof.Machine

open Sys2Proof Sys2Proof.Machine

/-- Settles O5: each queue has room, so the command joins its end and the stream goes on. -/
theorem commandIssue : Obligations.CommandIssue := by
  unfold Obligations.CommandIssue
  intro s c t w k x w0 w1 a q
  refine ⟨fun h hallot hroom => ⟨_, exec_acmd_room h hallot hroom, ?acmd⟩,
    fun h hroom => ⟨_, congrArg Host.Outcome.next (ccStep_word h _), ?secmd⟩,
    fun h hroom => ⟨_, congrArg Host.Outcome.next (ccStep_word h _), ?cpcmd⟩⟩
  case acmd =>
    dsimp only
    rw [State.core_setCore, if_pos rfl]
    exact ⟨onlyCore_setCore s c _, by simp [Half.enqueue, k, x, w0, w1, a, q], Core.stream_setStream .., by simp [k]⟩
  case secmd =>
    dsimp only
    rw [if_neg (Nat.not_le.2 hroom), State.core_setCore, if_pos rfl]
    exact ⟨onlyCore_setCore s c _, ⟨_, Core.seq_setStream .., rfl, rfl, rfl, rfl, rfl, rfl⟩, Core.stream_setStream ..⟩
  case cpcmd =>
    dsimp only
    rw [if_neg (Nat.not_le.2 hroom), State.core_setCore, if_pos rfl]
    exact ⟨onlyCore_setCore s c _, ⟨_, Core.cpq_setStream .., rfl, rfl, rfl, rfl⟩, Core.stream_setStream ..⟩

/-- Settles O15: an exception of the CC, a vector fault, and the status of an array or a stream engine command. -/
theorem unlistedOpcodes : Obligations.UnlistedOpcodes := by
  unfold Obligations.UnlistedOpcodes
  intro s c t k x raised
  refine ⟨fun w hw h63 hl hst => ?cc, fun w e hw h63 hl hv he hst hacc hwin => ?vector,
    fun a q e hruns ha hq hhead hop hf => ?array, fun e hruns hhead hstage hop => ?se⟩
  case cc =>
    refine ⟨_, exec_unlistedCcOpcode hw h63 hl, ?_⟩
    rw [illegal, raise_run hst]
    exact ⟨onlyStream_setStream s c t _, stream_setCore_setStream ..⟩
  case vector =>
    refine ⟨_, exec_unlistedVectorOpcode hw hl hacc, ?_⟩
    rw [unlistedStep_free hw h63 hv he hst hacc hwin]
    dsimp only
    rw [State.core_tally, State.core_setCore, if_pos rfl]
    refine ⟨onlyCore_setCore s c _, fun d hd => ?_, fun d => ?_, Core.rest_vfaulted ..⟩
    · rw [Core.accOf_vfaulted]
      split <;> simp [Core.sent, hacc d hd, hacc e he, k]
    · rw [Core.winIssued_vfaulted, Core.look_counted]
      split <;> simp [Core.sent, *, k]
  case array =>
    have hcheck := commonCheck_unlisted hop ((s.core c).mxa a)
    refine ⟨_, congrArg Host.Outcome.next ((arrStep_refused hruns ha hq hhead hf hcheck (by simpa using hop) _).trans
      (refuse_of_not_ldst (by omega) ..)), ?_⟩
    rw [finish_eq]
    exact ⟨arrEnds_ended ha hq fun _ _ => rfl, by simp [k]⟩
  case se =>
    exact ⟨_, congrArg Host.Outcome.next (seStep_queued hruns hhead hstage (by simpa using hop) _), rfl⟩

end

section
/-! SUPPORT. LDST: working-store words that read clean (R168), tables written entry by entry, and the stationary registers
that a load writes (R70, R71, R79, R89). -/

namespace Sys2Proof.Machine

/-! ### Feeds that read clean (R168) -/

theorem mem_upFrom {lo n j : Nat} : j ∈ upFrom lo n ↔ lo ≤ j ∧ j < lo + n := by
  unfold upFrom
  rw [List.mem_map]
  constructor
  · rintro ⟨i, hi, rfl⟩
    rw [List.mem_range] at hi
    omega
  · exact fun h => ⟨j - lo, List.mem_range.2 (by omega), by omega⟩

theorem nodup_upFrom (lo n : Nat) : (upFrom lo n).Nodup :=
  List.Pairwise.map _ (fun _ _ hne he => hne (Nat.add_left_cancel he)) List.nodup_range

/-- Every word of a range holds a byte of the range. -/
theorem exists_byte_of_mem_wsWords {c off n i : Nat} (h : i ∈ wsWords c off n) :
    ∃ o, off ≤ o ∧ o < off + n ∧ wsPa c o / 8 = i := by
  unfold wsWords at h
  split at h
  · cases h
  · rw [mem_upFrom] at h
    unfold wsPa at h ⊢
    by_cases hfirst : i = (0x10000000000 + c * 0x1000000 + off) / 8
    · exact ⟨off, by omega, by omega, by omega⟩
    · exact ⟨i * 8 - (0x10000000000 + c * 0x1000000), by omega, by omega, by omega⟩

/-- Words that hold no error leave the state as it is. -/
theorem readWords_clean {s : State} (c : Nat) {is : List Nat} (h : ∀ i ∈ is, s.wsBad.has i = false ∧ s.wsSoft.has i = false) :
    readWords s c is = (s, none) := by
  induction is with
  | nil => rfl
  | cons i is ih =>
    obtain ⟨hbad, hsoft⟩ := h i List.mem_cons_self
    have hword : readWord s c i = (s, none) := by simp [readWord, hbad, hsoft]
    rw [readWords, hword]
    exact ih fun j hj => h j (List.mem_cons_of_mem _ hj)

/-- Ranges that lie in the working store and hold no error are read whole. -/
theorem feedAll_clean {s : State} {c : Nat} {l : List (Nat × Nat)} (h : wsClean s c l) (i : Nat) :
    feedAll s c l i = (s, none) := by
  induction l generalizing i with
  | nil => rfl
  | cons r l ih =>
    obtain ⟨hin, hclean⟩ := h r List.mem_cons_self
    have hfeed : feed s c r.1 r.2 = (s, none) := by
      rw [feed, if_neg (Nat.not_lt.2 hin), wsCheck]
      refine readWords_clean c fun j hj => ?_
      obtain ⟨o, hlo, hhi, rfl⟩ := exists_byte_of_mem_wsWords hj
      exact hclean o hlo hhi
    rw [feedAll, hfeed]
    exact ih (fun x hx => h x (List.mem_cons_of_mem _ hx)) (i + 1)

/-! ### Tables written entry by entry -/

theorem look_putAll_outside {α : Type} [DecidableEq α] (d : α) {k : Nat} {l : List (Nat × α)} (h : ∀ p ∈ l, p.1 ≠ k)
    (t : Table α) : look d k (putAll d l t) = look d k t := by
  induction l generalizing t with
  | nil => rfl
  | cons p l ih =>
    exact (ih (fun x hx => h x (List.mem_cons_of_mem _ hx)) _).trans
      (look_put_other d (h p List.mem_cons_self).symm p.2 t)

/-- A key that the list gives one value only reads as that value. -/
theorem look_putAll_of_mem {α : Type} [DecidableEq α] (d : α) {k : Nat} {v : α} {l : List (Nat × α)} (hm : (k, v) ∈ l)
    (hu : ∀ p ∈ l, p.1 = k → p.2 = v) (t : Table α) : look d k (putAll d l t) = v := by
  induction l generalizing t with
  | nil => cases hm
  | cons p l ih =>
    by_cases hl : (k, v) ∈ l
    · exact ih hl (fun x hx => hu x (List.mem_cons_of_mem _ hx)) _
    · have hout : ∀ x ∈ l, x.1 ≠ k := fun x hx hxk =>
        hl (by rw [← hxk, ← hu x (List.mem_cons_of_mem _ hx) hxk]; exact hx)
      obtain rfl : (k, v) = p := (List.mem_cons.1 hm).resolve_right hl
      exact (look_putAll_outside d hout _).trans (look_put_same d k v t)

/-- The same where the list is made of keys with what f makes of their marks. -/
theorem look_putAll_map {α β : Type} [DecidableEq α] (d : α) (f : β → α) {k : Nat} {v : β} {l : List (Nat × β)}
    (hm : (k, v) ∈ l) (hu : ∀ p ∈ l, p.1 = k → p.2 = v) (t : Table α) :
    look d k (putAll d (l.map fun p => (p.1, f p.2)) t) = f v := by
  refine look_putAll_of_mem d (List.mem_map_of_mem (f := fun p : Nat × β => (p.1, f p.2)) hm) (fun p hp hk => ?_) t
  obtain ⟨r, hr, rfl⟩ := List.mem_map.1 hp
  exact congrArg f (hu r hr hk)

theorem look_putAll_map_outside {α β : Type} [DecidableEq α] (d : α) (f : β → α) {k : Nat} {l : List (Nat × β)}
    (h : ∀ p ∈ l, p.1 ≠ k) (t : Table α) : look d k (putAll d (l.map fun p => (p.1, f p.2)) t) = look d k t := by
  refine look_putAll_outside d (fun p hp => ?_) t
  obtain ⟨r, hr, rfl⟩ := List.mem_map.1 hp
  exact h r hr

/-! ### The registers of a load (R71, R79) -/

/-- What a load gives the register of set x, row i and logical column j: its bits and its scale. An FP32 element leaves
its high half in the set named and its low half in the other (R71). -/
def ldstGives (s : State) (c : Nat) (e : ArrCmd) (w x i j : Nat) : Nat × Byte :=
  let b := ldstElem s c e w i j
  if ldFmt e = 10 then (if x = arSet e then (fp32Halves b).1 else (fp32Halves b).2, 0)
  else (b, ldstScale s c e i j)

theorem ldstGives_fp32_high {e : ArrCmd} (hf : ldFmt e = 10) (s : State) (c w i j : Nat) :
    (ldstGives s c e w (arSet e) i j).1 = (fp32Halves (ldstElem s c e w i j)).1 := by
  simp [ldstGives, hf]

theorem ldstGives_fp32_low {e : ArrCmd} {x : Nat} (hf : ldFmt e = 10) (hx : x ≠ arSet e) (s : State) (c w i j : Nat) :
    (ldstGives s c e w x i j).1 = (fp32Halves (ldstElem s c e w i j)).2 := by
  simp [ldstGives, hf, hx]

theorem ldstGives_of_not_fp32 {e : ArrCmd} (hf : ldFmt e ≠ 10) (s : State) (c w x i j : Nat) :
    ldstGives s c e w x i j = (ldstElem s c e w i j, ldstScale s c e i j) := by
  simp [ldstGives, hf]

theorem arSet_lt (e : ArrCmd) : arSet e < 2 := Nat.mod_lt _ (by decide)

theorem mem_ldstSets {e : ArrCmd} {x : Nat} : x ∈ ldstSets e ↔ x < 2 ∧ (ldFmt e ≠ 10 → x = arSet e) := by
  have hset := arSet_lt e
  unfold ldstSets
  change x ∈ (if ldFmt e = 10 then [0, 1] else [arSet e]) ↔ _
  split
  case isTrue hf =>
    rw [List.mem_cons, List.mem_singleton]
    exact ⟨fun hx => ⟨by omega, absurd hf⟩, fun ⟨hx, _⟩ => by omega⟩
  case isFalse hf =>
    rw [List.mem_singleton]
    exact ⟨fun hx => ⟨by omega, fun _ => hx⟩, fun ⟨_, hx⟩ => hx hf⟩

/-- The registers that a load writes are those of its sets, its rows and the columns in service. -/
theorem mem_ldstCells {s : State} {c : Nat} {e : ArrCmd} {cols : List Nat} {p : Nat × Nat × Byte} :
    p ∈ ldstCells s c e cols ↔ ∃ x i j, x ∈ ldstSets e ∧ i < ldRows e ∧ j < cols.length ∧
      p = (cellKey x i (cols.getD j 0), ldstGives s c e cols.length x i j) := by
  have hset := arSet_lt e
  unfold ldstCells ldstGives
  simp only [List.mem_flatMap, List.mem_range, mem_ldstSets]
  by_cases hf : ldFmt e = 10
  · simp only [hf, if_true, List.mem_cons, List.not_mem_nil, or_false, ne_eq, not_true, false_imp_iff, and_true]
    constructor
    · rintro ⟨i, hi, j, hj, rfl | rfl⟩
      · exact ⟨arSet e, i, j, hset, hi, hj, by rw [if_pos rfl]⟩
      · exact ⟨1 - arSet e, i, j, by omega, hi, hj, by rw [if_neg (by omega)]⟩
    · rintro ⟨x, i, j, hx, hi, hj, rfl⟩
      refine ⟨i, hi, j, hj, ?_⟩
      by_cases hxs : x = arSet e
      · exact .inl (by rw [if_pos hxs, hxs])
      · exact .inr (by rw [if_neg hxs, show x = 1 - arSet e by omega])
  · simp only [hf, if_false, List.mem_singleton, ne_eq, not_false_iff, true_imp_iff]
    constructor
    · rintro ⟨i, hi, j, hj, rfl⟩
      exact ⟨arSet e, i, j, ⟨hset, rfl⟩, hi, hj, rfl⟩
    · rintro ⟨x, i, j, ⟨-, rfl⟩, hi, hj, rfl⟩
      exact ⟨i, hi, j, hj, rfl⟩

/-- A register's key names its set, row and column. -/
theorem cellKey_inj {x y i k p r : Nat} (hi : i < 128) (hk : k < 128) (hp : p < 128) (hr : r < 128)
    (h : cellKey x i p = cellKey y k r) : x = y ∧ i = k ∧ p = r := by
  unfold cellKey at h
  omega

theorem Mxa.base_add_width_le (m : Mxa) (h : Nat) : m.base h + m.width ≤ 128 := by
  unfold Mxa.base Mxa.width
  cases m.split
  · simp
  · simp only [true_and, if_true]
    split <;> omega

theorem Mxa.lt_of_mem_cols {m : Mxa} {h p : Nat} (hp : p ∈ m.cols h) : p < 128 :=
  Nat.lt_of_lt_of_le (mem_upFrom.1 (List.mem_filter.1 hp).1).2 (m.base_add_width_le h)

theorem Mxa.nodup_cols (m : Mxa) (h : Nat) : (m.cols h).Nodup := List.Pairwise.filter _ (nodup_upFrom _ _)

theorem Mxa.getD_cols {m : Mxa} {h j : Nat} (hj : j < (m.cols h).length) : (m.cols h).getD j 0 = (m.cols h)[j] := by
  rw [List.getD_eq_getElem?_getD, List.getElem?_eq_getElem hj, Option.getD_some]

theorem Mxa.getD_cols_mem {m : Mxa} {h j : Nat} (hj : j < (m.cols h).length) : (m.cols h).getD j 0 ∈ m.cols h := by
  rw [Mxa.getD_cols hj]
  exact List.getElem_mem hj

/-- Logical columns of a span are distinct physical columns (R89). -/
theorem Mxa.getD_cols_inj {m : Mxa} {h i j : Nat} (hi : i < (m.cols h).length) (hj : j < (m.cols h).length)
    (he : (m.cols h).getD i 0 = (m.cols h).getD j 0) : i = j := by
  have hne := List.pairwise_iff_getElem.1 (m.nodup_cols h)
  rw [Mxa.getD_cols hi, Mxa.getD_cols hj] at he
  rcases Nat.lt_trichotomy i j with hlt | heq | hgt
  · exact absurd he (hne i j hi hj hlt)
  · exact heq
  · exact absurd he.symm (hne j i hj hi hgt)

theorem ldRows_le {e : ArrCmd} (h : ldstCheck e = none) : ldRows e ≤ 128 := by
  unfold ldstCheck at h
  dsimp only at h
  split at h
  · cases h
  · split at h
    · cases h
    · split at h
      · cases h
      · omega

section
variable {s : State} {c h : Nat} {e : ArrCmd} {m : Mxa}

/-- One key, one value: what a load gives a register does not depend on the order of its writes. -/
theorem ldstGives_unique (hc : ldstCheck e = none) {x i j : Nat} (hi : i < ldRows e) (hj : j < (m.cols h).length)
    {p : Nat × Nat × Byte} (hp : p ∈ ldstCells s c e (m.cols h)) (hk : p.1 = cellKey x i ((m.cols h).getD j 0)) :
    p.2 = ldstGives s c e (m.cols h).length x i j := by
  have hrows := ldRows_le hc
  obtain ⟨y, k, r, -, hk', hr, rfl⟩ := mem_ldstCells.1 hp
  obtain ⟨rfl, rfl, hcol⟩ := cellKey_inj (by omega) (by omega) (Mxa.lt_of_mem_cols (Mxa.getD_cols_mem hr))
    (Mxa.lt_of_mem_cols (Mxa.getD_cols_mem hj)) hk
  obtain rfl := Mxa.getD_cols_inj hr hj hcol
  rfl

/-- The bits and the scale of a register that a load writes. -/
theorem look_load (hc : ldstCheck e = none) {x i j : Nat} (hx : x ∈ ldstSets e) (hi : i < ldRows e)
    (hj : j < (m.cols h).length) :
    look 0 (cellKey x i ((m.cols h).getD j 0)) (m.load (ldstCells s c e (m.cols h))).cells =
        BitVec.ofNat 16 (ldstGives s c e (m.cols h).length x i j).1 ∧
      look 0 (cellKey x i ((m.cols h).getD j 0)) (m.load (ldstCells s c e (m.cols h))).scales =
        (ldstGives s c e (m.cols h).length x i j).2 := by
  have hm := mem_ldstCells (s := s) (c := c) |>.2 ⟨x, i, j, hx, hi, hj, rfl⟩
  exact ⟨look_putAll_map 0 (fun v : Nat × Byte => BitVec.ofNat 16 v.1) hm (fun _ hp => ldstGives_unique hc hi hj hp) _,
    look_putAll_map 0 Prod.snd hm (fun _ hp => ldstGives_unique hc hi hj hp) _⟩

/-- A load leaves every register outside its sets, rows and columns. -/
theorem look_load_outside {n : Nat}
    (hn : ∀ x i j, x ∈ ldstSets e → i < ldRows e → j < (m.cols h).length → n ≠ cellKey x i ((m.cols h).getD j 0)) :
    look 0 n (m.load (ldstCells s c e (m.cols h))).cells = look 0 n m.cells ∧
      look 0 n (m.load (ldstCells s c e (m.cols h))).scales = look 0 n m.scales := by
  have hout : ∀ r ∈ ldstCells s c e (m.cols h), r.1 ≠ n := by
    intro r hr
    obtain ⟨x, i, j, hx, hi, hj, rfl⟩ := mem_ldstCells.1 hr
    exact (hn x i j hx hi hj).symm
  exact ⟨look_putAll_map_outside 0 (fun v : Nat × Byte => BitVec.ofNat 16 v.1) hout _,
    look_putAll_map_outside 0 Prod.snd hout _⟩

end

/-- A load whose sources read clean: its registers written, its sets valid, and the command ended with OK (R70, R79). -/
theorem exec_ldst_clean {s : State} {c a q : Nat} {e : ArrCmd} (h : arrRuns s c a q e 1) (hc : ldstCheck e = none)
    (hw : (s.core c).drainWaits e.stream e.id = false) :
    let m := (s.core c).mxa a
    let cols := m.cols (m.span q)
    wsClean s c (ldstRanges e cols.length) → exec (.ldst c a q) s = .next (s.setCore c ((s.core c).setMxa a
      (((m.load (ldstCells s c e cols)).modHalf (m.span q) (·.loaded e)).ended q e Code.ok))) := by
  intro m cols hclean
  refine congrArg Host.Outcome.next ((arrStep_runs h rfl _).trans ?_)
  dsimp only
  rw [hc]
  dsimp only
  rw [hw, if_neg Bool.false_ne_true, feedAll_clean hclean]
  exact finish_modMxa s c a q e Code.ok _

/-- The registers and the halves aside, a load leaves its array. -/
theorem Mxa.rest_loaded (m : Mxa) (l : List (Nat × Nat × Byte)) (h q : Nat) (e : ArrCmd) (code : Byte) :
    { ((m.load l).modHalf h (·.loaded e)).ended q e code with
      cells := m.cells, scales := m.scales, west := m.west, east := m.east } = m := by
  cases h <;> cases q <;> rfl

end Sys2Proof.Machine
end

section
/-! SUPPORT. The events of the arrays: a completion, a pending column mask, the end of a ramp interval (R68, R91, R93). -/

namespace Sys2Proof.Machine

variable {s : State} {c a q : Nat}

/-- A status below 0x10 raises nothing (R243, R570). -/
theorem report_of_lt {e : PendExc} (h : e.code.toNat < 0x10) (s : State) (c t : Nat) : report s c t e = s := by
  have hok : isErr e.code = false := by
    rw [isErr, decide_eq_false_iff_not, ge_iff_le, BitVec.le_def]
    exact Nat.not_le.2 h
  rw [report, hok, if_neg Bool.false_ne_true]

/-- E_BADPARAM raises an exception (R243). -/
theorem report_badParam {e : PendExc} (h : e.code = Code.badParam) (s : State) (c t : Nat) :
    report s c t e = raise s c t e := by
  rw [report, h]
  exact if_pos (by decide)

/-- The half without the oldest entries of its queue: es is what follows them. -/
def Half.popTo (h : Half) (es : List ArrCmd) : Half := { h with queue := es }

/-- The array with the oldest command of queue q gone. -/
def Core.popped (k : Core) (a q : Nat) (es : List ArrCmd) : Core :=
  k.setMxa a ((k.mxa a).setHalf q (((k.mxa a).half q).popTo es))

/-- What the completion of a command reports to its stream (R243). -/
def arrayReport (m : Mxa) (a q : Nat) (w0 : W64) (code : Byte) : PendExc :=
  ⟨code, 3 + 2 * a + b2n (m.split && q == 1), fld w0.toNat 63 60, fld w0.toNat 23 0, false⟩

theorem arrayReport_eq (m : Mxa) (a q : Nat) (w0 : W64) (code : Byte) :
    arrayReport m a q w0 code =
      ⟨code, 3 + 2 * a + (if m.split = true ∧ q = 1 then 1 else 0), fld w0.toNat 63 60, fld w0.toNat 23 0, false⟩ := by
  simp [arrayReport, b2n]

/-- The oldest command of a queue, having run, leaves the queue, and any status but E_ABORTED is reported (R68). -/
theorem exec_arrayCommandComplete {n t : Nat} {w0 w1 : W64} {code : Byte} {es : List ArrCmd} (hruns : s.coreRuns c = true)
    (ha : a < 2) (hq : q < 2) (hqueue : (((s.core c).mxa a).half q).queue = ⟨n, t, w0, w1, some code⟩ :: es) :
    exec (.arrayCommandComplete c a q) s = .next (
      let s' := s.setCore c ((s.core c).popped a q es)
      if code = Code.aborted then s' else report s' c t (arrayReport ((s.core c).mxa a) a q w0 code)) := by
  refine congrArg Host.Outcome.next ?_
  rw [queueNamed hruns ha hq, if_neg Bool.false_ne_true, hqueue]
  rfl

/-- A pending column mask takes effect once its array is idle and no program runs (R91). -/
theorem exec_colmaskApply_idle (hruns : s.coreRuns c = true) (ha : a < 2) (hp : (s.core c).prog = none)
    (hw : ((s.core c).mxa a).west.queue = []) (he : ((s.core c).mxa a).east.queue = []) :
    exec (.colmaskApply c a) s = .next (s.setCore c ((s.core c).setMxa a ((s.core c).mxa a).applyMask)) := by
  refine congrArg Host.Outcome.next (if_pos ?_)
  simp [hruns, ha, hp, hw, he]

/-- A mask of which a half is pending is not passed over. -/
theorem Mxa.applyMask_pending {m : Mxa} (h : m.pendLo ≠ none ∨ m.pendHi ≠ none) :
    m.applyMask = { m.invalidateAll with
      colLo := m.pendLo.getD m.colLo, colHi := m.pendHi.getD m.colHi, pendLo := none, pendHi := none } := by
  refine if_neg fun hnone => ?_
  rw [Bool.and_eq_true, Option.isNone_iff_eq_none, Option.isNone_iff_eq_none] at hnone
  obtain ⟨hlo, hhi⟩ := hnone
  exact h.elim (· hlo) (· hhi)

/-- A half after an interval with the work given, where u units of the core's grant are not booked (R93, R486, R487). -/
def Half.rampEnd (h : Half) (u : Nat) (work : FeederWork) : Half :=
  let x := h.lowerTails
  let next := levelBook x.charge (x.level + 1)
  if work.last then if x.level < 8 ∧ next ≤ u + x.book then { x with level := x.level + 1, book := next } else x
  else if work.any then x
  else x.lower

theorem Half.rampEnd_rises {h : Half} {u : Nat} (hr : h.level < 8 ∧ levelBook h.charge (h.level + 1) ≤ u + h.book) :
    h.rampEnd u ⟨true, true⟩ =
      { h.lowerTails with level := h.level + 1, book := levelBook h.charge (h.level + 1) } := by
  unfold Half.rampEnd
  dsimp only
  rw [if_pos rfl]
  exact if_pos hr

theorem Half.rampEnd_stays {h : Half} {u : Nat} (hr : ¬(h.level < 8 ∧ levelBook h.charge (h.level + 1) ≤ u + h.book)) :
    h.rampEnd u ⟨true, true⟩ = h.lowerTails := by
  unfold Half.rampEnd
  dsimp only
  rw [if_pos rfl]
  exact if_neg hr

/-- With no request before the ledger, the end of an interval changes the half alone (R93, R487). -/
theorem exec_rampIntervalEnd_quiet (hruns : s.coreRuns c = true) (ha : a < 2) (hq : q < 2)
    (hhalf : q = 0 ∨ ((s.core c).mxa a).split = true) (hl : (((s.core c).mxa a).half q).level ≠ 0)
    (hp : s.power.waiting = []) (work : FeederWork) :
    exec (.rampIntervalEnd c a q work) s = .next (s.setCore c ((s.core c).setMxa a
      (((s.core c).mxa a).setHalf q ((((s.core c).mxa a).half q).rampEnd (s.core c).unbooked work)))) := by
  refine congrArg Host.Outcome.next ((if_neg ?_).trans ?_)
  · rw [queueNamed hruns ha hq]
    have hlow : (((s.core c).mxa a).half q).lowerTails.level ≠ 0 := hl
    rcases hhalf with rfl | hsplit
    · simp [hlow]
    · simp [hlow, hsplit]
  · unfold decideHead
    rw [show (State.modMxa s c a _).power.waiting = [] from hp]
    rfl

end Sys2Proof.Machine
end

section
/-! PROOFS. LDST, and the events of the arrays. -/

open Sys2Proof Sys2Proof.Machine

/-- Settles O16: the state after a load whose sources read clean, register by register. -/
theorem arrayLoad : Obligations.ArrayLoad := by
  unfold Obligations.ArrayLoad
  intro s c a q e m h cols hruns hc hw hclean
  obtain ⟨-, ha, hq, -⟩ := id hruns
  refine ⟨_, exec_ldst_clean hruns hc hw hclean, ?_⟩
  dsimp only
  rw [State.core_setCore, if_pos rfl, Core.mxa_setMxa]
  refine ⟨arrEnds_ended ha hq fun x hx => ?halves, Core.astat_setMxa .., Mxa.rest_loaded .., fun i j hi hj => ?written,
    fun n hn => ?outside⟩
  case halves => exact Mxa.half_modHalf_eq _ hx (Mxa.span_lt _ hq) _
  case written =>
    have hset := arSet_lt e
    rw [Mxa.ended, Mxa.cells_modHalf, Mxa.cells_modHalf, Mxa.scales_modHalf, Mxa.scales_modHalf]
    split
    case isTrue hf =>
      obtain ⟨hhigh, -⟩ := look_load (s := s) (c := c) hc (mem_ldstSets.2 ⟨hset, fun _ => rfl⟩) hi hj
      obtain ⟨hlow, -⟩ := look_load (s := s) (c := c) hc (mem_ldstSets.2 ⟨(by omega : 1 - arSet e < 2), absurd hf⟩) hi hj
      rw [ldstGives_fp32_high hf] at hhigh
      rw [ldstGives_fp32_low hf (by omega)] at hlow
      exact ⟨hhigh, hlow⟩
    case isFalse hf =>
      have hgiven := look_load (s := s) (c := c) hc (mem_ldstSets.2 ⟨hset, fun _ => rfl⟩) hi hj
      rwa [ldstGives_of_not_fp32 hf] at hgiven
  case outside =>
    rw [Mxa.ended, Mxa.cells_modHalf, Mxa.cells_modHalf, Mxa.scales_modHalf, Mxa.scales_modHalf]
    exact look_load_outside hn

/-- Settles O20: a completion with and without an exception, a pending mask, and the four ends of a ramp interval. -/
theorem arrayEvents : Obligations.ArrayEvents := by
  unfold Obligations.ArrayEvents
  intro s c a q k m x popped hruns ha hq
  refine ⟨fun n t w0 w1 code es hqueue hcode => ?quiet, fun n t w0 w1 es hqueue hst => ?raises,
    fun hprog hwest heast hpend => ?mask, fun hhalf hlevel hwait => ?ramp⟩
  case quiet =>
    refine ⟨_, exec_arrayCommandComplete hruns ha hq hqueue, ?_⟩
    dsimp only
    rw [report_of_lt (e := arrayReport ..) hcode, ite_self, State.core_setCore, if_pos rfl]
    exact ⟨onlyCore_setCore s c _, rfl⟩
  case raises =>
    refine ⟨_, exec_arrayCommandComplete hruns ha hq hqueue, ?_⟩
    dsimp only
    rw [if_neg (by decide), report_badParam rfl,
      raise_setCore_run (by rw [Core.popped, Core.stream_setMxa]; exact hst), State.core_setCore, if_pos rfl,
      arrayReport_eq, Core.popped, Core.stream_setMxa]
    exact ⟨onlyCore_setCore s c _, rfl⟩
  case mask =>
    refine ⟨_, exec_colmaskApply_idle hruns ha hprog hwest heast, ?_⟩
    dsimp only
    rw [State.core_setCore, if_pos rfl, Mxa.applyMask_pending hpend]
    exact ⟨onlyCore_setCore s c _, rfl⟩
  case ramp =>
    intro tails y rises gives
    have hgives (work : FeederWork) (z : Half) (hz : x.rampEnd k.unbooked work = z) : gives work z := by
      refine ⟨_, exec_rampIntervalEnd_quiet hruns ha hq hhalf hlevel hwait work, onlyCore_setCore s c _, ?_⟩
      rw [State.core_setCore, if_pos rfl, ← hz]
    exact ⟨fun hr => hgives _ _ (Half.rampEnd_rises hr), fun hr => hgives _ _ (Half.rampEnd_stays hr), hgives _ _ rfl,
      hgives _ _ rfl⟩

end

section
/-! SUPPORT. Checked reads and translations: what they leave unchanged, the error each check unit answers, and a read of
some of the addresses of a read that met none (R164, R168, R202 to R204, R329, R335, R481). -/

namespace Sys2Proof.Machine

variable {s s' t : State} {k sec : Nat}

/-! ### What a checked read can change -/

/-- State t with the parts that a checked read can change as they were in s: the stacks' and the LPDDR port's own state,
the aggregator, the host's interface with the cached table entries, and the tally counters. -/
def State.unread (s t : State) : State :=
  { t with hbms := s.hbms, lpp := s.lpp, agg := s.agg, host := s.host, tly := s.tly }

/-- Nothing changed but what a checked read can change. -/
def onlyRead (s s' : State) : Prop := s.unread s' = s

theorem onlyRead.refl (s : State) : onlyRead s s := rfl

theorem onlyRead.eq (h : onlyRead s s') : s.unread s' = s := h

theorem onlyRead.trans (h : onlyRead s t) (h' : onlyRead t s') : onlyRead s s' :=
  (congrArg s.unread h'.eq : s.unread (t.unread s') = s.unread t).trans h

theorem onlyRead.mem (h : onlyRead s s') : s'.mem = s.mem := (congrArg State.mem h.eq :)

theorem onlyRead.sameMemory (h : onlyRead s s') : sameMemory s s' := sameMemory_of_mem h.mem

theorem onlyRead.core (h : onlyRead s s') (c : Nat) : s'.core c = s.core c := (congrArg (State.core · c) h.eq :)

theorem onlyRead.coreOn (h : onlyRead s s') (c : Nat) : s'.coreOn c = s.coreOn c := (congrArg (State.coreOn · c) h.eq :)

theorem onlyRead.wsBad (h : onlyRead s s') : s'.wsBad = s.wsBad := (congrArg State.wsBad h.eq :)

/-- The state that a match takes out of a pair. -/
theorem onlyRead.fst {α : Type} {p : State × α} {r : α} (h : onlyRead s p.1) (e : p = (t, r)) : onlyRead s t := by
  rwa [e] at h

theorem onlyRead.record (h : onlyRead s t) (e : Event) : onlyRead s (record t e) :=
  h.trans (congrArg t.unread (recorded_record t e).1 :)

theorem onlyRead_modStack (s : State) (k : Nat) (f : Stack → Stack) : onlyRead s (s.modStack k f) := rfl

theorem onlyRead_modCtx (s : State) (n : Nat) (f : Ctx → Ctx) : onlyRead s (s.modCtx n f) := rfl

theorem onlyRead_recordCorrected (s : State) (cls : SrcClass) (i u a : Nat) :
    onlyRead s (recordCorrected s cls i u a) := by
  unfold recordCorrected
  dsimp only
  split <;> split
  · rfl
  · exact onlyRead.record (by rfl) _
  · rfl
  · exact onlyRead.record (by rfl) _

theorem onlyRead_closeFault (s : State) (k p : Nat) : onlyRead s (closeFault s k p) :=
  onlyRead.record (by rfl) _

theorem onlyRead_startRepair (s : State) (k p : Nat) (copy : Bool) : onlyRead s (startRepair s k p copy) := by
  cases copy with
  | false => exact onlyRead.record (by rfl) _
  | true => rfl

theorem onlyRead_pcFailed (s : State) (k p : Nat) (readable : Bool) : onlyRead s (pcFailed s k p readable) := by
  unfold pcFailed
  dsimp only
  split
  · exact (onlyRead.record (by rfl) _).trans (onlyRead_closeFault _ _ _)
  · split
    · exact (onlyRead.record (by rfl) _).trans (onlyRead_startRepair _ _ _ _)
    · exact onlyRead.record (by rfl) _

theorem onlyRead_noteUncorr (s : State) (k sec src : Nat) : onlyRead s (noteUncorr s k sec src) := by
  unfold noteUncorr
  dsimp only
  split
  · exact ((onlyRead.record (by rfl) _).trans (onlyRead_modStack _ k _)).trans (onlyRead_pcFailed _ _ _ _)
  · exact onlyRead.record (by rfl) _

theorem onlyRead_noteCorrected (s : State) (k sec : Nat) : onlyRead s (noteCorrected s k sec) :=
  onlyRead.trans (t := s.modStack k _) rfl (onlyRead_recordCorrected _ _ _ _ _)

theorem onlyRead_readSector (s : State) (k sec src : Nat) : onlyRead s (readSector s k sec src).1 := by
  unfold readSector
  dsimp only
  split
  · exact onlyRead.record (by rfl) _
  · split
    · exact onlyRead_noteUncorr _ _ _ _
    · split
      · exact onlyRead_noteCorrected _ _ _
      · rfl

theorem onlyRead_noteWsBad (s : State) (pa : Nat) : onlyRead s (noteWsBad s pa) := by
  unfold noteWsBad
  split
  · exact onlyRead.record (by rfl) _
  · rfl

theorem onlyRead_readWord (s : State) (c i : Nat) : onlyRead s (readWord s c i).1 := by
  unfold readWord
  split
  · exact onlyRead_noteWsBad _ _
  · split
    · exact onlyRead_recordCorrected _ _ _ _ _
    · rfl

theorem onlyRead_lppFail (s : State) (pa : Nat) : onlyRead s (lppFail s pa) := onlyRead.record (by rfl) _

theorem onlyRead_readUnit (s : State) (u : Nat × Nat) : onlyRead s (readUnit s u).1 := by
  unfold readUnit
  split
  · split
    · exact onlyRead_readWord _ _ _
    · rfl
  · split
    · rfl
    · exact onlyRead_readSector _ _ _ _
  · split
    · exact onlyRead_lppFail _ _
    · rfl
  · rfl

theorem onlyRead_readUnits (s : State) (us : List (Nat × Nat)) : onlyRead s (readUnits s us).1 := by
  induction us generalizing s with
  | nil => rfl
  | cons u us ih =>
    have hu := onlyRead_readUnit s u
    unfold readUnits
    split
    · next h => exact hu.fst h
    · next h => exact (hu.fst h).trans (ih _)

theorem onlyRead_readCheck (s : State) (pas : List Nat) : onlyRead s (readCheck s pas).1 := onlyRead_readUnits _ _

/-! ### What a translation can change (R203 to R205) -/

theorem onlyRead_readEntry (s : State) (n va l table : Nat) : onlyRead s (readEntry s n va l table).1 := by
  unfold readEntry
  dsimp only
  split
  · rfl
  · have hread := onlyRead_readCheck s (upFrom (table + fld (va / 2 ^ levelShift l) 8 0 * 8) 8)
    split
    · next h => exact hread.fst h
    · next h =>
      split
      · exact (hread.fst h).trans (onlyRead_modCtx _ _ _)
      · exact hread.fst h

theorem onlyRead_walkFrom (s : State) (n va : Nat) (r w : Bool) (table : Nat) (ls : List Nat) :
    onlyRead s (walkFrom s n va r w table ls).1 := by
  induction ls generalizing s table with
  | nil => rfl
  | cons l ls ih =>
    unfold walkFrom
    split
    · rfl
    split
    · rfl
    split
    · rfl
    have hentry := onlyRead_readEntry s n va l table
    split
    · next h => exact hentry.fst h
    · next h =>
      split
      · exact hentry.fst h
      · split
        · exact hentry.fst h
        · exact (hentry.fst h).trans (ih _ _)

theorem onlyRead_translate (s : State) (n va : Nat) (r w : Bool) : onlyRead s (translate s n va r w).1 := by
  unfold translate
  split
  · rfl
  · split
    · rfl
    · exact onlyRead_walkFrom _ _ _ _ _ _ _

theorem onlyRead_translatePages (s : State) (n : Nat) (xl : Table Nat) (ps : Table (Option PageUse)) :
    onlyRead s (translatePages s n xl ps).1 := by
  induction ps generalizing s xl with
  | nil => rfl
  | cons p ps ih =>
    obtain ⟨k, _ | u⟩ := p
    · exact ih _ _
    · have hpage := onlyRead_translate s n u.va u.r u.w
      unfold translatePages
      split
      · next h => exact hpage.fst h
      · next h => exact (hpage.fst h).trans (ih _ _)

theorem onlyRead_xlate (s : State) (n : Nat) (reads writes : List Nat) : onlyRead s (xlate s n reads writes).1 :=
  onlyRead_translatePages _ _ _ _

/-! ### The error that a check unit answers -/

/-- The error that a read of one check unit answers (R168, R329, R335, R341, R351, R481). -/
def unitError (s : State) (u : Nat × Nat) : Option Byte :=
  match region u.1 with
  | .ws c _ => if s.coreOn c then (if s.wsBad.has (u.1 / 8) then some Code.eccUncorr else none) else some Code.xlate
  | .hbm k off => (s.stack k).gate.or (if (s.stack k).marked (off / 32) then some Code.eccUncorr else none)
  | .lpp _ => if s.lpp.bad.has u.1 then some Code.eccUncorr else none
  | _ => none

theorem readWord_error (s : State) (c i : Nat) :
    (readWord s c i).2 = if s.wsBad.has i then some Code.eccUncorr else none := by
  unfold readWord
  split
  · rfl
  · split <;> rfl

theorem readSector_error (s : State) (k sec n : Nat) :
    (readSector s k sec n).2 = if (s.stack k).marked sec then some Code.eccUncorr else none := by
  cases hm : (s.stack k).marked sec with
  | false => rw [readSector_unmarked n hm, if_neg Bool.false_ne_true]
  | true =>
    rw [if_pos rfl]
    cases hp : (s.stack k).isPoisoned sec with
    | true => obtain ⟨e, he⟩ := readSector_poisoned n hp; rw [he]
    | false =>
      have hu : ((s.stack k).isLost sec || (s.stack k).uncorr.has sec) = true := by simpa [Stack.marked, hp] using hm
      simp [readSector, hp, hu]

theorem readUnit_error (s : State) (u : Nat × Nat) : (readUnit s u).2 = unitError s u := by
  unfold readUnit unitError
  cases region u.1 with
  | ws c off =>
    dsimp only
    split
    · exact readWord_error _ _ _
    · rfl
  | hbm k off =>
    dsimp only
    cases (s.stack k).gate with
    | some e => rfl
    | none => exact readSector_error _ _ _ _
  | lpp off => dsimp only; split <;> rfl
  | csr off => rfl
  | none => rfl

/-! ### A read that meets no error heals nothing and spoils nothing -/

/-- A corrected error leaves every sector's marks (R329). -/
theorem marked_noteCorrected (s : State) (k sec j n : Nat) :
    ((noteCorrected s k sec).stack j).marked n = (s.stack j).marked n := by
  unfold noteCorrected
  simp only [stack_recordCorrected, State.stack_modStack]
  split
  · next h =>
    subst h
    simp only [Stack.marked, Stack.isPoisoned, Stack.isLost, Stack.pc, Stack.setPc, look_put]
    split
    · next h => rw [h]; rfl
    · rfl
  · rfl

theorem gate_noteCorrected (s : State) (k sec j : Nat) :
    ((noteCorrected s k sec).stack j).gate = (s.stack j).gate := by
  unfold noteCorrected
  simp only [stack_recordCorrected, State.stack_modStack]
  split
  · next h => subst h; rfl
  · rfl

/-- Every check unit answers alike in both states. -/
def sameErrors (s s' : State) : Prop := ∀ u, unitError s' u = unitError s u

theorem sameErrors_of (h : onlyRead s s') (hl : s'.lpp.bad = s.lpp.bad) (hg : ∀ j, (s'.stack j).gate = (s.stack j).gate)
    (hm : ∀ j n, (s'.stack j).marked n = (s.stack j).marked n) : sameErrors s s' := by
  intro u
  simp only [unitError, h.coreOn, h.wsBad, hl, hg, hm]

theorem lpp_recordCorrected (s : State) (cls : SrcClass) (i u a : Nat) : (recordCorrected s cls i u a).lpp = s.lpp := by
  unfold recordCorrected
  dsimp only
  split <;> split
  · rfl
  · exact (congrArg State.lpp (recorded_record _ _).1 :)
  · rfl
  · exact (congrArg State.lpp (recorded_record _ _).1 :)

theorem sameErrors_recordCorrected (s : State) (cls : SrcClass) (i u a : Nat) :
    sameErrors s (recordCorrected s cls i u a) :=
  sameErrors_of (onlyRead_recordCorrected s cls i u a) (by rw [lpp_recordCorrected]) (fun _ => by rw [stack_recordCorrected])
    (fun _ _ => by rw [stack_recordCorrected])

theorem sameErrors_noteCorrected (s : State) (k sec : Nat) : sameErrors s (noteCorrected s k sec) :=
  sameErrors_of (onlyRead_noteCorrected s k sec) (congrArg Lpp.bad (lpp_recordCorrected _ _ _ _ _))
    (gate_noteCorrected s k sec) (marked_noteCorrected s k sec)

theorem sameErrors_readWord {i : Nat} (h : s.wsBad.has i = false) (c : Nat) : sameErrors s (readWord s c i).1 := by
  rw [readWord, if_neg (by simp [h])]
  split
  · exact sameErrors_recordCorrected _ _ _ _ _
  · exact fun _ => rfl

theorem sameErrors_readSector (n : Nat) (h : (s.stack k).marked sec = false) :
    sameErrors s (readSector s k sec n).1 := by
  rw [readSector_unmarked n h]
  dsimp only
  split
  · exact sameErrors_noteCorrected _ _ _
  · exact fun _ => rfl

/-- A check unit that is read without error leaves what every unit answers. -/
theorem sameErrors_readUnit {u : Nat × Nat} (h : unitError s u = none) : sameErrors s (readUnit s u).1 := by
  unfold unitError at h
  unfold readUnit
  cases hr : region u.1 with
  | ws c off =>
    simp only [hr] at h ⊢
    split at h
    · next hon => rw [if_pos hon]; exact sameErrors_readWord (by simpa using h) c
    · cases h
  | hbm k off =>
    simp only [hr] at h ⊢
    obtain ⟨hg, hm⟩ := Option.or_eq_none_iff.1 h
    rw [hg]
    exact sameErrors_readSector 1 (by simpa using hm)
  | lpp off =>
    simp only [hr] at h ⊢
    split at h
    · cases h
    · next hbad => rw [if_neg hbad]; exact fun _ => rfl
  | csr off => exact fun _ => rfl
  | none => exact fun _ => rfl

/-- A read of check units meets no error when none of them answers one, and only then. -/
theorem readUnits_none_iff (s : State) (us : List (Nat × Nat)) :
    (readUnits s us).2 = none ↔ ∀ u ∈ us, unitError s u = none := by
  induction us generalizing s with
  | nil => simp [readUnits]
  | cons u us ih =>
    rw [List.forall_mem_cons, ← readUnit_error]
    unfold readUnits
    split
    · next e h => simp [h]
    · next t h =>
      have hsame := sameErrors_readUnit (s := s) (u := u) (by rw [← readUnit_error, h])
      rw [h] at hsame
      simp [ih, h, hsame _]

theorem readCheck_none_iff (s : State) (pas : List Nat) :
    (readCheck s pas).2 = none ↔ ∀ a ∈ pas, unitError s (unitOf a) = none := by
  rw [readCheck, readUnits_none_iff]
  simp [unitsOf, List.mem_eraseDups]

/-- Where a checked read meets no error, a read of some of its addresses meets none. -/
theorem readable_of_subset {pas qas : List Nat} (h : (readCheck s qas).2 = none) (hsub : ∀ a ∈ pas, a ∈ qas) :
    readable s pas = true := by
  rw [readCheck_none_iff] at h
  rw [readable, Option.isNone_iff_eq_none, readCheck_none_iff]
  exact fun a ha => h a (hsub a ha)

end Sys2Proof.Machine
end

section
/-! SUPPORT. Checked writes that meet no error: the bytes that the check units and the requests of an operation put in
place, and that together they are the operation's own (R164, R174, R330, R573). -/

namespace Sys2Proof.Machine

/-! ### Tables written from parts of one list -/

theorem putAll_append {α : Type} [DecidableEq α] (d : α) (l m : List (Nat × α)) (t : Table α) :
    putAll d (l ++ m) t = putAll d m (putAll d l t) := List.foldl_append

/-- The last value that a list of writes gives a key. -/
def lastGiven {α : Type} (a : Nat) : List (Nat × α) → Option α
  | [] => none
  | p :: l => (lastGiven a l).or (if p.1 = a then some p.2 else none)

theorem look_putAll {α : Type} [DecidableEq α] (d : α) (a : Nat) (l : List (Nat × α)) (t : Table α) :
    look d a (putAll d l t) = (lastGiven a l).getD (look d a t) := by
  induction l generalizing t with
  | nil => rfl
  | cons p l ih =>
    refine (ih (put d p.1 p.2 t)).trans ?_
    rw [lastGiven]
    cases lastGiven a l with
    | some v => rfl
    | none =>
      rw [Option.none_or, Option.getD_none, look_put]
      by_cases h : p.1 = a
      · rw [if_pos h, if_pos h.symm, Option.getD_some]
      · rw [if_neg h, if_neg (Ne.symm h), Option.getD_none]

/-- The part of a list that a test of the keys picks gives a picked key what the list gives it, and no other key. -/
theorem lastGiven_filter {α : Type} (P : Nat → Bool) (a : Nat) (l : List (Nat × α)) :
    lastGiven a (l.filter fun p => P p.1) = if P a then lastGiven a l else none := by
  induction l with
  | nil => rw [List.filter_nil, lastGiven, ite_self]
  | cons p l ih =>
    by_cases h : p.1 = a
    · subst h
      cases hP : P p.1 with
      | true =>
        rw [List.filter_cons_of_pos (p := fun p : Nat × α => P p.1) hP, lastGiven, lastGiven, ih, hP]
        rfl
      | false =>
        rw [List.filter_cons_of_neg (p := fun p : Nat × α => P p.1) (by rw [hP]; exact Bool.false_ne_true), ih, hP]
        rfl
    · have hkeep : lastGiven a ((p :: l).filter fun p => P p.1) = lastGiven a (l.filter fun p => P p.1) := by
        rw [List.filter_cons]
        split
        · rw [lastGiven, if_neg h, Option.or_none]
        · rfl
      rw [hkeep, ih, lastGiven, if_neg h, Option.or_none]

/-- Parts of one list, picked by tests of the keys and written one after the other: where every key of the list is
picked, the outcome is that of the list. -/
theorem look_putAll_parts {α β : Type} [DecidableEq α] (d : α) (l : List (Nat × α)) (P : β → Nat → Bool)
    (part : β → List (Nat × α)) (bs : List β)
    (hpart : ∀ b t a, look d a (putAll d (part b) t) = look d a (putAll d (l.filter fun p => P b p.1) t))
    (hall : ∀ p ∈ l, ∃ b ∈ bs, P b p.1 = true) (t : Table α) (a : Nat) :
    look d a (putAll d (bs.flatMap part) t) = look d a (putAll d l t) := by
  have hparts : ∀ t, look d a (putAll d (bs.flatMap part) t) =
      if ∃ b ∈ bs, P b a = true then look d a (putAll d l t) else look d a t := by
    clear hall
    induction bs with
    | nil => simp [putAll]
    | cons b bs ih =>
      intro t
      rw [List.flatMap_cons, putAll_append, ih, look_putAll, hpart, look_putAll, look_putAll, lastGiven_filter]
      cases lastGiven a l with
      | none => simp
      | some v => by_cases hb : P b a = true <;> simp [hb]
  rw [hparts]
  split
  · rfl
  · next h =>
    refine (look_putAll_outside d (fun p hp hpa => h ?_) t).symm
    obtain ⟨b, hb, hpb⟩ := hall p hp
    exact ⟨b, hb, hpa ▸ hpb⟩

/-! ### One check unit -/

variable {s : State} {u : Nat × Nat} {l : List (Nat × Byte)}

theorem writeSector_mem (s : State) (k sec : Nat) (whole : Bool) : (writeSector s k sec whole).1.mem = s.mem := by
  unfold writeSector
  split
  · rfl
  · have hread := (onlyRead_readSector s k sec 2).mem
    dsimp only
    split
    · next h =>
      rw [h] at hread
      split <;> exact hread
    · next h => rw [h] at hread; exact hread

/-- A check unit that is written without error holds the bytes given for it, in the order given. -/
theorem writeUnit_mem (h : (writeUnit s u l).2 = none) : (writeUnit s u l).1.mem = putAll 0 (bytesIn u l) s.mem := by
  revert h
  unfold writeUnit
  cases region u.1 with
  | ws c off =>
    dsimp only
    split
    · exact nofun
    · split
      · split
        · exact fun _ => rfl
        · exact nofun
      · intro _
        dsimp only
        split
        · rw [recordCorrected_mem]
        · rfl
  | hbm k off =>
    dsimp only
    split
    · exact nofun
    · have hsector := writeSector_mem s k (off / 32) (covers u (bytesIn u l))
      split
      · next h => rw [h] at hsector; exact fun _ => congrArg (putAll 0 (bytesIn u l)) hsector
      · exact nofun
  | lpp off =>
    dsimp only
    split
    · exact nofun
    · exact fun _ => rfl
  | csr off => exact fun _ => rfl
  | none => exact fun _ => rfl

theorem writeUnits_mem {us : List (Nat × Nat)} (h : (writeUnits s l us).2 = none) :
    (writeUnits s l us).1.mem = putAll 0 (us.flatMap fun u => bytesIn u l) s.mem := by
  induction us generalizing s with
  | nil => rfl
  | cons u us ih =>
    obtain ⟨hu, hus⟩ : (writeUnit s u l).2 = none ∧ (writeUnits (writeUnit s u l).1 l us).2 = none := by
      simpa [writeUnits] using h
    rw [List.flatMap_cons, putAll_append, ← writeUnit_mem hu]
    exact ih hus

/-! ### One request, and all of an operation -/

/-- An address lies in its check unit. -/
theorem mem_unitOf (a : Nat) : (unitOf a).1 ≤ a ∧ a < (unitOf a).1 + (unitOf a).2 := by
  unfold unitOf
  split <;> dsimp only <;> omega

/-- The bytes that a request writes, check unit by check unit. -/
def unitWrites (l : List (Nat × Byte)) : List (Nat × Byte) := (unitsOf (l.map (·.1))).flatMap fun u => bytesIn u l

theorem look_unitWrites (l : List (Nat × Byte)) (t : Table Byte) (a : Nat) :
    look 0 a (putAll 0 (unitWrites l) t) = look 0 a (putAll 0 l t) := by
  refine look_putAll_parts 0 l (fun u a => decide (u.1 ≤ a) && decide (a < u.1 + u.2)) _ _ (fun _ _ _ => rfl)
    (fun p hp => ⟨unitOf p.1, ?_, ?_⟩) t a
  · rw [unitsOf, List.mem_eraseDups, List.map_map]
    exact List.mem_map_of_mem (f := unitOf ∘ Prod.fst) hp
  · simpa using mem_unitOf p.1

/-- The bytes that an operation writes, request by request. -/
def requestWrites (l : List (Nat × Byte)) (b : Nat) : List (Nat × Byte) :=
  unitWrites (l.filter fun p => decide (p.1 / 256 = b))

theorem writeBlocks_mem {bs : List Nat} (h : (writeBlocks s l bs).2 = none) :
    (writeBlocks s l bs).1.mem = putAll 0 (bs.flatMap (requestWrites l)) s.mem := by
  induction bs generalizing s with
  | nil => rfl
  | cons b bs ih =>
    rw [List.flatMap_cons, putAll_append]
    unfold writeBlocks at h ⊢
    split at h
    · cases h
    · next t hb =>
      have hfirst : t.mem = putAll 0 (requestWrites l b) s.mem := by
        have hmem := writeUnits_mem (congrArg Prod.snd hb)
        rwa [← writeCheck, hb] at hmem
      rw [← hfirst]
      exact ih h

/-- An operation whose requests meet no error leaves every byte as its list of writes leaves it (R174, R330). -/
theorem byte_writeStop (h : (writeStop s l).2 = none) (a : Nat) :
    (writeStop s l).1.byte a = look 0 a (putAll 0 l s.mem) := by
  rw [State.byte, writeStop, writeBlocks_mem h]
  refine look_putAll_parts 0 l (fun b a => decide (a / 256 = b)) _ _ (fun _ _ _ => look_unitWrites _ _ _)
    (fun p hp => ⟨p.1 / 256, ?_, by simp⟩) s.mem a
  rw [blocksOf, List.mem_eraseDups]
  exact List.mem_map_of_mem (f := fun p : Nat × Byte => p.1 / 256) hp

end Sys2Proof.Machine
end

section
/-! SUPPORT. The copy engine: a copy that starts and reads its source elements, and a copy whose bytes are put in place
(R200, R204, R212 to R217; log 60). -/

namespace Sys2Proof.Machine

variable {s t : State} {c : Nat} {e : CopyCmd} {es : List CopyCmd} {a b : Desc} {plan : List (List Int × List Int)}
  {xl : Table Nat}

/-! ### The start of a copy (R200, R214) -/

/-- Descriptors that hold no error are read without effect (R168). -/
theorem readWords_descriptors {off off' : Nat} (h : wsClean s c [(off, 128), (off', 128)]) :
    readWords s c (wsWords c off 128 ++ wsWords c off' 128) = (s, none) := by
  refine readWords_clean c fun i hi => ?_
  rcases List.mem_append.1 hi with hi | hi
  · obtain ⟨o, hlo, hhi, rfl⟩ := exists_byte_of_mem_wsWords hi
    exact (h (off, 128) (by simp)).2 o hlo hhi
  · obtain ⟨o, hlo, hhi, rfl⟩ := exists_byte_of_mem_wsWords hi
    exact (h (off', 128) (by simp)).2 o hlo hhi

/-- The copy at the head leaves the queue and starts, once its command and its descriptors pass the checks (R212, R214). -/
theorem exec_copy_start (hruns : s.coreRuns c = true) (hq : (s.core c).cpq = e :: es) (hidle : (s.core c).copy = none)
    (hdrain : (s.core c).drainWaits e.stream e.id = false) (hcmd : copyCheck s e.w0 e.w1 = none)
    (hclean : wsClean s c [(cpSdesc e.w0, 128), (cpDdesc e.w1, 128)])
    (ha : descOf (s.ws c (cpSdesc e.w0) 128) = a) (hb : descOf (s.ws c (cpDdesc e.w1) 128) = b)
    (hdesc : copyDescCheck a b (cpPerm e.w0) = none) :
    exec (.copy c) s = .next (startCopy (s.setCore c { s.core c with cpq := es }) c e a b) := by
  have hcmd' (k : Core) : copyCheck (s.setCore c k) e.w0 e.w1 = none := hcmd
  have hread (k : Core) : readWords (s.setCore c k) c
      (wsWords c (cpSdesc e.w0) 128 ++ wsWords c (cpDdesc e.w1) 128) = (s.setCore c k, none) :=
    readWords_descriptors hclean
  have hws (k : Core) (off n : Nat) : (s.setCore c k).ws c off n = s.ws c off n := rfl
  refine congrArg Host.Outcome.next ?_
  simp only [hq, hidle, hruns, hdrain, hcmd', hread, hws, ha, hb, hdesc]
  rfl

/-- A copy all of whose source bytes can be read keeps every element (R168, R329). -/
theorem readablePlan_eq (h : (readCheck s ((copyReads a plan).map (viaXl xl))).2 = none) :
    readablePlan s xl a plan = plan := by
  unfold readablePlan
  refine (congrArg _ (List.append_nil plan).symm).trans
    ((List.takeWhile_append_of_pos fun p hp => ?_).trans (List.append_nil plan))
  split
  · next va hva =>
    refine readable_of_subset h fun x hx => ?_
    obtain ⟨y, hy, rfl⟩ := List.mem_map.1 hx
    refine List.mem_map_of_mem (List.mem_flatMap.2 ⟨p, hp, ?_⟩)
    rw [hva]
    exact hy
  · rfl

/-- What a copy writes: the bytes of each source element at the destination element's address (R213). -/
def copyBytes (s : State) (xl : Table Nat) (a b : Desc) (plan : List (List Int × List Int)) : List (Nat × Byte) :=
  plan.flatMap fun q => (List.range b.esize).zipWith
    (fun i x => (viaXl xl (b.target q.1 + i), x)) (sourceBytes s xl a.esize (a.source q.2))

/-- The bytes of a source are those of the memory. -/
theorem sourceBytes_congr (h : sameMemory s t) (xl : Table Nat) (n : Nat) (x : Source) :
    sourceBytes t xl n x = sourceBytes s xl n x := by
  cases x with
  | far va => simp only [sourceBytes, h _]
  | fill bs => rfl

theorem copyBytes_congr (h : sameMemory s t) (xl : Table Nat) (a b : Desc) (plan : List (List Int × List Int)) :
    copyBytes t xl a b plan = copyBytes s xl a b plan := by
  simp only [copyBytes, sourceBytes_congr h]

/-- A copy that needs no staging, whose pages are translated and whose source is read without error, has read its source
elements (R204, R213, R216). -/
theorem startCopy_read (hplan : copyPlan a b (cpPerm e.w0) = plan)
    (hov : inPlace a b (cpPerm e.w0) = true ∨ overlapBytes (hull (copyReads a plan)) (hull (copyWrites b plan)) = 0)
    (hxl : xlate s e.ctx (copyReads a plan) (copyWrites b plan) = (t, .ok xl))
    (hread : (readCheck t ((copyReads a plan).map (viaXl xl))).2 = none) :
    ∃ t', onlyRead s t' ∧ startCopy s c e a b = t'.tick.modCore c fun k =>
      { k with copy := some ⟨e, copyBytes s xl a b plan, none⟩, cpStaging := false } := by
  have ht := ((onlyRead_xlate s e.ctx _ _).fst hxl).trans (onlyRead_readCheck t ((copyReads a plan).map (viaXl xl)))
  have hovl : (if inPlace a b (cpPerm e.w0) = true then 0
      else overlapBytes (hull (copyReads a plan)) (hull (copyWrites b plan))) = 0 := by
    split
    · rfl
    · next h => exact hov.resolve_left h
  refine ⟨_, ht, ?_⟩
  unfold startCopy
  simp only [hplan, hovl, hxl, hread, readablePlan_eq hread]
  rw [← copyBytes_congr ht.sameMemory]
  rfl

/-! ### The end of a copy (R215, R217) -/

theorem post_mem (s : State) (c i : Nat) : (post s c i).mem = s.mem := by
  unfold post
  dsimp only
  split
  · rfl
  · split
    · exact record_mem _ _
    · rfl

theorem core_record (s : State) (ev : Event) (c : Nat) : (record s ev).core c = s.core c :=
  (onlyRead.record (.refl s) ev).core c

/-- A post changes token counters and TOVF of the core it reaches, nothing else of a core (R183). -/
theorem core_post (s : State) (d i c : Nat) :
    ∃ tc tovf, (post s d i).core c = { s.core c with tc := tc, tovf := tovf } := by
  unfold post
  dsimp only
  split
  · exact ⟨_, _, rfl⟩
  · split
    · rw [core_record, State.core_setCore]
      split
      · next h => subst h; exact ⟨_, _, rfl⟩
      · exact ⟨_, _, rfl⟩
    · rw [State.core_setCore]
      split
      · next h => subst h; exact ⟨_, _, rfl⟩
      · exact ⟨_, _, rfl⟩

/-- A copy that completes with OK sets LASTCODE and makes its post, and leaves the memory and the running copy (R215,
R217). -/
theorem copyDone_ok (s : State) (c : Nat) (e : CopyCmd) :
    sameMemory s (copyDone s c e Code.ok) ∧ ((copyDone s c e Code.ok).core c).copy = (s.core c).copy ∧
      ((copyDone s c e Code.ok).core c).cpLast = Code.ok := by
  have hok : isErr Code.ok = false := by decide
  unfold copyDone
  rw [hok, if_neg Bool.false_ne_true]
  split
  · obtain ⟨tc, tovf, hcore⟩ := core_post (s.modCore c fun k => { k with cpLast := Code.ok }) (fld e.w0.toNat 47 40)
      (fld e.w0.toNat 37 32) c
    rw [hcore, State.core_modCore, if_pos rfl]
    exact ⟨sameMemory_of_mem (post_mem _ _ _), rfl, rfl⟩
  · rw [State.core_modCore, if_pos rfl]
    exact ⟨fun _ => rfl, rfl, rfl⟩

/-- The copy that has run: its writes have been made, and it has completed with the status they met. -/
theorem exec_copyComplete_running {r : CopyRun} (hruns : s.coreRuns c = true) (hr : (s.core c).copy = some r)
    (hstop : r.stop = none) (hw : (writeStop s r.writes).2 = none) :
    exec (.copyComplete c) s = .next (copyDone
      ((writeStop s r.writes).1.modCore c fun k => { k with copy := none, cpStaging := false }) c r.cmd Code.ok) := by
  refine congrArg Host.Outcome.next ?_
  simp only [hr, hruns, hstop, hw, if_true]
  rfl

end Sys2Proof.Machine
end

section
/-! PROOFS. The statement about the copy engine. -/

open Sys2Proof Sys2Proof.Machine

/-- Settles O24: the copy that starts has read its source from an unchanged memory, and the one that completes has made
its writes. -/
theorem copies : Obligations.Copies := by
  unfold Obligations.Copies
  refine ⟨?starts, ?completes⟩
  case starts =>
    intro s s1 c e es xl k a b plan hruns hq hidle hdrain hcmd hclean hdesc hov hxl hread
    obtain ⟨t, ht, hstart⟩ := startCopy_read (c := c) rfl hov hxl hread
    refine ⟨_, exec_copy_start hruns hq hidle hdrain hcmd hclean rfl rfl hdesc, ?_⟩
    have hcore : t.core c = { k with cpq := es } := by rw [ht.core, State.core_setCore, if_pos rfl]
    rw [hstart]
    refine ⟨ht.sameMemory, ?_⟩
    rw [State.core_modCore, if_pos rfl]
    exact ⟨congrArg Core.cpq hcore, rfl, _, rfl, rfl, rfl, rfl⟩
  case completes =>
    intro s c r hruns hr hstop hw
    refine ⟨_, exec_copyComplete_running hruns hr hstop hw, ?_⟩
    obtain ⟨hmem, hcopy, hlast⟩ := copyDone_ok
      ((writeStop s r.writes).1.modCore c fun k => { k with copy := none, cpStaging := false }) c r.cmd
    refine ⟨fun a => (hmem a).trans (byte_writeStop hw a), ?_, hlast⟩
    rw [hcopy, State.core_modCore, if_pos rfl]

end

section
/-! SUPPORT. A packet that passes the checks of its opcode is run (R453, R457, R458, R462). -/

namespace Sys2Proof.Machine

variable {s t : State} {q pid ctx : Nat} {o : Op} {p : Pkt} {ws : List W64} {stray : Bool}

/-- A packet that has left its ring is found under its number. -/
theorem pkt_takePacket (s : State) (q ctx : Nat) (ws : List W64) (stray : Bool) :
    (takePacket s q ctx ws stray).2.pkt (takePacket s q ctx ws stray).1 = some ⟨q, ctx, ws, .unit, false, stray⟩ :=
  look_put_same (none : Option Pkt) s.host.pidNext (some ⟨q, ctx, ws, .unit, false, stray⟩) s.host.pkts

/-- The packet at the front of a queue reaches what its opcode does, on the state in which it has left the ring. -/
theorem dispatchFront_of_pktFront {sel : Nat → Bool} {go : State → Nat → Pkt → State} (h : pktFront s q pid p t)
    (hsel : sel p.opcode = true) : dispatchFront q s sel go = go t pid p := by
  obtain ⟨howner, hcan, hsafe, hseq, s1, bs, hread, hp, htake, hfence, hdma⟩ := h
  have hw0 : ((packetWords bs).getD 0 0).toNat = p.w 0 := by rw [hp]; rfl
  have hpkt := pkt_takePacket s1 q p.ctx (packetWords bs) false
  rw [← htake, ← hp] at hpkt
  have hfenced : ¬(bitOf (p.w 0) 55 = true ∧ sqHas s1 q (fun r => !r.silent) = true) := fun ⟨hb, hs⟩ =>
    Bool.false_ne_true ((hfence hb).symm.trans hs)
  have hordered : ¬((fld (p.w 0) 63 56 = 0x08 ∨ fld (p.w 0) 63 56 = 0x10) ∧
      sqHas s1 q (fun r => decide (r.opcode = 1) && decide (r.work ≠ .replied)) = true) := fun ⟨ho, hs⟩ =>
    Bool.false_ne_true ((hdma ho).symm.trans hs)
  have hinseq : ¬fld (p.w 0) 47 32 ≠ (s.sq q).expSeq := not_not_intro hseq
  have hpicked : ¬(!sel (fld (p.w 0) 63 56)) = true := by
    rw [show sel (fld (p.w 0) 63 56) = true from hsel]
    exact Bool.false_ne_true
  unfold dispatchFront
  simp only [howner, hcan, hread, hw0, ← htake, hpkt, hsafe]
  rw [if_neg (by decide), if_neg hpicked, if_neg hinseq, if_neg hfenced, if_neg hordered, if_neg Bool.false_ne_true]

/-- A packet that has its right and its form, and no absent unit to meet, is run (R458). -/
theorem dispatch_of_pktRuns {absent : State → Pkt → Bool} {run : State → Nat → Pkt → State} (h : pktRuns s q o pid p t)
    (habsent : absent t p = false) : dispatch o absent run q s = run t pid p := by
  obtain ⟨hfront, hop, hfirm, hright, hform⟩ := h
  have hgate : ¬(decide (0x40 ≤ o.code) && firmwareHalted s o ((s.sq q).owner.getD 0)) = true := by
    rw [hfront.1, Option.getD_some, Bool.and_eq_true, decide_eq_true_eq]
    exact fun ⟨hc, hh⟩ => Bool.false_ne_true ((hfirm hc).symm.trans hh)
  rw [dispatch, if_neg hgate, dispatchFront_of_pktFront hfront (by rw [hop]; exact beq_self_eq_true _)]
  simp only [hright, hform, habsent]
  rfl

end Sys2Proof.Machine
end

section
/-! SUPPORT. What an operation's checked writes leave unchanged, whether or not they meet an error (R164, R330, R573), and
what the translation of host addresses does (R444). -/

namespace Sys2Proof.Machine

variable {s s' t : State}

/-! ### What a checked write can change -/

/-- State t with the parts that checked writes can change as they were in s: those of a checked read, the memory, the
errors marked in the working stores, and the counter of free values. -/
def State.unwritten (s t : State) : State :=
  { s.unread t with mem := s.mem, wsBad := s.wsBad, wsSoft := s.wsSoft, free := s.free }

/-- Nothing changed but what checked writes can change. -/
def onlyWritten (s s' : State) : Prop := s.unwritten s' = s

theorem onlyWritten.eq (h : onlyWritten s s') : s.unwritten s' = s := h

theorem onlyWritten.trans (h : onlyWritten s t) (h' : onlyWritten t s') : onlyWritten s s' :=
  (congrArg s.unwritten h'.eq : s.unwritten (t.unwritten s') = s.unwritten t).trans h

theorem onlyRead.written (h : onlyRead s s') : onlyWritten s s' :=
  (congrArg s.unwritten h.eq : s.unwritten (s.unread s') = s.unwritten s)

theorem onlyWritten.ingest (h : onlyWritten s s') : s'.ingest = s.ingest := (congrArg State.ingest h.eq :)

/-- The state that a match takes out of a pair. -/
theorem onlyWritten.fst {α : Type} {p : State × α} {r : α} (h : onlyWritten s p.1) (e : p = (t, r)) :
    onlyWritten s t := by
  rwa [e] at h

theorem onlyWritten_writeSector (s : State) (k sec : Nat) (whole : Bool) :
    onlyWritten s (writeSector s k sec whole).1 := by
  unfold writeSector
  split
  · rfl
  · have hread := onlyRead_readSector s k sec 2
    dsimp only
    split
    · next h =>
      split
      · exact ((hread.fst h).trans (onlyRead_modStack _ _ _)).written
      · exact (hread.fst h).written
    · next h => exact ((hread.fst h).trans (onlyRead_modStack _ _ _)).written

theorem onlyWritten_writeUnit (s : State) (u : Nat × Nat) (l : List (Nat × Byte)) :
    onlyWritten s (writeUnit s u l).1 := by
  unfold writeUnit
  cases region u.1 with
  | ws c off =>
    dsimp only
    split
    · rfl
    split
    · split
      · rfl
      · exact (onlyRead_noteWsBad _ _).written
    · have hsoft : onlyWritten s
          (if (!covers u (bytesIn u l) && s.wsSoft.has (u.1 / 8)) = true then recordCorrected s .core c 0 u.1
            else s) := by
        split
        · exact (onlyRead_recordCorrected _ _ _ _ _).written
        · rfl
      exact hsoft.trans rfl
  | hbm k off =>
    dsimp only
    split
    · rfl
    · have hsector := onlyWritten_writeSector s k (off / 32) (covers u (bytesIn u l))
      split
      · next h => exact (hsector.fst h).trans rfl
      · next h => exact hsector.fst h
  | lpp off =>
    dsimp only
    split
    · exact (onlyRead_lppFail _ _).written
    · rfl
  | csr off => rfl
  | none => rfl

theorem onlyWritten_writeUnits (s : State) (l : List (Nat × Byte)) (us : List (Nat × Nat)) :
    onlyWritten s (writeUnits s l us).1 := by
  induction us generalizing s with
  | nil => rfl
  | cons u us ih => exact (onlyWritten_writeUnit s u l).trans (ih _)

theorem onlyWritten_writeCheck (s : State) (l : List (Nat × Byte)) : onlyWritten s (writeCheck s l).1 :=
  onlyWritten_writeUnits _ _ _

theorem onlyWritten_writeBlocks (s : State) (l : List (Nat × Byte)) (bs : List Nat) :
    onlyWritten s (writeBlocks s l bs).1 := by
  induction bs generalizing s with
  | nil => rfl
  | cons b bs ih =>
    have hb := onlyWritten_writeCheck s (l.filter fun p => decide (p.1 / 256 = b))
    unfold writeBlocks
    split
    · next h => exact hb.fst h
    · next h => exact (hb.fst h).trans (ih _)

theorem onlyWritten_writeStop (s : State) (l : List (Nat × Byte)) : onlyWritten s (writeStop s l).1 :=
  onlyWritten_writeBlocks _ _ _

/-! ### What a host translation can change (R444) -/

theorem onlyRead_hostWalk (s : State) (ctx : Nat) (ps : List Nat) : onlyRead s (hostWalk s ctx ps).1 := by
  induction ps with
  | nil => rfl
  | cons p ps ih =>
    unfold hostWalk
    dsimp only
    split
    · exact ih
    split
    · rfl
    · rfl
    · split <;> rfl

theorem onlyRead_hostXlate (s : State) (ctx addr n : Nat) : onlyRead s (hostXlate s ctx addr n).1 := by
  have hwalk := onlyRead_hostWalk s ctx (hostPages addr n)
  unfold hostXlate
  split
  · rfl
  split
  · next h => exact hwalk.fst h
  · next h => exact hwalk.fst h
  · next h => split <;> exact hwalk.fst h

end Sys2Proof.Machine
end

section
/-! SUPPORT. The ledger's decisions: which parts they change, and that they keep the requests and their order (R484). -/

namespace Sys2Proof.Machine

variable {s s' t : State}

/-- The requests of the ledger in their order: who asks, and for how many units. -/
def State.ledgerAsks (s : State) : List (Requester × Nat) := s.power.waiting.map fun r => (r.who, r.units)

/-- State t with the parts that the ledger's decisions can change as they were in s. -/
def State.undecided (s t : State) : State := { t with power := s.power, cores := s.cores, tly := s.tly }

/-- Nothing changed but what the ledger's decisions can change, and the same requests wait in the same order. -/
def onlyDecided (s s' : State) : Prop := s.undecided s' = s ∧ s'.ledgerAsks = s.ledgerAsks

theorem onlyDecided.refl (s : State) : onlyDecided s s := ⟨rfl, rfl⟩

theorem onlyDecided.trans (h : onlyDecided s t) (h' : onlyDecided t s') : onlyDecided s s' :=
  ⟨(congrArg s.undecided h'.1 : s.undecided (t.undecided s') = s.undecided t).trans h.1, h'.2.trans h.2⟩

theorem onlyDecided.mem (h : onlyDecided s s') : s'.mem = s.mem := (congrArg State.mem h.1 :)

theorem onlyDecided.ingest (h : onlyDecided s s') : s'.ingest = s.ingest := (congrArg State.ingest h.1 :)

theorem onlyDecided.asks (h : onlyDecided s s') : s'.ledgerAsks = s.ledgerAsks := h.2

/-- A change of requests that keeps who asks and for how much. -/
theorem asks_map {f : LedgerReq → LedgerReq} (hf : ∀ r, ((f r).who, (f r).units) = (r.who, r.units))
    (l : List LedgerReq) :
    (l.map f).map (fun r => (r.who, r.units)) = l.map fun r => (r.who, r.units) := by
  rw [List.map_map]
  exact List.map_congr_left fun r _ => hf r

theorem onlyDecided_fitRequest (s : State) (who : Requester) (u : Nat) : onlyDecided s (fitRequest s who u) :=
  ⟨rfl, asks_map (fun r => by split <;> rfl) _⟩

theorem onlyDecided_denyRequest (s : State) (who : Requester) : onlyDecided s (denyRequest s who) := by
  cases who <;> exact ⟨rfl, asks_map (fun r => by split <;> rfl) _⟩

theorem onlyDecided_decideMany (n : Nat) (s : State) : onlyDecided s (decideMany n s) := by
  induction n generalizing s with
  | zero => exact .refl s
  | succ n ih =>
    unfold decideMany
    split
    · exact .refl s
    split
    · exact (onlyDecided_fitRequest _ _ _).trans (ih _)
    split
    · exact .refl s
    · exact onlyDecided_denyRequest _ _

theorem onlyDecided_decideHead (s : State) : onlyDecided s (decideHead s) := onlyDecided_decideMany _ _

/-- A request joins the ledger's order as the last one (R484). -/
theorem ledgerAsks_sendRequest (s : State) (who : Requester) (units : Nat) :
    (sendRequest s who units).ledgerAsks = s.ledgerAsks ++ [(who, units)] :=
  (onlyDecided_decideHead _).asks.trans List.map_append

theorem sendRequest_mem (s : State) (who : Requester) (units : Nat) : (sendRequest s who units).mem = s.mem :=
  (onlyDecided_decideHead _).mem

theorem sendRequest_ingest (s : State) (who : Requester) (units : Nat) : (sendRequest s who units).ingest = s.ingest :=
  (onlyDecided_decideHead _).ingest

end Sys2Proof.Machine
end

section
/-! SUPPORT. Batches in the queues of the two clusters: the queue that a batch joins, a batch replaced by its new state,
the decode cores, and the status of a batch whose requests all ended with OK (R276 to R278, R295). -/

namespace Sys2Proof.Machine

variable {s s' : State} {k n : Nat} {b b' : Batch}

/-! ### The queues (R277) -/

theorem Ingest.queue_setQueue (g : Ingest) (k : Nat) (l : List Batch) : (g.setQueue k l).queue k = l := by
  unfold Ingest.setQueue Ingest.queue
  split <;> rfl

theorem Ingest.queue_setQueue_other (g : Ingest) (l : List Batch) (h : k < 2) :
    (g.setQueue k l).queue (1 - k) = g.queue (1 - k) := by
  match k, h with
  | 0, _ => rfl
  | 1, _ => rfl

/-- A header that passes the checks names one of the two clusters, or leaves the choice (R276, R277). -/
theorem clusterFor_lt {v : Variant} {h rc od : List Byte} {reqs : List (List Byte)} (g : Ingest)
    (hcheck : batchCheck v h rc od reqs = none) : clusterFor g h < 2 := by
  have hok : bhOk h = true := by
    cases hbad : bhOk h with
    | true => rfl
    | false =>
      have hrefused : batchCheck v h rc od reqs = some Code.badParam := by
        rw [batchCheck, hbad]
        rfl
      exact nomatch hcheck.symm.trans hrefused
  have hne : bhClust h ≠ 3 := by
    intro h3
    simp [bhOk, h3] at hok
  have hlt : bhClust h < 4 := Nat.mod_lt _ (by decide)
  unfold clusterFor
  split
  · split <;> decide
  · omega

/-! ### A batch replaced by its new state -/

theorem findBatch_congr (h : s'.ingest = s.ingest) (n : Nat) : findBatch s' n = findBatch s n := by
  unfold findBatch
  rw [h]

/-- A batch stands in its cluster's queue, and one in the second cluster's has no namesake in the first's. -/
theorem findBatch_eq_some (h : findBatch s n = some (k, b)) :
    (k = 0 ∧ s.ingest.q0.find? (fun x => x.id == n) = some b) ∨
    (k = 1 ∧ s.ingest.q0.find? (fun x => x.id == n) = none ∧ s.ingest.q1.find? (fun x => x.id == n) = some b) := by
  unfold findBatch at h
  split at h
  · next h0 =>
    cases h
    exact .inl ⟨rfl, h0⟩
  · next h0 =>
    obtain ⟨x, h1, hx⟩ := Option.map_eq_some_iff.1 h
    cases hx
    exact .inr ⟨rfl, h0, h1⟩

/-- A queue in which a batch was replaced holds the new one under its number. -/
theorem find?_replaced {l : List Batch} (h : l.find? (fun x => x.id == n) = some b) (hid : b'.id = b.id) :
    (l.map fun x => if x.id = b'.id then b' else x).find? (fun x => x.id == n) = some b' := by
  have hkeep : (fun x : Batch => x.id == n) ∘ (fun x => if x.id = b'.id then b' else x) = fun x => x.id == n := by
    funext x
    dsimp only [Function.comp]
    split
    · next hx => rw [hx]
    · rfl
  rw [List.find?_map, hkeep, h, Option.map_some, if_pos hid.symm]

theorem findBatch_setBatch (h : findBatch s n = some (k, b)) (hid : b'.id = b.id) :
    findBatch (setBatch s k b') n = some (k, b') := by
  rcases findBatch_eq_some h with ⟨rfl, h0⟩ | ⟨rfl, h0, h1⟩
  · simp only [findBatch, setBatch, Ingest.setQueue, Ingest.queue, if_true, find?_replaced h0 hid]
  · simp only [findBatch, setBatch, Ingest.setQueue, Ingest.queue, Nat.one_ne_zero, if_false, h0, find?_replaced h1 hid,
      Option.map_some]

theorem queue_setBatch (s : State) (k : Nat) (b : Batch) :
    (setBatch s k b).ingest.queue k = (s.ingest.queue k).map fun x => if x.id = b.id then b else x :=
  Ingest.queue_setQueue _ _ _

theorem segs_setBatch (s : State) (k : Nat) (b : Batch) : (setBatch s k b).ingest.segs = s.ingest.segs := by
  unfold setBatch Ingest.setQueue
  dsimp only
  split <;> rfl

/-! ### Decode cores (R278) -/

/-- Decode core d runs the segment o, or none. -/
def State.setDecoder (s : State) (d : Nat) (o : Option SegRun) : State :=
  { s with ingest := { s.ingest with segs := put none d o s.ingest.segs } }

theorem look_segs_setDecoder (s : State) (d j : Nat) (o : Option SegRun) :
    look none j (s.setDecoder d o).ingest.segs = if j = d then o else look none j s.ingest.segs :=
  look_put none d j o s.ingest.segs

/-! ### The status of a batch (R295) -/

theorem statuses_of_allOk (h : ∀ i, i < b.reqs.length → look none i b.done = some Code.ok) {x : Byte}
    (hx : x ∈ b.statuses) : x = Code.ok := by
  obtain ⟨i, hi, rfl⟩ := List.mem_map.1 hx
  rw [h i (List.mem_range.1 hi), Option.getD_some]

theorem stopped_of_allOk (h : ∀ i, i < b.reqs.length → look none i b.done = some Code.ok) : b.stopped = false := by
  refine List.any_eq_false.2 fun i hi => ?_
  rw [h i (List.mem_range.1 hi), Option.getD_some, show isErr Code.ok = false by decide, Bool.and_false]
  exact Bool.false_ne_true

theorem badCount_of_allOk (h : ∀ i, i < b.reqs.length → look none i b.done = some Code.ok) : b.badCount = 0 := by
  refine List.length_eq_zero_iff.2 (List.filter_eq_nil_iff.2 fun x hx => ?_)
  rw [statuses_of_allOk h hx]
  decide

/-- A batch whose requests, at least one, all ended with OK has the status OK. -/
theorem status_of_allOk (h : ∀ i, i < b.reqs.length → look none i b.done = some Code.ok) (hpos : 0 < b.reqs.length) :
    b.status = Code.ok := by
  have hany : (b.statuses.any fun x => x != Code.ok && x != Code.okEmpty) = false :=
    List.any_eq_false.2 fun x hx => by rw [statuses_of_allOk h hx]; decide
  have hall : ¬(b.statuses.all fun x => x == Code.okEmpty) = true := by
    have hmem : (look none 0 b.done).getD Code.ok ∈ b.statuses := List.mem_map_of_mem (List.mem_range.2 hpos)
    refine fun hall => absurd (List.all_eq_true.1 hall _ hmem) ?_
    rw [statuses_of_allOk h hmem]
    decide
  unfold Batch.status
  simp only [stopped_of_allOk h, Bool.false_eq_true, if_false, hany, if_neg hall]

end Sys2Proof.Machine
end

section
/-! SUPPORT. The end of a segment: what reading its source and writing its slot leave unchanged, and the batch that takes
its status (R279, R291 to R294). -/

namespace Sys2Proof.Machine

variable {s s1 : State} {k d n : Nat} {b : Batch} {g : SegRun} {r : List Byte} {e : SegEnd}

/-! ### What a segment can change -/

theorem onlyRead_readSource (s : State) (ctx : Nat) (r : List Byte) : onlyRead s (readSource s ctx r).1 := by
  unfold readSource
  dsimp only
  split
  · next h => exact (onlyRead_xlate _ _ _ _).fst h
  · next t xl h =>
    have hx := (onlyRead_xlate _ _ _ _).fst h
    have hhost : onlyRead t (if rqHost r = true then hostXlate t ctx (rqSrcva r) (rqSrclen r) else (t, .ok)).1 := by
      split
      · exact onlyRead_hostXlate _ _ _ _
      · rfl
    split
    · next h1 => exact hx.trans (hhost.fst h1)
    · next h1 => exact hx.trans (hhost.fst h1)
    · next h1 =>
      have hh := hx.trans (hhost.fst h1)
      split
      · next h2 => exact hh.trans ((onlyRead_readCheck _ _).fst h2)
      · next h2 =>
        have hp := hh.trans ((onlyRead_readCheck _ _).fst h2)
        split
        · exact hp
        · split <;> exact hp

theorem onlyRead_dpbCheck (s : State) (d : Nat) : onlyRead s (dpbCheck s d).1 := by
  unfold dpbCheck
  dsimp only
  split
  · rfl
  split
  · next h => exact (onlyRead_readCheck _ _).fst h
  · next h => exact ((onlyRead_readCheck _ _).fst h).trans (onlyRead_modStack _ _ _)

theorem onlyWritten_writeSlot (s : State) (b : Batch) (r : List Byte) (fill : SlotFill) (e : SegEnd) :
    onlyWritten s (writeSlot s b r fill e).1 := by
  unfold writeSlot
  dsimp only
  split
  · next h => exact ((onlyRead_xlate _ _ _ _).fst h).written
  · next h =>
    have hx := ((onlyRead_xlate _ _ _ _).fst h).written
    split
    · exact hx
    split
    · next h1 => exact hx.trans (.trans (by rfl) ((onlyWritten_writeStop _ _).fst h1))
    · next h1 =>
      have hw := hx.trans (.trans (by rfl) ((onlyWritten_writeStop _ _).fst h1))
      split
      · exact hw
      · exact hw.trans (onlyWritten_writeCheck _ _)

theorem onlyWritten_runSegment (s : State) (b : Batch) (r : List Byte) (d : Nat) (pl : SegPlan) :
    onlyWritten s (runSegment s b r d pl).1 :=
  (onlyRead_dpbCheck s d).written.trans (onlyWritten_writeSlot _ _ _ _ _)

/-! ### The batch that takes a segment's end (R293, R294) -/

/-- The bytes of a segment's status record, at the addresses to which they go. -/
def recordWrites (b : Batch) (g : SegRun) (d : Nat) (r : List Byte) (e : SegEnd) : List (Nat × Byte) :=
  (pairs (b.stat.getD g.idx 0) (statRecord r e d)).map fun p => (viaXl b.xl p.1, p.2)

/-- A batch once a segment of it has ended. -/
def Batch.ended (b : Batch) (g : SegRun) (r : List Byte) (e : SegEnd) : Batch :=
  let b := { b with done := put none g.idx (some e.status) b.done }
  if rqErrpol r = 2 ∧ isErr e.status then b.stop else b

theorem Batch.ended_id (b : Batch) (g : SegRun) (r : List Byte) (e : SegEnd) : (b.ended g r e).id = b.id := by
  unfold Batch.ended
  dsimp only
  split <;> rfl

/-- A batch's stop ends only requests that have not started. -/
theorem look_done_stop {i : Nat} (b : Batch) (hi : i < b.next) : look none i b.stop.done = look none i b.done := by
  have hput (l : List Nat) (t : Table (Option Byte)) :
      look none i (l.foldl (fun t j => put none (b.next + j) (some Code.aborted) t) t) = look none i t := by
    induction l generalizing t with
    | nil => rfl
    | cons j l ih => exact (ih _).trans (look_put_other none (by omega) _ _)
  exact hput _ _

/-- A request that has started keeps its segment's status (R293). -/
theorem look_done_ended (r : List Byte) (e : SegEnd) (hstarted : g.idx < b.next) :
    look none g.idx (b.ended g r e).done = some e.status := by
  unfold Batch.ended
  dsimp only
  split
  · rw [look_done_stop { b with done := put none g.idx (some e.status) b.done } hstarted, look_put_same]
  · rw [look_put_same]

theorem noteIflt_mem (s : State) (k : Nat) (e : SegEnd) : (noteIflt s k e).mem = s.mem := by
  unfold noteIflt
  split <;> rfl

theorem findBatch_noteIflt (s : State) (k : Nat) (e : SegEnd) (n : Nat) :
    findBatch (noteIflt s k e) n = findBatch s n := by
  unfold noteIflt
  split
  · by_cases h : k = 0
    · simp only [if_pos h]; rfl
    · simp only [if_neg h]; rfl
  · rfl

/-- The tally counters count a segment that has ended. -/
def countSegment (s : State) (k : Nat) (e : SegEnd) : State :=
  let s := s.tally 5 0x30 k 0 e.outpic
  if e.status = Code.ok ∨ e.status = Code.okEmpty then s else s.tally 5 0x31 k 0 1

theorem countSegment_eq (s : State) (k : Nat) (e : SegEnd) : ∃ tly, countSegment s k e = { s with tly := tly } := by
  unfold countSegment
  dsimp only
  split <;> exact ⟨_, rfl⟩

/-- The end of a segment: its record is written, its batch takes its status, the tally counters count it, and its decode
core is free. -/
theorem endSegment_eq (s : State) (k : Nat) (b : Batch) (g : SegRun) (d : Nat) (r : List Byte) (e : SegEnd) :
    endSegment s k b g d r e = (countSegment
      (setBatch (noteIflt (writeStop s (recordWrites b g d r e)).1 k e) k (b.ended g r e)) k e).setDecoder d none := rfl

theorem look_segs_endSegment (s : State) (k : Nat) (b : Batch) (g : SegRun) (d : Nat) (r : List Byte) (e : SegEnd) :
    look none d (endSegment s k b g d r e).ingest.segs = none := by
  rw [endSegment_eq, look_segs_setDecoder, if_pos rfl]

/-- A segment whose record can be written adds it to the memory (R294). -/
theorem byte_endSegment (h : (writeStop s (recordWrites b g d r e)).2 = none) (k a : Nat) :
    (endSegment s k b g d r e).byte a = look 0 a (putAll 0 (recordWrites b g d r e) s.mem) := by
  have hmem : (endSegment s k b g d r e).mem = (writeStop s (recordWrites b g d r e)).1.mem := by
    obtain ⟨tly, hcount⟩ := countSegment_eq
      (setBatch (noteIflt (writeStop s (recordWrites b g d r e)).1 k e) k (b.ended g r e)) k e
    rw [endSegment_eq, hcount]
    exact noteIflt_mem _ _ _
  rw [← byte_writeStop h, State.byte, hmem]
  rfl

theorem findBatch_endSegment (h : findBatch s n = some (k, b)) (g : SegRun) (d : Nat) (r : List Byte) (e : SegEnd) :
    findBatch (endSegment s k b g d r e) n = some (k, b.ended g r e) := by
  have hnoted : findBatch (noteIflt (writeStop s (recordWrites b g d r e)).1 k e) n = some (k, b) := by
    rw [findBatch_noteIflt, findBatch_congr (onlyWritten_writeStop _ _).ingest, h]
  obtain ⟨tly, hcount⟩ := countSegment_eq
    (setBatch (noteIflt (writeStop s (recordWrites b g d r e)).1 k e) k (b.ended g r e)) k e
  rw [endSegment_eq, hcount]
  exact findBatch_setBatch hnoted (Batch.ended_id _ _ _ _)

/-! ### How a segment reaches its end (R279, R283) -/

/-- A request without frames or source ends with OK_EMPTY. -/
theorem completeSegment_empty (h : rqLive (b.reqs.getD g.idx []) = false) :
    completeSegment s k b g d =
      endSegment s k b g d (b.reqs.getD g.idx []) ⟨Code.okEmpty, 0, 0, 0, 2, false, false, 0⟩ := by
  unfold completeSegment
  dsimp only
  rw [if_pos (by rw [h]; rfl)]

/-- A segment whose whole source can be reached runs on what its decoding reads of it. -/
theorem completeSegment_live {ps src : List Byte} {pas : List Nat} (h : rqLive (b.reqs.getD g.idx []) = true)
    (hsrc : readSource s b.ctx (b.reqs.getD g.idx []) = (s1, .ok ps src pas none)) :
    let r := b.reqs.getD g.idx []
    let pl := segPlan r b.recipe ps src (dpbShare s1 d).2.2
    let q := runSegment (readCheck s1 (pas.take pl.read)).1 b r d pl
    completeSegment s k b g d = endSegment q.1 k b g d r q.2 := by
  unfold completeSegment
  dsimp only
  rw [if_neg (by rw [h]; decide), hsrc]
  simp only [ite_self]

end Sys2Proof.Machine
end

section
/-! PROOFS. Ingest batches: from the packet to the cluster's queue, the batch's start, its segments, and its report. -/

namespace Sys2Proof.Machine

variable {s t t1 t2 : State} {q pid k d n : Nat} {p : Pkt} {b : Batch}

/-! ### From the packet to the queue (R276, R277, R296) -/

theorem noIngest_eq_false (h : t.variant.ingest = true) (p : Pkt) : noIngest t p = false := by
  rw [noIngest, h]
  rfl

/-- A batch that has been read and passes its checks waits in its ring while its cluster's queue is full, and joins the
queue otherwise (R277). -/
theorem exec_ingestBatch_checked {h rc od : List Byte} {reqs : List (List Byte)} {xl : Table Nat}
    (hrun : pktRuns s q opIngestBatch pid p t) (hing : t.variant.ingest = true)
    (hhdr : readVa t p.ctx (fld (p.w 1) 47 0) 64 = (t1, .inl h))
    (hread : readBatch t1 p.ctx h ((List.range (bhNreq h)).map fun i => fld (p.w 1) 47 0 + 64 + 64 * i)
      ((List.range (bhNreq h)).map fun i => bhStatva h + 16 * i) = (t2, .ok rc od reqs xl))
    (hcheck : batchCheck t2.variant h rc od reqs = none) :
    exec (.ingestBatch q) s = .next (if queueFull t2 (clusterFor t2.ingest h) then s
      else enqueueBatch t2 (some pid) none p.ctx h rc od reqs
        ((List.range (bhNreq h)).map fun i => bhStatva h + 16 * i) xl) := by
  refine congrArg Host.Outcome.next ((dispatch_of_pktRuns hrun (noIngest_eq_false hing p)).trans ?_)
  unfold ingestBatch
  simp only [hhdr, hread, hcheck]

/-- INGEST_ABORT of a packet that is found aborts its batch (R296). -/
theorem exec_ingestAbort_found {o : Nat} (hrun : pktRuns s q opIngestAbort pid p t) (hing : t.variant.ingest = true)
    (hholds : holdsSq t p.ctx (fld (p.w 1) 43 32) = true)
    (hfind : findPkt t (fld (p.w 1) 43 32) (fld (p.w 1) 15 0) = some o) :
    exec (.ingestAbort q) s =
      .next (completePkt (abortBatches t Code.aborted fun b => decide (b.pid = some o)) pid Code.ok 0) := by
  refine congrArg Host.Outcome.next ((dispatch_of_pktRuns hrun (noIngest_eq_false hing p)).trans ?_)
  unfold ingestAbort
  simp only [hholds, hfind]
  rfl

/-! ### The start of a batch and of its segments (R277, R278, R299, R493) -/

/-- A batch that may start asks the ledger, or ends where its decoded-picture memory is not locked. -/
theorem exec_batchStart_head (hk : k < 2) (hhead : headBatch s k = some b) (hsafe : s.agg.safe = false)
    (hasked : b.asked = false) (hcool : (dtempOf s (4 + k)).tlevel < 2) :
    exec (.batchStart k) s = .next (
      if !(s.ingest.dpb k).lock then batchPost (reportBatch (removeBatch s k b) b Code.badParam 0) b.hdr
      else sendRequest (setBatch s k { b with asked := true }) (.ingest k) (batchAsk b)) := by
  have hstart : ¬(2 ≤ k ∨ b.asked = true ∨ 2 ≤ (dtempOf s (4 + k)).tlevel ∨ s.agg.safe = true) := by
    simp only [hasked, hsafe, Bool.false_eq_true, false_or, or_false, not_or, Nat.not_le]
    exact ⟨hk, hcool⟩
  refine congrArg Host.Outcome.next ?_
  simp only [hhead, if_neg hstart]

/-- A granted batch starts its next request on a free decode core of its cluster. -/
theorem exec_segmentStart_free (hk : k < 2) (hhead : headBatch s k = some b) (hsafe : s.agg.safe = false)
    (hd : d / 32 = k) (hgranted : b.granted = true) (hcool : b.next ≠ 0 ∨ (dtempOf s (4 + k)).tlevel < 2)
    (hfree : look none d s.ingest.segs = none) :
    exec (.segmentStart k d) s =
      .next ((setBatch s k { b with next := b.next + 1 }).setDecoder d (some ⟨b.id, b.next⟩)) := by
  refine congrArg Host.Outcome.next ?_
  simp only [hhead]
  exact if_pos ⟨hd, hk, hgranted, by rw [hsafe]; rfl, hcool, hfree⟩

/-! ### The end of a segment and of a batch (R294, R295) -/

theorem exec_segmentComplete_running {g : SegRun} (hseg : look none d s.ingest.segs = some g)
    (hfind : findBatch s g.batch = some (k, b)) (hsafe : s.agg.safe = false) :
    exec (.segmentComplete d) s = .next (completeSegment s k b g d) := by
  refine congrArg Host.Outcome.next ?_
  simp only [hseg, hfind, hsafe]
  rfl

/-- A granted batch whose requests have all ended reports. -/
theorem exec_batchComplete_ended (hfind : findBatch s n = some (k, b)) (hgranted : b.granted = true)
    (hsafe : s.agg.safe = false) (hall : ∀ i, i < b.reqs.length → (look none i b.done).isSome = true) :
    exec (.batchComplete n) s =
      .next (batchPost (reportBatch (removeBatch s k b) b b.status b.badCount) b.hdr) := by
  refine congrArg Host.Outcome.next ?_
  simp only [hfind]
  exact if_pos ⟨hgranted, by rw [hsafe]; rfl, List.all_eq_true.2 fun i hi => hall i (List.mem_range.1 hi)⟩

end Sys2Proof.Machine

open Sys2Proof Sys2Proof.Machine

/-- Settles O38, one part for each of the packet, the head batch of a cluster, a segment that ends and a batch whose
segments have all ended. -/
theorem ingestBatches : Obligations.IngestBatches := by
  unfold Obligations.IngestBatches
  refine ⟨?packet, ?head, ?segment, ?report⟩
  case packet =>
    intro s t t1 t2 q pid p h rc od reqs xl va n stat k m
    refine ⟨fun hrun hing hhdr hread hcheck => ?_, fun hrun hing hholds o hfind =>
      ⟨_, exec_ingestAbort_found hrun hing hholds hfind, rfl⟩⟩
    have hexec := exec_ingestBatch_checked hrun hing hhdr hread hcheck
    refine ⟨fun hfull => ⟨_, hexec, if_pos (decide_eq_true hfull)⟩, fun hroom => ⟨_, hexec, ?_⟩⟩
    rw [if_neg (by rw [queueFull, decide_eq_true_eq]; exact Nat.not_le.2 hroom)]
    exact ⟨rfl, Ingest.queue_setQueue _ _ _, Ingest.queue_setQueue_other _ _ (clusterFor_lt _ hcheck)⟩
  case head =>
    intro s k d b lv u hk hhead hsafe
    refine ⟨fun hasked hcool hlock => ⟨_, exec_batchStart_head hk hhead hsafe hasked hcool, ?_⟩,
      fun hasked hcool hlock => ⟨_, exec_batchStart_head hk hhead hsafe hasked hcool, if_pos (by rw [hlock]; rfl)⟩,
      fun hd hgranted hcool hfree => ⟨_, exec_segmentStart_free hk hhead hsafe hd hgranted hcool hfree, rfl,
        fun e => ?_, queue_setBatch _ _ _⟩⟩
    · rw [if_neg (by rw [hlock]; decide)]
      refine ⟨sameMemory_of_mem (sendRequest_mem _ _ _), ledgerAsks_sendRequest _ _ _, ?_⟩
      rw [sendRequest_ingest]
      exact queue_setBatch _ _ _
    · rw [look_segs_setDecoder, segs_setBatch]
  case segment =>
    intro s s2 k d g b e r l hseg hfind hsafe hstarted hend hrecord
    obtain ⟨hexec, hingest⟩ : completeSegment s k b g d = endSegment s2 k b g d r e ∧ s2.ingest = s.ingest := by
      rcases hend with ⟨hempty, rfl, rfl⟩ | ⟨hlive, s1, ps, src, pas, hsrc, hrun⟩
      · exact ⟨completeSegment_empty hempty, rfl⟩
      · have hread := (onlyRead_readSource s b.ctx r).fst hsrc
        have hwritten := (hread.trans (onlyRead_readCheck _ _)).written.trans
          ((onlyWritten_runSegment _ _ _ _ _).fst hrun)
        refine ⟨(completeSegment_live hlive hsrc).trans ?_, hwritten.ingest⟩
        rw [hrun]
    refine ⟨_, exec_segmentComplete_running hseg hfind hsafe, ?_⟩
    rw [hexec]
    exact ⟨byte_endSegment hrecord k, look_segs_endSegment _ _ _ _ _ _ _, _,
      findBatch_endSegment ((findBatch_congr hingest _).trans hfind) g d r e, look_done_ended r e hstarted⟩
  case report =>
    intro s n k b hfind hgranted hsafe hall
    exact ⟨⟨_, exec_batchComplete_ended hfind hgranted hsafe hall, rfl⟩,
      fun hok hpos => ⟨status_of_allOk hok hpos, badCount_of_allOk hok⟩⟩

end

section
/-! SUPPORT. Stream entries: what a packet's completion, a write of an entry and the close of a stream leave unchanged, the
read of an entry, and the lowest FREE one (R308 to R310, R314). -/

namespace Sys2Proof.Machine

variable {s t : State} {n m : Nat}

/-! ### The completion of a packet leaves the ingest engine (R460) -/

theorem finishPkt_ingest (s : State) (pid : Nat) (status : Byte) (detail : W32) :
    (finishPkt s pid status detail).ingest = s.ingest := by
  unfold finishPkt
  split
  · rfl
  · dsimp only
    split
    · rfl
    · split <;> rfl

theorem settleDeletes_ingest (n : Nat) (s : State) : (settleDeletes n s).ingest = s.ingest := by
  induction n generalizing s with
  | zero => rfl
  | succ n ih =>
    unfold settleDeletes
    split
    · split
      · exact (ih _).trans (finishPkt_ingest _ _ _ _)
      · rfl
    · rfl

theorem completePkt_ingest (s : State) (pid : Nat) (status : Byte) (detail : W32) :
    (completePkt s pid status detail).ingest = s.ingest :=
  (settleDeletes_ingest _ _).trans (finishPkt_ingest _ _ _ _)

/-! ### Entries (R308, R310) -/

theorem State.stEntry_setStEntry (s : State) (n m : Nat) (e : StEntry) :
    (s.setStEntry n e).stEntry m = if m = n then e else s.stEntry m :=
  look_put StEntry.free n m e s.ingest.streams

theorem State.stEntry_congr (h : t.ingest = s.ingest) (n : Nat) : t.stEntry n = s.stEntry n := by
  rw [State.stEntry, State.stEntry, h]

theorem stEntry_completePkt (s : State) (pid : Nat) (status : Byte) (detail : W32) (n : Nat) :
    (completePkt s pid status detail).stEntry n = s.stEntry n :=
  State.stEntry_congr (completePkt_ingest s pid status detail) n

/-- An entry is put in place and its image is written to memory. -/
theorem onlyWritten_storeEntry (s : State) (n : Nat) (e : StEntry) :
    onlyWritten (s.setStEntry n e) (storeEntry s n e) := by
  rw [storeEntry_eq]
  exact onlyWritten_writeCheck _ _

theorem stEntry_storeEntry (s : State) (n m : Nat) (e : StEntry) :
    (storeEntry s n e).stEntry m = if m = n then e else s.stEntry m :=
  (State.stEntry_congr (onlyWritten_storeEntry s n e).ingest m).trans (s.stEntry_setStEntry n m e)

/-- The batches that stream n has out go on without it. -/
def State.detachBatches (s : State) (n : Nat) : State :=
  let cut (l : List Batch) : List Batch := l.map fun b => if b.stid = some n then { b with stid := none } else b
  { s with ingest := { s.ingest with q0 := cut s.ingest.q0, q1 := cut s.ingest.q1 } }

theorem State.stEntry_detachBatches (s : State) (n m : Nat) : (s.detachBatches n).stEntry m = s.stEntry m := rfl

/-- Stated of the function, as `storeEntry_eq` is. -/
theorem closeStream_eq : closeStream = fun s n => (storeEntry s n .free).detachBatches n := rfl

/-- A closed stream's entry is FREE, and every other entry stays. -/
theorem stEntry_closeStream (s : State) (n m : Nat) :
    (closeStream s n).stEntry m = if m = n then .free else s.stEntry m := by
  rw [closeStream_eq, State.stEntry_detachBatches]
  exact stEntry_storeEntry s n m .free

/-- An entry that can be read is served as it stands. -/
theorem fetchEntry_readable (hused : (s.stEntry n).st ≠ .free)
    (hread : readCheck s (upFrom (entryPa s n) 64) = (t, none)) : fetchEntry s n = t := by
  unfold fetchEntry
  dsimp only
  rw [if_neg hused, hread]

/-- The search for a FREE entry among the first k finds the lowest one. -/
theorem find?_freeEntry {k : Nat} (hm : m < k) (hfree : (s.stEntry m).st = .free)
    (hlow : ∀ j, j < m → (s.stEntry j).st ≠ .free) :
    ((List.range k).find? fun n => decide ((s.stEntry n).st = .free)) = some m :=
  List.find?_range_eq_some.2
    ⟨decide_eq_true hfree, List.mem_range.2 hm, fun j hj => by rw [decide_eq_false (hlow j hj)]; rfl⟩

end Sys2Proof.Machine
end

section
/-! PROOFS. Sample streams: the stream commands and the service of a stream. -/

namespace Sys2Proof.Machine

variable {s t t1 t2 t3 s1 s2 s3 s4 : State} {q pid n i : Nat} {p : Pkt} {e : StEntry}

/-! ### From the packet to its command (R314) -/

/-- A command to a used stream of its own context, in a state that allows it, runs once the entry has been read. -/
theorem dispatch_stCommand {allowed : List StState} {run : State → Nat → Pkt → Nat → StEntry → State}
    (hrun : pktRuns s q (opSt i) pid p t) (hing : t.variant.ingest = true) (hlock : t.ingest.sttLock = true)
    (hn : fld (p.w 1) 17 0 = n) (hused : (t.stEntry n).st ≠ .free) (hctx : (t.stEntry n).ctx = p.ctx)
    (hread : readCheck t (upFrom (entryPa t n) 64) = (t1, none)) (hallowed : (t1.stEntry n).st ∈ allowed) :
    dispatch (opSt i) noIngest (stCommand allowed run) q s = run t1 pid p n (t1.stEntry n) := by
  have hown : ¬((t.stEntry n).st = .free ∨ (t.stEntry n).ctx ≠ p.ctx) := not_or.2 ⟨hused, not_not_intro hctx⟩
  rw [dispatch_of_pktRuns hrun (noIngest_eq_false hing p)]
  unfold stCommand
  dsimp only
  rw [hn, hlock, if_neg (by decide), if_neg hown, fetchEntry_readable hused hread,
    if_neg (by rw [List.contains_iff_mem.2 hallowed]; decide)]

/-- ST_OPEN takes a FREE entry for an image that passes its checks, within the context's quota (R316, R318). R314 names no
order among the FREE entries; the lowest one is the model's choice. -/
theorem exec_stOpen_checked {b : List Byte} (hrun : pktRuns s q (opSt 0) pid p t) (hing : t.variant.ingest = true)
    (hlock : t.ingest.sttLock = true) (himg : readVa t p.ctx (fld (p.w 2) 47 0) 64 = (t1, .inl b))
    (hok : stImageOk b = true) (hquota : sttUsed t1 p.ctx < sttLimit t1 p.ctx) (hn : n < 262144)
    (hfree : (t1.stEntry n).st = .free) (hlow : ∀ j, j < n → (t1.stEntry j).st ≠ .free) :
    exec (.stOpen q) s = .next (completePkt
      (storeEntry t1 n { (StEntry.free.ofImage b) with st := .idle, ctx := p.ctx }) pid Code.ok (BitVec.ofNat 32 n)) := by
  refine congrArg Host.Outcome.next ((dispatch_of_pktRuns hrun (noIngest_eq_false hing p)).trans ?_)
  unfold stOpen
  rw [hlock, if_neg (by decide), himg]
  dsimp only
  rw [hok, if_neg (by decide), if_neg (Nat.not_le.2 hquota), find?_freeEntry hn hfree hlow]

/-! ### What the commands do (R304, R314 to R316) -/

/-- ST_START of a template that passes its checks: RUN, or DONE at the end position (R301, R304). -/
theorem stStart_checked {tm rc od : List Byte} {l : List (List Byte)} {xl : Table Nat}
    (htm : readVa s p.ctx e.tmplva 128 = (t2, .inl tm)) (hok : tmOk tm = true)
    (hbatch : readBatch t2 p.ctx (tm.take 64) [] [] = (t3, .ok rc od l xl))
    (hcheck : batchCheck t3.variant (tm.take 64) rc od [] = none) :
    stStart s pid p n e =
      completePkt (t3.setStEntry n { e with st := if e.last ≤ e.pos then .done else .run }) pid Code.ok 0 := by
  unfold stStart
  rw [htm]
  dsimp only
  rw [hok, if_neg (by decide), hbatch]
  dsimp only
  rw [hcheck]

theorem stSave_written {bs : List Byte}
    (hwrite : writeSpace s p.ctx false (fld (p.w 2) 47 0) e.image = (t2, .ok bs)) :
    stSave s pid p n e = completePkt t2 pid Code.ok 0 := by
  unfold stSave
  rw [hwrite]

/-- How far an entry's sequential counter is ahead of its data position (R313, R315). -/
def StEntry.ahead (e : StEntry) : W64 := e.seqCtr - (e.seqBase + BitVec.ofNat 64 e.pos)

/-- ST_RESTORE of an image that passes R316: what remains is the comparison of R315. -/
theorem stRestore_checked {b : List Byte} (himg : readVa s p.ctx (fld (p.w 2) 47 0) 64 = (t2, .inl b))
    (hok : stImageOk b = true) :
    stRestore s pid p n e =
      if (e.ofImage b).seqGen = true ∧ (e.ofImage b).ahead ≠ 0 then
        completePkt (storeEntry t2 n { e.ofImage b with st := .mismatch }) pid Code.restoreMismatch
          ((e.ofImage b).ahead.setWidth 32)
      else completePkt (storeEntry t2 n { e.ofImage b with st := .idle }) pid Code.ok 0 := by
  unfold stRestore
  rw [himg]
  dsimp only
  rw [hok, if_neg (by decide)]
  rfl

/-- STREAM_DRAINED of a stream that drains and has nothing outstanding: IDLE, and the stops that wait complete. -/
theorem exec_streamDrained_empty {l : List Nat} (hst : (s.stEntry n).st = .drain) (hout : (s.stEntry n).outb = 0)
    (hstops : (s.stEntry n).stops = l) :
    exec (.streamDrained n) s = .next (l.foldl (fun s pid => completePkt s pid Code.ok 0)
      (s.setStEntry n { s.stEntry n with st := .idle, stops := [] })) := by
  subst hstops
  exact congrArg Host.Outcome.next (if_pos ⟨hst, hout⟩)

/-! ### The service of a stream (R311, R312) -/

/-- The stream whose turn it is is served once its entry has been read. -/
theorem exec_sttServe_next (hnext : nextRun s.ingest = some n)
    (hrun : (({ s with ingest := { s.ingest with sttPtr := (n + 1) % 262144 } } : State).stEntry n).st = .run)
    (hread : readCheck { s with ingest := { s.ingest with sttPtr := (n + 1) % 262144 } }
      (upFrom (entryPa { s with ingest := { s.ingest with sttPtr := (n + 1) % 262144 } } n) 64) = (s1, none))
    (hrun1 : (s1.stEntry n).st = .run) (hsafe : s1.agg.safe = false) :
    exec .sttServe s = .next (sttServe s1 n (s1.stEntry n)) := by
  refine congrArg Host.Outcome.next ?_
  rw [hnext]
  dsimp only
  rw [fetchEntry_readable (by rw [hrun]; decide) hread]
  exact if_pos ⟨hrun1, by rw [hsafe]; rfl⟩

theorem sttServe_ended (h : e.last ≤ e.pos) : sttServe s n e = s.setStEntry n { e with st := .done } := if_pos h

/-- A service before the end position, with no hold on the context, room for a batch and slots that are released, builds
the next batch. -/
theorem sttServe_issues {tm r : List Byte} (hpos : e.pos < e.last) (hheld : sttHeld s e.ctx = false)
    (htm : readVa s e.ctx e.tmplva 128 = (s2, .inl tm)) (hok : tmOk tm = true) (hroom : e.outb < tmBmax tm)
    (hrel : readVa s2 e.ctx (tmRelva tm) 8 = (s3, .inl r))
    (hslots : e.pos + min (bhNreq tm) (e.last - e.pos) ≤ tmNslot tm + fieldAt r 0 8) :
    sttServe s n e = sttIssue s3 n e tm e.pos (min (bhNreq tm) (e.last - e.pos)) := by
  unfold sttServe
  dsimp only
  rw [if_neg (Nat.not_le.2 hpos), hheld, if_neg (by decide), htm]
  dsimp only
  rw [hok, if_neg (by decide), if_neg (Nat.not_le.2 hroom), hrel]
  dsimp only
  rw [if_pos hslots]

/-- The requests of the k positions from p on, from the manifest records read for them (R302, R303). -/
def requestsFrom (e : StEntry) (tm : List Byte) (recs : List (List Byte)) (p k : Nat) : List (List Byte) :=
  (List.range k).map fun j => requestAt e tm (recs.getD j []) (p + j)

/-- Where the status records of the k positions from p on go: by slot, not by request (R304). -/
def statusesFrom (tm : List Byte) (p k : Nat) : List Nat :=
  (upFrom p k).map fun q => bhStatva (tm.take 64) + 16 * (q % tmNslot tm)

/-- A batch that has been read, passes its checks and finds room is submitted, and the position moves on by its
requests; with SEQGEN = 0 there are no draws to write. -/
theorem sttIssue_submits {tm rc od : List Byte} {recs : List (List Byte)} {xl : Table Nat} {pos k : Nat}
    (hbatch : readBatch s e.ctx (tm.take 64) ((upFrom pos k).map fun q => e.manva + 64 * recordOf e q)
      (statusesFrom tm pos k) = (s4, .ok rc od recs xl))
    (hcheck : batchCheck s4.variant (tm.take 64) rc od (requestsFrom e tm recs pos k) = none)
    (hqueue : queueFull s4 (clusterFor s4.ingest (tm.take 64)) = false) (hseq : e.seqGen = false) :
    sttIssue s n e tm pos k =
      (enqueueBatch s4 none (some n) e.ctx (tm.take 64) rc od (requestsFrom e tm recs pos k) (statusesFrom tm pos k)
        xl).setStEntry n (({ e with outb := e.outb + 1 } : StEntry).setPos (pos + k)) := by
  unfold requestsFrom at hcheck ⊢
  unfold statusesFrom at hbatch ⊢
  have hdraws : xlate s4 e.ctx [] [] = (s4, .ok []) := rfl
  have hwrites : writeStop s4 [] = (s4, none) := rfl
  unfold sttIssue
  dsimp only
  rw [hbatch]
  dsimp only
  rw [hcheck]
  dsimp only
  simp only [hqueue, hseq, Bool.false_eq_true, if_false, List.map_nil, hdraws, hwrites]

end Sys2Proof.Machine

open Sys2Proof Sys2Proof.Machine

/-- Settles O39: each command runs on the entry as read, a drained stream completes its stops, and a service either ends
the stream or submits its next batch. -/
theorem sampleStreams : Obligations.SampleStreams := by
  unfold Obligations.SampleStreams
  refine ⟨?commands, ?drained, ?service⟩
  case commands =>
    intro s t q pid p va n hing hlock
    refine ⟨fun t1 b m hrun himg hok hquota hm hfree hlow =>
      ⟨_, exec_stOpen_checked hrun hing hlock himg hok hquota hm hfree hlow, rfl⟩, ?_⟩
    intro t1 hused hctx hread e
    have runs {i : Nat} {allowed : List StState} (run : State → Nat → Pkt → Nat → StEntry → State)
        (hrun : pktRuns s q (opSt i) pid p t) (hst : e.st ∈ allowed) :
        dispatch (opSt i) noIngest (stCommand allowed run) q s = run t1 pid p n e :=
      dispatch_stCommand hrun hing hlock rfl hused hctx hread hst
    refine ⟨?start, ?stop, ?save, ?restore, ?resync, ?close⟩
    case start =>
      intro t2 t3 m rc od l xl hrun hst htm hok hbatch hcheck
      exact ⟨_, congrArg Host.Outcome.next (runs stStart hrun (by simp [hst])), stStart_checked htm hok hbatch hcheck⟩
    case stop =>
      intro hrun hst
      exact ⟨_, congrArg Host.Outcome.next (runs stStop hrun (by simpa using hst)), rfl⟩
    case save =>
      intro t2 bs hrun hst hwrite
      exact ⟨_, congrArg Host.Outcome.next (runs stSave hrun (by simpa using hst)), stSave_written hwrite⟩
    case restore =>
      intro t2 b hrun hst himg hok y d hsame
      have hexec : exec (.stRestore q) s = .next (stRestore t1 pid p n e) :=
        congrArg Host.Outcome.next (runs stRestore hrun (by simpa using hst))
      have hy : y = e.ofImage b := congrArg (StEntry.ofImage · b) hsame
      refine ⟨fun hagree => ⟨_, hexec, (stRestore_checked himg hok).trans ?_⟩,
        fun hgen hd => ⟨_, hexec, (stRestore_checked himg hok).trans ?_⟩⟩
      · rw [← hy, if_neg]
        rintro ⟨hgen, hd⟩
        rcases hagree with hoff | hzero
        · exact Bool.false_ne_true (hoff.symm.trans hgen)
        · exact hd hzero
      · rw [← hy, if_pos ⟨hgen, hd⟩]
        rfl
    case resync =>
      intro hrun hst
      exact ⟨_, congrArg Host.Outcome.next (runs stResync hrun (by simpa using hst)), rfl⟩
    case close =>
      intro hrun hst
      refine ⟨_, congrArg Host.Outcome.next (runs stClose hrun (by simpa using hst)), ?_, fun m hm => ?_, rfl⟩
      · exact (stEntry_completePkt _ _ _ _ _).trans ((stEntry_closeStream _ _ _).trans (if_pos rfl))
      · exact (stEntry_completePkt _ _ _ _ _).trans ((stEntry_closeStream _ _ _).trans (if_neg hm))
  case drained =>
    intro s n e hst hout
    exact ⟨fun hstops => ⟨_, exec_streamDrained_empty hst hout hstops,
        congrArg (fun l => s.setStEntry n { e with st := .idle, stops := l }) hstops.symm⟩,
      fun pid hstops => ⟨_, exec_streamDrained_empty hst hout hstops, rfl⟩⟩
  case service =>
    intro s s1 n s0 e p hnext hrun hread hrun1 hsafe
    have hexec := exec_sttServe_next hnext hrun hread hrun1 hsafe
    refine ⟨fun hend => ⟨_, hexec, sttServe_ended hend⟩, ?_⟩
    intro s2 s3 s4 tm r rc od recs xl h k qs stat reqs hpos hheld htm hok hroom hrel hslots hbatch hcheck hqueue hseq
    exact ⟨_, hexec, (sttServe_issues hpos hheld htm hok hroom hrel hslots).trans
      (sttIssue_submits hbatch hcheck hqueue hseq)⟩

end
